-- ==== Sys2Proof/Word.lean ====
section
/-! DEFINITION. The word types of the K4 and nothing else: 64-bit scalar words, 32-bit lanes and
instruction words, bytes, 64-byte lines and 256-bit flits (R5, R6, R39, R46). -/

namespace Sys2Proof

/-- A scalar register, an address or a CSR: 64 bits (R68). -/
abbrev Word := BitVec 64

/-- A vector element or an instruction word: 32 bits (R39, R242). -/
abbrev Lane := BitVec 32

/-- The smallest addressable unit (R6). -/
abbrev Byte := BitVec 8

/-- A 64-byte cache line, byte i at bits 8i+7 to 8i (R6). -/
abbrev Line := BitVec 512

/-- The value of a static-network flit (R46). -/
abbrev FlitVal := BitVec 256

/-- A floating-point, mask or lane value held as one beat: 8 lanes (R242). -/
abbrev Beat := List Lane

end Sys2Proof
end

