-- ==== Sys2Proof/Config.lean ====
section
/-! DEFINITION. What the spec leaves to an implementation, and the free values: constants with no body, so
that nothing in Lean can tell their value. A choice that recurs is applied to the count of free values drawn
(`State.free`), so that every draw may differ. -/

namespace Sys2Proof.Config

/-- A 64-bit value that the spec does not state: free. -/
opaque freeWord : Nat → Word

/-- A byte that the spec does not state, by draw and place: free. -/
opaque freeByte : Nat → Nat → Byte

/-- STEPPING of DEVINFO (Table 13-1): the spec gives no value. -/
opaque stepping : BitVec 8

/-- Physical address of the crash region that firmware reserves in HBM at bring-up (R377): opaque. -/
opaque crashBase : Nat

end Sys2Proof.Config
end

