-- ==== Sys2Proof/Syntax.lean ====
section
/-! DEFINITION. The steps of the part, one constructor for each row of the opcode table: first the Gomas
instruction words, then the route words of a switch, then the steps that the hardware, the control
complex and the host make without an instruction word. A word's operands are its fields as they
stand in the word (unsigned numbers; R41, R175); a hardware step's operands name the agent that makes
it, or the item it acts on by its place in the state's list of such items. -/

namespace Sys2Proof

/-- A register that keeps a taint bit (Table 5-6), or a control and status register that does. -/
inductive RegSite where
  | x (n : Nat)
  | v (n : Nat)
  | o (n : Nat)
  | lr
  | m (n : Nat)
  | a (n : Nat)
  | csr (n : Nat)
deriving DecidableEq, Repr

/-- Where an uncorrectable error strikes (R430, Table 15-3). -/
inductive ErrSite where
  | local (tile granule : Nat)
  | l2 (i granule : Nat)
  | hbm (granule : Nat)
  | core (tile : Nat)
  | engine (eng ctx : Nat)
  | shadow (tile word : Nat)
  | localTaint (tile granule : Nat)
  | l1d (tile i granule : Nat)
  | l1Taint (tile i granule : Nat)
  | l2Taint (i granule : Nat)
  | hbmTaint (line : Nat)
  | regTaint (tile ctx : Nat) (reg : RegSite)
  | l2Shadow (i word : Nat)
  | fatal (die unit : Nat)
  | corrected
deriving DecidableEq, Repr

/-- One step of the part (opcode_table.json). -/
inductive Instr where
  /-- R74: Writes A + B modulo 2^64 to D. -/
  | add (d a b : Nat)
  /-- R74: Writes A − B to D. -/
  | sub (d a b : Nat)
  /-- R74: Writes A & B to D. -/
  | and (d a b : Nat)
  /-- R74: Writes A | B to D. -/
  | or (d a b : Nat)
  /-- R74: Writes A ^ B to D. -/
  | xor (d a b : Nat)
  /-- R74: Writes A & ~B to D. -/
  | andn (d a b : Nat)
  /-- R74: Writes A | ~B to D. -/
  | orn (d a b : Nat)
  /-- R74: Shifts A left by the unsigned amount in B, giving 0 at 64 or more. -/
  | sll (d a b : Nat)
  /-- R74: Shifts A right with zero fill by the unsigned amount in B. -/
  | srl (d a b : Nat)
  /-- R74: Shifts A right with sign fill by min(B, 63). -/
  | sra (d a b : Nat)
  /-- R74: Writes 1 if A < B signed, else 0. -/
  | slt (d a b : Nat)
  /-- R74: Writes 1 if A < B unsigned, else 0. -/
  | sltn (d a b : Nat)
  /-- R74: Writes the signed smaller of A and B. -/
  | min (d a b : Nat)
  /-- R74: Writes the signed larger of A and B. -/
  | max (d a b : Nat)
  /-- R74: Writes the unsigned smaller of A and B. -/
  | minn (d a b : Nat)
  /-- R74: Writes the unsigned larger of A and B. -/
  | maxn (d a b : Nat)
  /-- R74: Writes the number of leading zero bits of A. -/
  | clz (d a : Nat)
  /-- R74: Writes the number of trailing zero bits of A. -/
  | ctz (d a : Nat)
  /-- R74: Writes the number of 1 bits of A. -/
  | popc (d a : Nat)
  /-- R74: Writes the bytes of A in reverse order. -/
  | bswap (d a : Nat)
  /-- R74: Writes the sign-extended 32-bit sum of A and B. -/
  | addw (d a b : Nat)
  /-- R74: Writes the sign-extended 32-bit difference of A and B. -/
  | subw (d a b : Nat)
  /-- R74: Shifts A[31:0] left and sign-extends the 32-bit result. -/
  | sllw (d a b : Nat)
  /-- R74: Shifts A[31:0] right with zero fill and sign-extends the result. -/
  | srlw (d a b : Nat)
  /-- R74: Shifts A[31:0] right with sign fill and sign-extends the result. -/
  | sraw (d a b : Nat)
  /-- R74: Writes 0 if B = 0, else A. -/
  | czero (d a b : Nat)
  /-- R75: Writes A plus the sign-extended immediate. -/
  | addi (d a i : Nat)
  /-- R75: Writes A & the sign-extended immediate. -/
  | andi (d a i : Nat)
  /-- R75: Writes A | the sign-extended immediate. -/
  | ori (d a i : Nat)
  /-- R75: Writes A ^ the sign-extended immediate. -/
  | xori (d a i : Nat)
  /-- R75: Writes 1 if A is below the signed immediate. -/
  | slti (d a i : Nat)
  /-- R75: Writes 1 if A unsigned is below the zero-extended immediate. -/
  | sltni (d a i : Nat)
  /-- R75: Writes the sign-extended 32-bit sum of A and the immediate. -/
  | addiw (d a i : Nat)
  /-- R76: Shifts A left by an immediate amount. -/
  | slli (d a s : Nat)
  /-- R76: Shifts A right with zero fill by an immediate amount. -/
  | srli (d a s : Nat)
  /-- R76: Shifts A right with sign fill by an immediate amount. -/
  | srai (d a s : Nat)
  /-- R77: Writes the sign-extended IMM20 shifted left by 14. -/
  | lui (d i : Nat)
  /-- R77: Writes PC plus the sign-extended IMM20 shifted left by 14. -/
  | adpc (d i : Nat)
  /-- R78: Issues a long-latency 64-bit product of A and B. -/
  | mul (d a b l : Nat)
  /-- R78: Issues the high 64 bits of the signed product. -/
  | mulh (d a b l : Nat)
  /-- R78: Issues the high 64 bits of the unsigned product. -/
  | mulhn (d a b l : Nat)
  /-- R78: Issues the high 64 bits of the signed-by-unsigned product. -/
  | mulhsn (d a b l : Nat)
  /-- R78: Issues a signed division to the shared divider, saturating and giving 0 for B = 0. -/
  | div (d a b l : Nat)
  /-- R78: Issues an unsigned division to the shared divider. -/
  | divn (d a b l : Nat)
  /-- R78: Issues a signed remainder to the shared divider. -/
  | rem (d a b l : Nat)
  /-- R78: Issues an unsigned remainder to the shared divider. -/
  | remn (d a b l : Nat)
  /-- R78: Issues a sign-extended 32-bit product. -/
  | mulw (d a b l : Nat)
  /-- R78: Issues a signed 32-bit division to the shared divider. -/
  | divw (d a b l : Nat)
  /-- R78: Issues an unsigned 32-bit division with sign-extended quotient. -/
  | divnw (d a b l : Nat)
  /-- R79: Branches if A = B. -/
  | beq (a b o : Nat)
  /-- R79: Branches if A ≠ B. -/
  | bne (a b o : Nat)
  /-- R79: Branches if A < B signed. -/
  | blt (a b o : Nat)
  /-- R79: Branches if A ≥ B signed. -/
  | bge (a b o : Nat)
  /-- R79: Branches if A < B unsigned. -/
  | bltn (a b o : Nat)
  /-- R79: Branches if A ≥ B unsigned. -/
  | bgen (a b o : Nat)
  /-- R80: Writes PC + 4 to D and jumps PC-relative. -/
  | jal (d o : Nat)
  /-- R80: Writes PC + 4 to D and jumps to A plus offset, faulting ALIGN if misaligned. -/
  | jalr (d a i : Nat)
  /-- R85: Activates a counted loop context over the following body, or skips it when the count is 0. -/
  | loopC (h a l : Nat)
  /-- R89: Activates a modulo loop with stage map and stage-valid shift register. -/
  | loopM (i a s : Nat)
  /-- R92: When A = 0, leaves the inner counted loop or sets DR in a modulo loop. -/
  | lbrk (a : Nat)
  /-- R93: Reads a selected loop-context value into D. -/
  | lctx (d s : Nat)
  /-- R116: Checks and issues a scalar load with base and scaled offset, opening a lookahead window. -/
  | ld (d a l z i : Nat)
  /-- R116: Checks and issues a scalar load with base and scaled index. -/
  | ldx (d a b l z h : Nat)
  /-- R118: Checks and retires a store with base and scaled offset into local store, remote region or the store buffer. -/
  | st (s a z i : Nat)
  /-- R118: Checks and retires a store with base and scaled index. -/
  | stx (s a b z h : Nat)
  /-- R122: Writes back a range at level l2 or hbm and stalls until every line is handled. -/
  | wbR (v a b : Nat)
  /-- R122: Discards copies of a range at level l1 or l2. -/
  | invR (v a b : Nat)
  /-- R122: Writes back and discards a range at level l1 or hbm. -/
  | wbinvR (v a b : Nat)
  /-- R122: Discards L1I copies of a range in the tile or the forme. -/
  | iinvR (v a b : Nat)
  /-- R124: Discards instruction words the context has fetched beyond itself. -/
  | fetchb
  /-- R122: Requests the lines of a range into L1D or the home slice without stalling. -/
  | pfr (v a b : Nat)
  /-- R126: Resends the selected faulted store-buffer entries after reselecting their spans. -/
  | sbreplay (a : Nat)
  /-- R126: Frees the selected faulted store-buffer entries without performing them. -/
  | sbdrop (a : Nat)
  /-- R127: Reads a store-buffer entry field or the summary into D as a long-latency result. -/
  | sbstat (d a l : Nat)
  /-- R155: Sends a 32-bit atomic swap to the home slice or local store. -/
  | amoWSwap (d a b o s : Nat)
  /-- R155: Sends a 32-bit atomic add. -/
  | amoWAdd (d a b o s : Nat)
  /-- R155: Sends a 32-bit atomic and. -/
  | amoWAnd (d a b o s : Nat)
  /-- R155: Sends a 32-bit atomic or. -/
  | amoWOr (d a b o s : Nat)
  /-- R155: Sends a 32-bit atomic xor. -/
  | amoWXor (d a b o s : Nat)
  /-- R155: Sends a 32-bit atomic signed minimum. -/
  | amoWMin (d a b o s : Nat)
  /-- R155: Sends a 32-bit atomic signed maximum. -/
  | amoWMax (d a b o s : Nat)
  /-- R155: Sends a 32-bit atomic unsigned minimum. -/
  | amoWMinn (d a b o s : Nat)
  /-- R155: Sends a 32-bit atomic unsigned maximum. -/
  | amoWMaxn (d a b o s : Nat)
  /-- R155: Sends a 32-bit atomic compare-and-swap with the expected value from D. -/
  | amoWCas (d a b o s : Nat)
  /-- R155: Sends a 64-bit atomic swap. -/
  | amoDSwap (d a b o s : Nat)
  /-- R155: Sends a 64-bit atomic add. -/
  | amoDAdd (d a b o s : Nat)
  /-- R155: Sends a 64-bit atomic and. -/
  | amoDAnd (d a b o s : Nat)
  /-- R155: Sends a 64-bit atomic or. -/
  | amoDOr (d a b o s : Nat)
  /-- R155: Sends a 64-bit atomic xor. -/
  | amoDXor (d a b o s : Nat)
  /-- R155: Sends a 64-bit atomic signed minimum. -/
  | amoDMin (d a b o s : Nat)
  /-- R155: Sends a 64-bit atomic signed maximum. -/
  | amoDMax (d a b o s : Nat)
  /-- R155: Sends a 64-bit atomic unsigned minimum. -/
  | amoDMinn (d a b o s : Nat)
  /-- R155: Sends a 64-bit atomic unsigned maximum. -/
  | amoDMaxn (d a b o s : Nat)
  /-- R155: Sends a 64-bit atomic compare-and-swap. -/
  | amoDCas (d a b o s : Nat)
  /-- R158: Combines an integer add into an update-only line or local store. -/
  | updAdd (w a b : Nat)
  /-- R158: Combines an and update. -/
  | updAnd (w a b : Nat)
  /-- R158: Combines an or update. -/
  | updOr (w a b : Nat)
  /-- R158: Combines an xor update. -/
  | updXor (w a b : Nat)
  /-- R158: Combines a signed minimum update. -/
  | updMin (w a b : Nat)
  /-- R158: Combines a signed maximum update. -/
  | updMax (w a b : Nat)
  /-- R158: Combines or sends an f32 add update, tainting unless ordered mode keeps it exact. -/
  | updFadd (a b : Nat)
  /-- R158: Combines an f32 minimum update. -/
  | updFmin (a b : Nat)
  /-- R158: Combines an f32 maximum update. -/
  | updFmax (a b : Nat)
  /-- R159: Pushes every update-only line of the tile and stalls until all are merged. -/
  | updFlush
  /-- R161: Waits as a commit point and performs the release and acquire work of its kind and scope. -/
  | fence (s k : Nat)
  /-- R163: Waits until an engine timeline counter reaches B, then acquires and writes the counter. -/
  | tlwait (d a b l : Nat)
  /-- R164: Reads the present value of a timeline counter, tainted. -/
  | tlrd (d a : Nat)
  /-- R166: Reads a register or granule taint bitmap into D, untainted. -/
  | tntRd (d a s : Nat)
  /-- R166: Sets the taint bits of the registers selected by A. -/
  | tntSet (a s : Nat)
  /-- R166: Clears the selected taint bits, privileged unless TCLRU. -/
  | tntClr (a s : Nat)
  /-- R166: Raises TAINTSINK if any selected register is tainted. -/
  | tntChk (a s : Nat)
  /-- R219: Reads a body from local store and injects a message for a galley of another tile. -/
  | send (a b : Nat)
  /-- R220: Injects a remote write to main store followed by a waiting-task counter increment. -/
  | sendw (a b : Nat)
  /-- R222: Skips pads and waits for a galley record, returning its address. -/
  | recv (d g : Nat)
  /-- R222: Returns the address of the next galley record or 0 without waiting. -/
  | rpoll (d g : Nat)
  /-- R222: Consumes the record at the galley head. -/
  | radv (g : Nat)
  /-- R221: Injects a 64-bit deposit for an mb register of a named context. -/
  | dep (a b : Nat)
  /-- R197: Reads the local tick count, package-aligned time or alignment interval counter, tainted. -/
  | tkrd (d s : Nat)
  /-- R198: Waits as a commit point, then stalls until package-aligned time reaches T + 24. -/
  | tkal (d a : Nat)
  /-- R201: Does fence.acqrel.sys work, pushes updates and records arrival at the first barrier. -/
  | sync
  /-- R202: Does fence.acqrel.sys work and records arrival at the block's group barrier. -/
  | gsync
  /-- R229: Commits, pushes updates, clears CTNT and ends the running routine. -/
  | rdone
  /-- R227: Arms a waiting-task entry with routine, rearm bit and threshold. -/
  | tpost (a b : Nat)
  /-- R228: Adds to the counter of a local waiting-task entry. -/
  | tinc (a b : Nat)
  /-- R256: Float add per element. -/
  | vfadd (d a b n m : Nat)
  /-- R256: Float subtract per element. -/
  | vfsub (d a b n m : Nat)
  /-- R256: Float multiply per element. -/
  | vfmul (d a b n m : Nat)
  /-- R256: Float minimum per element. -/
  | vfmin (d a b n m : Nat)
  /-- R256: Float maximum per element. -/
  | vfmax (d a b n m : Nat)
  /-- R256: Copies the sign of B onto A per element. -/
  | vfcsgn (d a b n m : Nat)
  /-- R256: Clears the sign bit per element. -/
  | vfabs (d a n m : Nat)
  /-- R256: Inverts the sign bit per element. -/
  | vfneg (d a n m : Nat)
  /-- R256: Fused A × B + D per element. -/
  | vfma (d a b n m : Nat)
  /-- R256: Fused A × B − D per element. -/
  | vfms (d a b n m : Nat)
  /-- R256: Fused −(A × B) + D per element. -/
  | vfnma (d a b n m : Nat)
  /-- R256: Fused −(A × B) − D per element. -/
  | vfnms (d a b n m : Nat)
  /-- R256: Float division per element. -/
  | vfdiv (d a b n m : Nat)
  /-- R256: Float square root per element. -/
  | vfsqrt (d a n m : Nat)
  /-- R256: Writes the class word of each f32 element. -/
  | vfclass (d a n m : Nat)
  /-- R258: Integer add per value. -/
  | vadd (d a b n m : Nat)
  /-- R258: Integer subtract per value. -/
  | vsub (d a b n m : Nat)
  /-- R258: Integer multiply per value. -/
  | vmul (d a b n m : Nat)
  /-- R258: High half of the integer product per value. -/
  | vmulh (d a b n m : Nat)
  /-- R258: Signed minimum per value. -/
  | vmin (d a b n m : Nat)
  /-- R258: Signed maximum per value. -/
  | vmax (d a b n m : Nat)
  /-- R258: Unsigned minimum per value. -/
  | vminn (d a b n m : Nat)
  /-- R258: Unsigned maximum per value. -/
  | vmaxn (d a b n m : Nat)
  /-- R258: Bitwise and per value. -/
  | vand (d a b n m : Nat)
  /-- R258: Bitwise or per value. -/
  | vor (d a b n m : Nat)
  /-- R258: Bitwise xor per value. -/
  | vxor (d a b n m : Nat)
  /-- R258: Left shift per value. -/
  | vsll (d a b n m : Nat)
  /-- R258: Logical right shift per value. -/
  | vsrl (d a b n m : Nat)
  /-- R258: Arithmetic right shift per value. -/
  | vsra (d a b n m : Nat)
  /-- R258: Absolute value per value. -/
  | vabs (d a n m : Nat)
  /-- R258: Selects A or B per element by the mask named in MSK. -/
  | vsel (d a b n m : Nat)
  /-- R259: Sets mask bits where f32 A = B. -/
  | vfeq (d a b n m : Nat)
  /-- R259: Sets mask bits where f32 A < B. -/
  | vflt (d a b n m : Nat)
  /-- R259: Sets mask bits where f32 A ≤ B. -/
  | vfle (d a b n m : Nat)
  /-- R259: Sets mask bits where A or B is NaN. -/
  | vfun (d a b n m : Nat)
  /-- R259: Sets mask bits where the 32-bit elements are equal. -/
  | veq (d a b n m : Nat)
  /-- R259: Sets mask bits where A < B signed. -/
  | vlt (d a b n m : Nat)
  /-- R259: Sets mask bits where A < B unsigned. -/
  | vltn (d a b n m : Nat)
  /-- R259: Sets mask bits where A ≤ B signed. -/
  | vle (d a b n m : Nat)
  /-- R260: Mask and. -/
  | mand (d a b n m : Nat)
  /-- R260: Mask or. -/
  | mor (d a b n m : Nat)
  /-- R260: Mask xor. -/
  | mxor (d a b n m : Nat)
  /-- R260: Mask complement. -/
  | mnot (d a n m : Nat)
  /-- R260: Counts the set bits of a mask into a scalar. -/
  | mpop (d a n m : Nat)
  /-- R260: Writes the index of the lowest set mask bit, or 64. -/
  | mfirst (d a n m : Nat)
  /-- R260: Sets the mask bits below a scalar count. -/
  | msetl (d a n m : Nat)
  /-- R261: Copies mask A to mask D. -/
  | mmovMm (d a n m : Nat)
  /-- R261: Copies scalar A into mask D. -/
  | mmovXm (d a n m : Nat)
  /-- R261: Copies mask A zero-extended into scalar D. -/
  | mmovMx (d a n m : Nat)
  /-- R262: Reduces f32 elements by rounded lane partials and a fixed tree. -/
  | vfsum (d a n m : Nat)
  /-- R262: Reduces to the f32 maximum. -/
  | vfrmax (d a n m : Nat)
  /-- R262: Reduces to the f32 minimum. -/
  | vfrmin (d a n m : Nat)
  /-- R262: Reduces to the exact signed integer sum. -/
  | vrsum (d a n m : Nat)
  /-- R262: Reduces to the signed maximum. -/
  | vrmax (d a n m : Nat)
  /-- R262: Reduces to the signed minimum. -/
  | vrmin (d a n m : Nat)
  /-- R262: Reduces by bitwise and. -/
  | vrand (d a n m : Nat)
  /-- R262: Reduces by bitwise or. -/
  | vror (d a n m : Nat)
  /-- R263: Writes a scalar to every element. -/
  | vsplat (d a n m : Nat)
  /-- R263: Slides elements up by a scalar count. -/
  | vslu (d a b n m : Nat)
  /-- R263: Slides elements down by a scalar count. -/
  | vsld (d a b n m : Nat)
  /-- R263: Permutes A by indices in B. -/
  | vperm (d a b n m : Nat)
  /-- R263: Extracts one element into a scalar. -/
  | vext (d a b n m : Nat)
  /-- R263: Inserts a scalar into one element. -/
  | vins (d a b n m : Nat)
  /-- R263: Interleaves A and B. -/
  | vzip (d a b n m : Nat)
  /-- R263: Takes the even elements of A then B. -/
  | vunzip (d a b n m : Nat)
  /-- R257: Correctly rounded reciprocal per element. -/
  | vrcp (d a n m : Nat)
  /-- R257: Correctly rounded reciprocal square root. -/
  | vrsq (d a n m : Nat)
  /-- R257: Correctly rounded 2^A. -/
  | vex2 (d a n m : Nat)
  /-- R257: Correctly rounded log2 A. -/
  | vlg2 (d a n m : Nat)
  /-- R257: Correctly rounded tanh A. -/
  | vtanh (d a n m : Nat)
  /-- R266: Checks and issues a strided vector load as a long-latency result. -/
  | vld (d a b l n h : Nat)
  /-- R267: Checks every participating element, then stores beat by beat through the store buffer. -/
  | vst (s a b n m h : Nat)
  /-- R268: Loads elements at base plus vector offsets as a long-latency result. -/
  | vgather (d a b l n : Nat)
  /-- R268: Stores elements at base plus vector offsets. -/
  | vscatter (s a b n : Nat)
  /-- R264: Converts each element between types without rotation. -/
  | vcvt (d a n m : Nat)
  /-- R264: Converts A and B to 16-bit values packed in one element. -/
  | vpack (d a b n m : Nat)
  /-- R264: Converts one 16-bit half of each element to a 32-bit type. -/
  | vunpk (d a h n m : Nat)
  /-- R290: Rotates and narrows f32 blocks to codes under their scale words. -/
  | vqnt (d a b n m : Nat)
  /-- R291: Restores f32 values from codes by the inverse rotation. -/
  | vdqt (d a b n m : Nat)
  /-- R292: Applies the forward rotation of the tag and rounds to f32. -/
  | vrotFwd (d a n m : Nat)
  /-- R292: Applies the inverse rotation of the tag to f32 inputs. -/
  | vrotInv (d a n m : Nat)
  /-- R289: Chooses one scale word per block for the target code type. -/
  | vscl (d a n m : Nat)
  /-- R275: Sets PFXP and PFXPAY for the next instruction. -/
  | pfx (d a b t r s : Nat)
  /-- R307: Enqueues a command that fills the shadow plane from memory or an accumulator. -/
  | mld (d a b : Nat)
  /-- R307: Enqueues a transposed shadow-plane load from memory. -/
  | mldT (d a b : Nat)
  /-- R308: Enqueues a command that exchanges the active and shadow planes. -/
  | mswap
  /-- R309: Enqueues a product accumulated into an accumulator. -/
  | mmac (d a b : Nat)
  /-- R309: Enqueues a product into a zeroed accumulator. -/
  | mmacz (d a b : Nat)
  /-- R311: Enqueues a masked store of accumulator elements to local store. -/
  | mst (d a b : Nat)
  /-- R313: Enqueues a long-latency read of an accumulator row group into a vector register. -/
  | mrd (d a b l : Nat)
  /-- R312: Enqueues a masked load of accumulator elements from local store. -/
  | mwr (d a b : Nat)
  /-- R312: Enqueues a command that zeroes selected accumulator elements. -/
  | mzero (d b : Nat)
  /-- R343: Checks a descriptor and enqueues a linear copy on an engine context. -/
  | ecpy (d a b : Nat)
  /-- R343: Checks a descriptor and enqueues a two-dimensional copy. -/
  | ecpy2 (d a b : Nat)
  /-- R343: Checks a descriptor and enqueues a stream-port transfer. -/
  | estrm (d a b : Nat)
  /-- R346: Installs a copy as an engine node with a threshold. -/
  | enode (d a b : Nat)
  /-- R355: Reads a CSR into D. -/
  | csrr (d n : Nat)
  /-- R355: Writes A to a CSR that has no behaviour of its own. -/
  | csrw (a n : Nat)
  /-- R355: Sets CSR bits from A. -/
  | csrs (a n : Nat)
  /-- R355: Clears CSR bits from A. -/
  | csrc (a n : Nat)
  /-- R357: Raises UTRAP with the code. -/
  | trap (h l : Nat)
  /-- R362: Restores the context from the privileged frame. -/
  | tret
  /-- R362: Restores the context from the upcall frame, keeping privileged STATUS fields. -/
  | uret
  /-- R357: Stalls the context until an interrupt line is set. -/
  | wfi
  /-- R357: Stops the context until it is given a new thread. -/
  | halt
  /-- R376: Freezes the core or engine context named in A. -/
  | frz (a : Nat)
  /-- R357: Raises BRKPT or records a stop request for the forme. -/
  | brk (h l : Nat)
  /-- R357: Emits a Tygal MARK record with the code and A. -/
  | mark (a c : Nat)
  /-- R176: A route word fires its moves and optional bus listen, then advances. -/
  | route (n e s w c l b q t : Nat)
  /-- R177: A rep word fires its moves COUNT times. -/
  | rep (n e s w c k : Nat)
  /-- R178: A ring word starts cycling its ring-table rows for PASSES passes or forever. -/
  | ring (f i p : Nat)
  /-- R179: Sets SPC to TARGET. -/
  | jmp (t : Nat)
  /-- R180: Decrements a nonzero counter and jumps, else advances. -/
  | bnz (c t : Nat)
  /-- R181: Loads a switch counter. -/
  | setc (c v : Nat)
  /-- R182: Waits until the selected time modulo 65,536 equals VALUE. -/
  | tkwt (b v : Nat)
  /-- R183: Drives a row or column bus slot when the source and every listener are ready. -/
  | bus (b s r k : Nat)
  /-- R184: Sets HALTED; the switch does nothing more until make-ready. -/
  | switchHalt
  /-- R184: Takes one tick. -/
  | nop
  /-- R156: The atomic's reply writes the old value to D, tainted, and performs any acquire part. -/
  | atomicComplete (tile ctx : Nat)
  /-- R153: The home slice merges pushed update words into the location, or into the exact ordered-float sum. -/
  | updateMerge (i : Nat)
  /-- R223: A waiting recv wakes when TAIL advances and returns the record address. -/
  | recvWake (tile ctx : Nat)
  /-- R198: Releases the tkal, writing the slip, updating TKREP and clearing the alignment interval counter. -/
  | tkalRelease (tile ctx : Nat)
  /-- R231: The dispatcher starts a queued routine on the lowest free dispatch context once no conflict remains. -/
  | routineStart (tile : Nat)
  /-- R307: The sequencer runs an mld command, checking tags and scale words before writing the shadow plane. -/
  | mldExec (tile : Nat)
  /-- R308: The sequencer exchanges the planes. -/
  | mswapExec (tile : Nat)
  /-- R303: The sequencer checks and forms the chunked products into the accumulator. -/
  | mmacExec (tile : Nat)
  /-- R303: The sequencer forms the products starting from +0. -/
  | mmaczExec (tile : Nat)
  /-- R311: The sequencer stores selected accumulator elements. -/
  | mstExec (tile : Nat)
  /-- R313: The sequencer reads the row group and lands it in the vector destination. -/
  | mrdExec (tile : Nat)
  /-- R312: The sequencer loads selected accumulator elements. -/
  | mwrExec (tile : Nat)
  /-- R312: The sequencer zeroes selected accumulator elements. -/
  | mzeroExec (tile : Nat)
  /-- R320: Each tick a cluster with no bursting tile passes its power token to the next cluster of the forme. -/
  | tokenPass (die : Nat)
  /-- R320: A tile stops bursting after 64 ticks with no mmac or mmacz. -/
  | burstEnd (tile : Nat)
  /-- R344: An engine context runs a linear copy line by line at the home slices. -/
  | ecpyExec (eng ctx : Nat)
  /-- R344: An engine context runs a row-strided copy. -/
  | ecpy2Exec (eng ctx : Nat)
  /-- R345: An engine context moves flits between memory and a stream port. -/
  | estrmExec (eng ctx : Nat)
  /-- R346: An installed node whose count reaches its threshold uninstalls and runs its copy. -/
  | nodeFire (eng ctx node : Nat)
  /-- R347: A finished engine command raises the timeline in order and notifies its task entry or node. -/
  | engineCommandComplete (eng ctx : Nat)
  /-- R108: A HASHDOM write makes slices write back and drop the domain's lines and installs the new generation. -/
  | hashdomWrite (dom : Nat) (val : Word)
  /-- R108: The write completes when every request of the previous generation is answered. -/
  | hashdomWriteComplete (dom : Nat)
  /-- R108: A REHOME reply installs the slice's record at the requester, which reissues to the new home. -/
  | rehomeReply (i : Nat)
  /-- R327: Allocates an empty root for an ASID. -/
  | asidon
  /-- R327: Frees an ASID's tables when no leaf is present. -/
  | asidoff
  /-- R327: Writes a NORMAL leaf, allocating tables on the path. -/
  | map
  /-- R327: Writes a present leaf with ST REQ. -/
  | mapreq
  /-- R327: Makes a leaf absent, frees its frame records and drops cached translations and stream windows. -/
  | unmap
  /-- R336: Starts moving a NORMAL 4 KiB page to a placed target frame. -/
  | migrate
  /-- R327: Returns the leaf entry covering a VA in XMC2. -/
  | query
  /-- R335: Completes a page request, setting the leaf state and depositing status to waiters. -/
  | presp
  /-- R357: A waiting wfi resumes when an INTP bit becomes 1. -/
  | wfiWake (tile ctx : Nat)
  /-- R51: The result of a long-latency instruction lands and becomes visible when its window closes. -/
  | longLatencyLanding (tile ctx win : Nat)
  /-- R114: A commit point whose entries are all confirmed or faulted proceeds or raises DSTORE and other deferred faults. -/
  | commitPoint (tile ctx : Nat)
  /-- R112: The home slice writes a store-buffer entry's bytes and the entry is freed. -/
  | storeConfirm (tile entry : Nat)
  /-- R113: A failed translation faults an entry and later entries to its line, invalidating their L1D lines. -/
  | storeEntryFault (tile entry : Nat)
  /-- R145: The home slice's race-check reply lets a CHECKED store proceed or raises RACE precisely. -/
  | raceCheckReply (tile ctx : Nat)
  /-- R109: A fill arrives at a slice, answers the waiters in arrival order and overwrites the waiter list. -/
  | l2Fill (i : Nat)
  /-- R109: A request answered RETRY is reissued 16 ticks later. -/
  | retryReissue (i : Nat)
  /-- R329: A controller translates a line request, checking and claiming frames at first use. -/
  | walk (i : Nat)
  /-- R388: The page-request record is written to the host ring when room appears. -/
  | pageRequestRecordWrite (ctl slot : Nat)
  /-- R336: The controller copies one line to the new frame indivisibly and sets its bit, completing the page after line 63. -/
  | migrationCopyLine (ctl i : Nat) (err : Bool)
  /-- R145: A remote store write arrives at the receiver's shadow bank and is landed or refused by the race check. -/
  | remoteStoreLand (i : Nat)
  /-- R215: A send reaches its tile and is written to a galley, dead-lettered or refused. -/
  | sendArrive (i : Nat)
  /-- R220: A sendw writes its bytes into main store and then raises the named task counter. -/
  | sendwArrive (i : Nat)
  /-- R217: A deposit writes an mb register, setting VALID or OVF, or is dead-lettered. -/
  | depositArrive (i : Nat)
  /-- R210: An acknowledgement of a performed, dead-lettered or refused write reaches its sender. -/
  | msgAck (i : Nat)
  /-- R358: An interrupt packet sets an INTP line of the named context or is dead-lettered. -/
  | interruptPacketArrive (i : Nat)
  /-- R358: A set line with IE = 1 and EXL = 0 is taken on the trap route at an instruction boundary. -/
  | interruptTake (tile ctx : Nat)
  /-- R140: 512 ticks after a notification window ends, its SC operations may complete. -/
  | scWindowResolve (window : Nat)
  /-- R233: All tiles meet the first-barrier condition; the ordered-float sums fold and the imbalance record is written. -/
  | firstBarrierComplete (forme : Nat)
  /-- R237: The exchange engine sends an exchange-list entry as writes to the receiver's shadow bank. -/
  | exchangeEntrySend (tile : Nat)
  /-- R237: An exchange-engine write lands or is refused by the race check at the receiver. -/
  | exchangeWriteLand (i : Nat)
  /-- R238: All tiles meet the second-barrier condition and completion is signalled. -/
  | secondBarrierComplete (forme : Nat)
  /-- R238: The tile swaps its window banks, raises the superstep number and begins the next compute phase. -/
  | bankSwap (tile : Nat)
  /-- R239: Every GSMASK context of the block has arrived and the group barrier is signalled. -/
  | groupBarrierComplete (forme block : Nat)
  /-- R372: At the end of a 64-tick collection window the forme's exceptions are reported and FPX delivered. -/
  | fpxCollection (forme : Nat) (window : Word)
  /-- R367: The forme watchdog period passes without progress and raises WDOG. -/
  | wdog (forme : Nat)
  /-- R207: A through-lane connection forwards a flit onward when the downstream queue has room. -/
  | throughLaneForward (tile conn : Nat)
  /-- R187: A flit crossing a die edge enters the edge buffer, asserting HOLD at 40 or being discarded when full. -/
  | edgeFlitArrive (i : Nat)
  /-- R189: An asserted or released HOLD reaches the sender 12 ticks later and changes that lane's room. -/
  | holdArrive (i : Nat)
  /-- R193: Every 64 local ticks a die sends L and P across each shared edge. -/
  | tickUpdateSend (die : Nat)
  /-- R193: A neighbour's update sets its estimate to P_e + 24. -/
  | tickUpdateArrive (i : Nat)
  /-- R394: Copies a configuration image into the control complex and checks it, including the model run. -/
  | register (queue : Nat)
  /-- R383: Frees an image handle. -/
  | unregister (queue : Nat)
  /-- R395: Checks a launch, runs the model run, copies code and data, and makes the forme ready. -/
  | launch (queue : Nat)
  /-- R397: Loads the forme's tiles and releases superstep 0, once any earlier make-ready on the die ends. -/
  | makeReady (forme : Nat)
  /-- R383: Requests that the forme stop at its next exchange boundary. -/
  | stop (queue : Nat)
  /-- R369: Sends the stop on the barrier network and halts every context of the forme. -/
  | preempt (queue : Nat)
  /-- R370: After windows and store buffers settle, writes each context's save record. -/
  | contextSave (forme : Nat)
  /-- R371: Reloads save records and dumps and restarts the forme's contexts. -/
  | resume (queue : Nat)
  /-- R383: Stops every master of the forme and idles its tiles. -/
  | kill (queue : Nat)
  /-- R383: Copies bytes between host and device memory, written back to HBM. -/
  | copy (queue : Nat)
  /-- R383: Applies a mapping command on behalf of the host. -/
  | mapcmd (queue : Nat)
  /-- R383: A launch record that only completes. -/
  | nopRecord (queue : Nat)
  /-- R383: Sends an interrupt packet to a context of a forme. -/
  | intr (queue : Nat)
  /-- R381: A doorbell write of a queue tail makes the control complex read records. -/
  | hqtailWrite (queue : Nat) (val : Word)
  /-- R382: The control complex fetches and validates a launch record, breaking the queue on error. -/
  | recordFetch (queue : Nat)
  /-- R384: A record is accepted once its predecessor has taken effect and its waits are met. -/
  | recordAccept (queue : Nat)
  /-- R381: The control complex reads an HBM queue's tail word at least every 10 µs. -/
  | tailwordPoll (queue : Nat)
  /-- R381: Writing EN := 1 starts a queue with its counters at 0. -/
  | queueEnable (queue : Nat) (cfg : Word)
  /-- R385: Writing EN := 0 stops fetching, drops unfetched records and reports CANCELLED. -/
  | queueDestroy (queue : Nat)
  /-- R436: Firmware writes a signed attestation report and sets ATTST. -/
  | attgo
  /-- R380: Writes a BAR register that has no behaviour of its own. -/
  | barRegisterWrite (off : Nat) (val : Word)
  /-- R404: A closed trace frame is written to its ring or discarded on a translation failure. -/
  | traceFrameWrite (tile : Nat)
  /-- R379: Kills every forme and disables every queue and ring. -/
  | functionLevelReset
  /-- R424: Boot firmware is verified and bring-up begins. -/
  | powerOn
  /-- R424: Every 2 µs each die brings up its next cluster, releasing package reset after the last. -/
  | clusterRamp (die : Nat)
  /-- R428: A die reaching 100 °C sets THROT and withdraws surplus tokens. -/
  | thermalThrottle (die : Nat)
  /-- R428: After 1 ms below 95 °C THROT clears and tokens re-enter. -/
  | throttleClear (die : Nat)
  /-- R429: A die at 110 °C takes the FATAL path; at 115 °C the rails are cut. -/
  | thermalFatal (die : Nat)
  /-- R430: An uncorrectable storage error poisons data, freezes a master or raises FATAL. -/
  | uncorrectableError (site : ErrSite)
  /-- R431: A periodic scrub of an HBM stack or L2 slice corrects or poisons. -/
  | scrub (found : List ErrSite)
  /-- R432: A Jarros flit failing 64 retries declares the link down. -/
  | linkDown (port : Nat)
  /-- R193: Each tick of a die's clock raises L, advances every neighbour estimate E[e], raises P by one when it lies below min(L, E), and raises every alignment interval counter. -/
  | localTick (die : Nat)
  /-- R387: An event held while the event ring was full is written to the ring when room appears, raising EVTAIL and signalling the vector. -/
  | eventRecordWrite
  /-- R123: When every line of a wb.r, inv.r, wbinv.r or iinv.r range has been handled, the stalled context is released. -/
  | rangeOperationComplete (tile ctx : Nat)
  /-- R164: The value of a copy-engine timeline counter returns to a tlrd, is written tainted into D and releases the stalled context. -/
  | tlrdReply (tile ctx : Nat)
  /-- R166: The granule taint bits of a line read by tnt.rd with selector 2 return from the point of service and are written into D, releasing the context. -/
  | taintLineReadReply (tile ctx : Nat)
  /-- R435: At the host's request, firmware raises the fused 32-bit rollback counter, which never falls. -/
  | rollbackCounterRaise (val : Lane)
deriving DecidableEq, Repr

end Sys2Proof
end

