-- ==== Sys2Proof/Machine/State.lean ====
section
/-! DEFINITION. The state of one MXK4-4096 package as plain data: every register, queue, table and
transfer in progress that the spec names, from a context's registers up to the host's queues, with
State.reset. Tiles, cache lines and page-table leaves are listed only where they are in use. -/

namespace Sys2Proof.Machine

/-- Byte memory: (address, byte) pairs in canonical form, see `Memory.wf` in Machine/Memory.lean. -/
abbrev Memory := List Host.Cell

/-- A set of granule or line numbers whose taint bit is 1, strictly rising (R146). -/
abbrev TaintSet := List Nat

/-! ### A hardware context -/

/-- What a context does (R370): no thread, running, halted, or frozen with its core. -/
inductive CtxState where
  | noThread | running | halted | frozen
deriving DecidableEq, Repr

/-- One active loop context (Table 3-10 and R82). The inner loop stands first in `Ctx.loops`. -/
structure LoopCtx where
  modulo : Bool
  sm1 : Nat
  beg : Word
  len : Nat
  v : BitVec 4
  cnt : Lane
  n : Lane
  j : Nat
  dr : Bool
  /-- stage of each slot, as the stage-map words give it (R88) -/
  stages : List Nat
deriving DecidableEq, Repr

/-- A fault in full: code, subcode, kind and cause record (Tables 12-5, 12-7 and 12-8). -/
structure Exc where
  code : BitVec 8
  sub : BitVec 8 := 0
  kind : BitVec 3 := 0
  tval : Word := 0
  ipc : Word := 0
  step : Word := 0
  info0 : Word := 0
  info1 : Word := 0
  info2 : Word := 0
  /-- TVAL comes from tainted values, and so do INFO0, INFO1 and INFO2, bit by bit (R360) -/
  tnt : Bool := false
  infoT : BitVec 3 := 0
deriving DecidableEq, Repr

/-- Which long-latency operation opened a window (R51), with what a reissue needs (Table 12-6). -/
inductive WinKind where
  | value                                        -- MULDIV and sbstat: the result is known at issue
  | load (size : Nat) (signed : Bool)
  | vld
  | gather (offs : List Lane)
  | tlwait
  | mrd (num : Nat)
deriving DecidableEq, Repr

/-- Whether a window's result has landed (R51, R117). -/
inductive WinState where
  | waiting
  /-- the value is bound and has not landed yet -/
  | bound (v : Word) (t : Bool)
  | boundV (vs : List Lane) (t : Bool)
  | landed (v : Word) (t : Bool)
  | landedV (vs : List Lane) (t : Bool)
  | failed (e : Exc)
deriving DecidableEq, Repr

/-- One open lookahead window (R51 to R53, Table 12-6). -/
structure Window where
  id : Nat
  ipc : Word
  step : Word
  rem : Nat
  dst : Nat
  vec : Bool
  n : Nat
  kind : WinKind
  st : WinState
  addr : Word
  aux : Word
  /-- taint of the address operands and of control at issue -/
  tnt : Bool
  /-- how many of its elements, from the first on, later windows of the same destination that closed before it have written
  already; 1 for a scalar result (R53) -/
  written : Nat := 0
  /-- STATUS.WINCHK as it stood when the window opened (R52, R355) -/
  chk : Bool := false
deriving DecidableEq, Repr

/-- One span: SPANB, SPANL and SPANA (Tables 4-4 to 4-6). -/
structure Span where
  b : Word := 0
  l : Word := 0
  a : Word := 0
deriving DecidableEq, Repr

/-- What a context waits for between the issue of its instruction and the event that ends it. -/
inductive Wait where
  | nothing
  | recv (g : Nat) (d : Nat)
  /-- tkal: T, the local tick of issue, D, and the port and flit consumed, if any -/
  | tkal (t : Word) (issued : Word) (d : Nat) (port : Option (Nat × FlitVal × Bool))
  | sync
  | gsync
  | wfi
  /-- a request for an atomic, with the port and flit that it has consumed, if any -/
  | atomic (req : Nat) (port : Option (Nat × FlitVal × Bool))
  | race (req : Nat)
  | raceOk                                       -- the race check passed; the store may proceed
  /-- a range operation: function (Table 4-13), level, first and last byte, its span -/
  | range (fn lv first last : Nat) (p : Span)
  | tlrd (v : Word) (d : Nat)
  | taintRead (req : Nat) (d : Nat)
  | flush
  | mapping
  /-- a write of a domain record, by number and value (R108) -/
  | hashdom (d : Nat) (v : Word)
  | fence (sc : Nat)                             -- an SC operation waits for its window (R140)
  | fpx
deriving DecidableEq, Repr

/-- Why an issue attempt made no progress; the cause that R411 charges a tick to. Three wait on the core itself and are
no off-core reference (R28, R73): `muldiv` on the multiplier or the divider, `near` on the result of a load that local
store, the store buffer or L1D has answered, `matrix` on the result of mrd. -/
inductive Stall where
  | port | mem | commit | sync | engine | msg | muldiv | near | matrix
deriving DecidableEq, Repr

/-- Taint bits of a context's registers (R146). -/
structure RegTaint where
  x : BitVec 32 := 0
  v : BitVec 32 := 0
  o : BitVec 8 := 0
  lr : Bool := false
  m : BitVec 8 := 0
deriving DecidableEq, Repr

/-- A floating-point exception awaiting its collection window (R255, R372). -/
structure FpxPend where
  window : Word
  elem : Nat
  flags : BitVec 5
  pc : Word
  step : Word
deriving DecidableEq, Repr

/-- The routine that a dispatch context runs, and the task entry that launched it, if any. -/
structure Running where
  routine : Nat
  entry : Option Nat
deriving DecidableEq, Repr

/-- A 64-element vector register (R242). -/
abbrev VReg := Vector Lane 64

/-- One hardware context: registers, control state, context CSRs, spans and open work. -/
structure Ctx where
  st : CtxState := .noThread
  gen : BitVec 8 := 0
  pc : Word := 0
  status : Word := 0
  x : Vector Word 32 := Vector.replicate 32 0
  v : Vector VReg 32 := Vector.replicate 32 (Vector.replicate 64 0)
  o : Vector (Vector Lane 8) 8 := Vector.replicate 8 (Vector.replicate 8 0)
  lr : VReg := Vector.replicate 64 0
  m : Vector Word 8 := Vector.replicate 8 0
  mb : Vector Word 4 := Vector.replicate 4 0
  mbTaint : BitVec 4 := 0
  mbstat : Word := 0
  taint : RegTaint := {}
  loops : List LoopCtx := []
  wins : List Window := []
  nextWin : Nat := 0
  tvec : Word := 0
  tfp : Word := 0
  uvec : Word := 0
  ufp : Word := 0
  udeleg : Vector Word 3 := Vector.replicate 3 0
  intp : Word := 0
  tscr : Word := 0
  fpctl : Word := 0
  qctl : Word := 0
  pfxpay : Word := 0
  /-- address that the pending prefix applies to; none after a restored state (R58, R277) -/
  pfxNext : Option Word := none
  /-- the pending prefix stood on the last word of a loop body and applies to no instruction (R86, R91) -/
  pfxLost : Bool := false
  vbeat : Word := 0
  redacc : BitVec 256 := 0
  mastr : Word := 0
  msstr : Word := 0
  mascl : Word := 0
  mbscl : Word := 0
  xmc : Vector Word 4 := Vector.replicate 4 0
  xmst : Word := 0
  /-- taint bit of each CSR 0x000 to 0x1FF of the context (R353) -/
  csrTaint : BitVec 512 := 0
  spans : Vector Span 32 := Vector.replicate 32 {}
  /-- words fetched beyond the instruction at PC, with their addresses (R124) -/
  fetched : List (Word × Lane) := []
  /-- store sequence number SEQ (R112) -/
  seq : Lane := 0
  /-- touched-cluster mask and unacknowledged remote writes (R141) -/
  touched : BitVec 256 := 0
  remote : Nat := 0
  wait : Wait := .nothing
  stall : Option Stall := none
  /-- what its last attempt waited on, also once it may try again, until it issues: the cause that R411 charges -/
  waited : Option Stall := none
  running : Option Running := none
  fpx : Option FpxPend := none
  /-- deferred faults not yet delivered: RACE of remote stores, GALLEYOVF (R365) -/
  deferred : List Exc := []
  /-- where an unreported DSTORE restored with the context is raised: at the instruction at which it resumed (R115) -/
  dstoreAt : Option Word := none
deriving DecidableEq, Repr

/-! ### A tile -/

/-- A static-network flit and its taint bit (R46, R146). -/
structure Flit where
  val : FlitVal
  taint : Bool
deriving DecidableEq, Repr

/-- The state of one late-fault store-buffer entry (R112 to R114): a confirmed one, whose bytes its home slice has written,
is about to be freed. -/
inductive EntryState where
  | pending
  | confirmed
  | faulted (cause : BitVec 8)
deriving DecidableEq, Repr

/-- One late-fault store-buffer entry (R112). -/
structure SbEntry where
  idx : Nat
  ctx : Fin 4
  gen : BitVec 8
  asid : Nat
  va : Word
  mask : BitVec 32
  data : BitVec 256
  taint : Bool
  pc : Word
  step : Word
  seq : Lane
  home : Nat
  dom : Nat
  /-- its span is of HOME = HASH, so that its request names a generation (R108) -/
  hash : Bool
  st : EntryState
  reported : Bool
  /-- the tile's L1D held its line when it retired, and shows it to the tile's other contexts since (R133) -/
  shown : Bool := false
  /-- its place in the order of the tile's requests and pushes -/
  ord : Nat
deriving DecidableEq, Repr

/-- A clean L1D copy of a line (R100). -/
structure L1Line where
  asid : Nat
  line : Nat
  dom : Nat
  data : Line
  taint : BitVec 8
  /-- granules that hold an uncorrectable error (R430) -/
  poison : BitVec 8 := 0
deriving DecidableEq, Repr

/-- An update-only line of L1D (R151): the pending operands of one function and width. -/
structure UpdLine where
  asid : Nat
  line : Nat
  home : Nat
  dom : Nat
  /-- its span is of HOME = HASH, so that its push names a generation (R108) -/
  hash : Bool
  fn : Nat
  wide : Bool
  valid : BitVec 16
  vals : List Word
  taint : BitVec 16
  /-- the contexts whose operands it holds, by number (R141) -/
  ctxs : BitVec 4 := 0
deriving DecidableEq, Repr

/-- The state of a switch (Table 6-2). -/
structure Switch where
  prog : List Lane := []
  spc : Nat := 0
  c : Vector (BitVec 16) 4 := Vector.replicate 4 0
  rem : Nat := 0
  ring : Vector Lane 32 := Vector.replicate 32 0
  /-- FIRST and II of the running ring word, while one runs -/
  inRing : Option (Nat × Nat) := none
  rrow : Nat := 0
  rpass : Nat := 0
  latch : Option Flit := none
  halted : Bool := true
deriving DecidableEq, Repr

/-- Where one direction of one lane of a link stands in the direction map (R208):
physical direction 0 to 3 (N, E, S, W) and whether the lane is the through lane. -/
structure LinkEnd where
  dir : Nat
  thru : Bool
deriving DecidableEq, Repr

/-- A connection that make-ready sets at a tile onto an outgoing through lane (R207, R393). -/
structure ThruConn where
  inDir : Nat
  inThru : Bool
  outDir : Nat
deriving DecidableEq, Repr

/-- The static-network queues of a tile (Table 6-1), by physical direction N E S W. -/
structure Fabric where
  coreIn : Vector (List Flit) 4 := Vector.replicate 4 []
  coreOut : Vector (List Flit) 4 := Vector.replicate 4 []
  sched : Vector (List Flit) 4 := Vector.replicate 4 []
  thru : Vector (List Flit) 4 := Vector.replicate 4 []
  /-- logical direction to link end, outputs then inputs; none: no such link (R206) -/
  outMap : Vector (Option LinkEnd) 4 := Vector.replicate 4 none
  inMap : Vector (Option LinkEnd) 4 := Vector.replicate 4 none
  conns : List ThruConn := []
  /-- HOLD seen by this tile's outputs, bit dir for the scheduled and 4 + dir for the through lane -/
  holdSeen : BitVec 8 := 0
  /-- HOLD asserted by this tile's edge buffers, numbered alike -/
  holdOut : BitVec 8 := 0
deriving DecidableEq, Repr

/-- A plane of the matrix unit (R294, R295). -/
structure Plane where
  ty : Nat := 3
  tag : Nat := 0
  len : Nat := 16
  codes : List Byte := []
  scales : List (BitVec 16) := []
  taint : Bool := false
deriving DecidableEq, Repr

/-- A queued matrix command: the 64-byte command of Table 10-2 and what was fixed at issue (R315). -/
structure MxCmd where
  num : Nat
  word0 : Word
  addr : Word
  mask : Word
  stride : Word
  scale : Word
  pc : Word
  user : Word
  /-- T0 fixed at issue, and whether its seed entry was loaded then -/
  tag0 : Nat
  seedOk : Bool
  taint : Bool
  userT : Bool := false
  ctx : Fin 4
  step : Word
  /-- words of local store that the command has read already, with the taint of their granule, and the elements that it
  has stored already, while the rest of it still runs (R316) -/
  seen : List (Nat × List Byte × Bool) := []
  wrote : List Nat := []
deriving DecidableEq, Repr

/-- A deferred fault of a matrix or engine command (R317, R348). -/
structure CmdFault where
  num : Nat
  tile : Nat
  ctx : Fin 4
  gen : BitVec 8
  exc : Exc
deriving DecidableEq, Repr

/-- The matrix unit of a tile (Table 10-1). -/
structure Matrix where
  active : Plane := {}
  shadow : Plane := {}
  acc : Vector (Vector Lane 256) 8 := Vector.replicate 8 (Vector.replicate 256 0)
  accTaint : BitVec 8 := 0
  queue : List MxCmd := []
  tl : Nat := 0
  enq : Nat := 0
  win : Vector Byte 64 := Vector.replicate 64 0
  /-- taint of each byte of the queue window's assembly buffer -/
  winTaint : BitVec 64 := 0
  faults : List CmdFault := []
  bursting : Bool := false
  idleTicks : Nat := 0
deriving DecidableEq, Repr

/-- One exchange-list entry (Table 7-10), lengths in bytes. -/
structure XEntry where
  src : Nat
  tile : Nat
  dst : Nat
  len : Nat
deriving DecidableEq, Repr

/-- The exchange engine of a tile (R236, R237). -/
structure Exchange where
  list : List XEntry := []
  /-- next entry to send in this exchange phase; none outside a walk -/
  pos : Option Nat := none
  walks : Nat := 0
  tl : Nat := 0
  /-- per entry in flight: its command number and the writes not yet acknowledged -/
  inflight : List (Nat × Nat) := []
  faults : List CmdFault := []
  /-- words of the next entry that the engine has read already: offset, bytes and taint (R237) -/
  seen : List (Nat × List Byte × Bool) := []
deriving DecidableEq, Repr

/-- One waiting-task entry (Table 7-8). -/
structure TaskE where
  arm : Bool := false
  rearm : Bool := false
  pend : Bool := false
  routine : Nat := 0
  thr : Nat := 0
  cnt : Nat := 0
deriving DecidableEq, Repr

/-- A galley: GALCFG and GALPTR (Tables 7-1, 7-2). -/
structure Galley where
  cfg : Word := 0
  ptr : Word := 0
deriving DecidableEq, Repr

/-- A request in the dispatcher's ready queue: routine and launching entry (R231). -/
structure Launch where
  routine : Nat
  entry : Option Nat
deriving DecidableEq, Repr

/-- A message-network write (R209). Addresses are physical tile numbers. -/
inductive PktKind where
  | remoteStore (off : Nat) (bytes : List Byte) (ctx : Fin 4) (pc : Word)
  | send (galley gen len tag : Nat) (seq : Nat) (body : List Byte) (ctx : Fin 4) (pc : Word)
  | sendw (dst inc entry : Nat) (body : List Byte)
  | dep (gen mb ctx seq : Nat) (val : Word) (desc : Word)
  | intr (ctx line gen : Nat)
  | xchg (off : Nat) (bytes : List Byte) (num entry : Nat)
deriving DecidableEq, Repr

/-- A packet of the message network, with its taint bit and the superstep of its issue. -/
structure Packet where
  src : Nat
  srcLog : Nat
  srcCtx : Fin 4
  srcGen : BitVec 8
  dst : Nat
  taint : Bool
  step : Word
  kind : PktKind
  /-- granule taint of an exchange write, by byte (R237) -/
  byteTaint : List Bool
deriving DecidableEq, Repr

/-- The context that a packet names, with its generation (R29): tile, context, generation; for a send no context number, since
the owner of its galley is meant. -/
def Packet.names (k : Packet) : Option (Nat × Option Nat × Nat) :=
  match k.kind with
  | .send _ gen _ _ _ _ _ _ => some (k.dst, none, gen)
  | .dep gen _ ctx _ _ _ => some (k.dst, some ctx, gen)
  | .intr ctx _ gen => some (k.dst, some ctx, gen)
  | .remoteStore _ _ _ _ | .sendw _ _ _ _ | .xchg _ _ _ _ => none

/-- An acknowledgement travelling back to a sender (R210): whether the write was refused by a galley
or by a race check, and the fault that the sender owes for it. -/
structure Ack where
  dst : Nat
  ctx : Fin 4
  gen : BitVec 8
  xnum : Option Nat
  fault : Option Exc
  /-- the context and generation that the write named: tile, context, generation; a send names the owner of its galley (R29) -/
  names : Option (Nat × Option Nat × Nat) := none
deriving DecidableEq, Repr

/-- A tile's Tygal trace (R403 to R409): the open frame, the records of the present tick of P that are still to be
put in order (kind, context, payload), and the closed frames that wait, each with its number of records. -/
structure Trace where
  frame : Nat := 0
  buf : List Byte := []
  recs : Nat := 0
  lastP : Word := 0
  openP : Word := 0
  cur : List (Nat × Nat × List Byte) := []
  curP : Word := 0
  /-- the superstep in which the records of that tick began -/
  curStep : Nat := 0
  /-- the frame is to be closed once those records are written: at a halt, or at a bank swap if it is old enough (R404) -/
  haltDue : Bool := false
  swapDue : Bool := false
  /-- the open frame takes no more records, and is closed as soon as fewer than four frames wait (R404, R405) -/
  closeDue : Bool := false
  waiting : List (Nat × List Byte × Nat) := []
  lost : Nat := 0
deriving DecidableEq, Repr

/-- Lines that a pfr has asked for and that may still arrive (R123): level l2 or l1, span, first and last line. -/
structure PfrReq where
  l2 : Bool
  asid : Nat
  span : Span
  first : Nat
  last : Nat
deriving DecidableEq, Repr

/-- A race shadow record: last writer and phase (R142). -/
structure Shadow where
  word : Nat
  writer : Nat
  phase : Nat
deriving DecidableEq, Repr

/-- One tile that belongs to a forme. -/
structure Tile where
  phys : Nat
  forme : Nat := 0
  logical : Nat := 0
  ctxs : Vector Ctx 4 := Vector.replicate 4 {}
  /-- the context that issued last (R28) -/
  issuing : Fin 4 := 0
  /-- that context has made an off-core reference since issue came to it (R28) -/
  offCore : Bool := false
  frozen : Bool := false
  main : Memory := []
  bankA : Memory := []
  bankB : Memory := []
  activeA : Bool := true
  mainTaint : TaintSet := []
  bankATaint : TaintSet := []
  bankBTaint : TaintSet := []
  /-- granules holding an uncorrectable error (R430) -/
  poison : TaintSet := []
  /-- records of the shadow bank (R142) -/
  shadow : List Shadow := []
  l1d : List L1Line := []
  l1i : List L1Line := []
  upd : List UpdLine := []
  pfr : List PfrReq := []
  sb : List SbEntry := []
  sw : Switch := {}
  fab : Fabric := {}
  mx : Matrix := {}
  xch : Exchange := {}
  tasks : Vector TaskE 32 := Vector.replicate 32 {}
  gal : Vector Galley 5 := Vector.replicate 5 {}
  stage : Nat := 0
  dispMask : BitVec 4 := 0
  barMask : BitVec 4 := 0
  gsMask : BitVec 4 := 0
  block : Option Nat := none
  period : Nat := 1
  list : List (Nat × Nat) := []
  ready : List Launch := []
  held : List Launch := []
  injq : List Packet := []
  msgSeq : Nat := 0
  /-- message-network writes issued and not yet acknowledged (R233) -/
  unacked : Nat := 0
  synced : BitVec 4 := 0
  gsynced : BitVec 4 := 0
  arrival : Option Word := none
  /-- the second barrier has been signalled and the tile has not swapped yet -/
  swapDue : Bool := false
  /-- the tile has swapped its banks and is one superstep ahead of the forme's record -/
  ahead : Bool := false
  tkrep : Word := 0
  dlstat : Word := 0
  deadStep : Option Word := none
  mqwin : Word := 0
  mxstat : Word := 0
  imba : Word := 0
  imbb : Word := 0
  fpxpc : Word := 0
  fpxinf : Word := 0
  fpxpend : Vector Word 64 := Vector.replicate 64 0
  /-- taint bit of each tile CSR 0x200 to 0x28F, by number minus 0x200 (R353) -/
  csrTaint : BitVec 256 := 0
  /-- this tile's copy of the interleave domain records (R108) -/
  doms : Vector Word 16 := Vector.replicate 16 0
  alignCtr : Nat := 0
  counters : Vector Lane 12 := Vector.replicate 12 0
  issued : Bool := false
  /-- ticks after a taken control transfer that are still to be charged to ISSUE (R73, R411) -/
  bubble : Nat := 0
  swFired : Bool := false
  divBusy : Bool := false
  trace : Trace := {}
deriving DecidableEq, Repr

/-! ### The memory system -/

/-- Where a line of memory lies (R324, R331, R332). -/
inductive Loc where
  | hbm (pa : Nat)
  | host (addr : Nat)
  | remote (pkg va : Nat)
deriving DecidableEq, Repr

/-- The progress of a line's fill (R109, R329). -/
inductive FillState where
  | valid
  | walking
  | found (loc : Loc) (uc : Bool)
  | failed (code sub : BitVec 8) (req : Word)
deriving DecidableEq, Repr

/-- A line in its home slice: data, taint per granule, dirty mark, race shadow (R96, R109, R142). -/
structure L2Line where
  slice : Nat
  asid : Nat
  line : Nat
  dom : Nat
  fill : FillState
  data : Line
  taint : BitVec 8
  dirty : Bool
  poison : BitVec 8
  shadow : List Shadow
deriving DecidableEq, Repr

/-- An exact sum of an ordered-float-update word (R153), in units of 2^-149. -/
structure OfuSum where
  slice : Nat
  asid : Nat
  va : Nat
  sum : Int
  pinf : Bool
  ninf : Bool
  nan : Bool
  allNegZero : Bool
  taint : Bool
  /-- the domain of its line, where its span is of HOME = HASH (R108) -/
  dom : Option Nat
  /-- the formes whose tiles have added to it since it was last folded -/
  formes : List Nat
deriving DecidableEq, Repr

/-- What a memory request asks of its home slice. -/
inductive ReqKind where
  | load (win : Nat)
  | vload (win : Nat) (elem : Nat)
  | store (entry : Nat)
  | atomic (op : Nat) (wide : Bool) (b e : Word) (tb : Bool) (d : Nat) (order scope : Nat)
  | raceCheck (words : List Nat)
  | taintRead (d : Nat)
deriving DecidableEq, Repr

/-- How far a request has come (R108, R109). -/
inductive ReqState where
  | sent
  | waiting
  | retry
  | rehome (rec : Word)
  | done (v : Word) (t : Bool)
  | failed (e : Exc)
deriving DecidableEq, Repr

/-- A memory-network request in flight. -/
structure Req where
  id : Nat
  tile : Nat
  ctx : Fin 4
  gen : BitVec 8
  asid : Nat
  va : Word
  size : Nat
  home : Nat
  /-- domain index and the generation it was issued under; none for NAMED and REPL spans -/
  dom : Option (Nat × Nat)
  domIdx : Nat
  chk : Bool
  nc : Bool
  pc : Word
  step : Word
  /-- store sequence number of the context at issue: which buffered stores precede the request -/
  seq : Lane
  kind : ReqKind
  st : ReqState
  /-- taint of the operands that its address comes from (R360) -/
  tnt : Bool := false
deriving DecidableEq, Repr

/-- Words of an update-only line pushed to their home slice (R152). -/
structure Push where
  id : Nat
  upd : UpdLine
  /-- domain index and the generation it was sent under; none for NAMED spans (R108) -/
  dom : Option (Nat × Nat)
  tile : Nat
  ofu : Bool
  forme : Nat
deriving DecidableEq, Repr

/-- One present page-table leaf of one controller (Table 11-3), with the page it maps and whether a
walk has used it (R325). -/
structure Leaf where
  asid : Nat
  va : Nat
  entry : Word
  used : Bool
deriving DecidableEq, Repr

/-- An open page request (R334). -/
structure Slot where
  slot : Nat
  asid : Nat
  va : Nat
  access : Nat
  size : Nat
  waiters : List (Nat × Nat × Nat)
  recorded : Bool
deriving DecidableEq, Repr

/-- A page in migration (R336). -/
structure Migration where
  asid : Nat
  va : Nat
  old : Nat
  new : Nat
  next : Nat
deriving DecidableEq, Repr

/-- A memory controller: translation tables, frame records, page requests (R323 to R337). -/
structure Controller where
  roots : List Nat := []
  leaves : List Leaf := []
  /-- the valid frame records (R325), as extents: first frame, frames, ASID, virtual page of the first frame;
  an extent holds the record of each of its frames of this controller's colour -/
  frames : List (Nat × Nat × Nat × Nat) := []
  slots : List Slot := []
  migs : List Migration := []
  /-- the orphan ring, the records that it has room for, and the count of orphans (R333, log entry 21) -/
  orphans : List (List Word) := []
  orphanRing : Nat := 4096
  orphanCount : Nat := 0
  /-- tables below the roots: ASID, level, and the virtual-address bits that lead to it (R323) -/
  tables : List (Nat × Nat × Nat) := []
  /-- bytes of the reserved region that firmware has given to the tables (R323, log entry 21) -/
  region : Nat := 2 ^ 32
deriving DecidableEq, Repr

/-- A stream window (Table 11-7). -/
structure StreamWin where
  v : Bool
  vbase : Nat
  pbase : Nat
  pages : Nat
deriving DecidableEq, Repr

/-- A stream port of a tile of a forme (R338): its windows, the flits that the switch has sent to it and, for each
direction, the stream that it carries: engine, context and command number (R345). The flits on their way into the
fabric stand in the tile's input FIFO of that side. -/
structure StreamPort where
  tile : Nat
  side : Nat
  wins : List StreamWin := []
  out : List Flit := []
  src : Option (Nat × Nat × Nat) := none
  snk : Option (Nat × Nat × Nat) := none
deriving DecidableEq, Repr

/-- An engine descriptor: words 0 to 7 (Table 11-9). -/
abbrev Desc := Vector Word 8

/-- A command of a copy-engine context: its descriptor and what was recorded at issue (R343). -/
structure EngCmd where
  num : Nat
  fn : Nat
  desc : Desc
  tile : Nat
  ctx : Fin 4
  gen : BitVec 8
  asid : Nat
  pc : Word
  step : Word
  /-- home placement of source and destination recorded at issue; none for a local range -/
  srcHome : Option Span
  dstHome : Option Span
  /-- bytes copied, or flits moved, so far -/
  pos : Nat
  /-- pieces of the destination line at `pos` that a copy has moved out of their order: place, length and taint (R344) -/
  ahead : List (Nat × Nat × Bool) := []
  /-- taint of the descriptor's words as they were read -/
  taint : BitVec 8 := 0
  /-- its place in the order of the issuing tile's requests and pushes: what precedes it there happens before its accesses
  (R135) -/
  ord : Nat := 0
deriving DecidableEq, Repr

/-- A node of an engine context (R346). -/
structure Node where
  cmd : Option EngCmd := none
  cnt : Nat := 0
  thr : Nat := 0
deriving DecidableEq, Repr

/-- One copy-engine context (R340). -/
structure EngCtx where
  eng : Nat
  ctx : Nat
  forme : Nat
  queue : List EngCmd
  enq : Nat
  tl : Nat
  /-- finished commands whose completion has not been counted yet (R347), oldest first, with their faults -/
  finished : List (EngCmd × Option Exc)
  /-- commands completed out of number order -/
  ahead : List Nat
  nodes : Vector Node 16
  /-- copies of fired nodes, which run beside the queue -/
  fired : List EngCmd
  faults : List CmdFault
  frozen : Bool
deriving DecidableEq, Repr

/-- A mapping command of a context on its way to the controllers (R326, R328): XMC0 to XMC3, and the context that
waits for it. -/
structure MapCmd where
  xmc : Vector Word 4
  tile : Nat
  ctx : Fin 4
deriving DecidableEq, Repr

/-! ### Formes, dies and the control complex -/

/-- A routine descriptor (R230, Table 13-8). -/
structure Routine where
  entry : Word
  rd : List (Nat × Nat)
  wr : List (Nat × Nat)
  rs : List Nat
  ws : List Nat
  ports : List (Bool × Nat)
deriving DecidableEq, Repr

/-- One tile's record in an image (Table 13-8). -/
structure TileRec where
  stage : Nat
  disp : BitVec 4
  bar : BitVec 4
  gs : BitVec 4
  block : Option Nat
  period : Nat
  list : List (Nat × Nat)
  xlist : List XEntry
  prog : List Lane
  gal : List Word
deriving DecidableEq, Repr

/-- A DATA entry of an image. -/
structure DataEnt where
  span : Option Nat
  first : Nat
  last : Nat
  off : Nat
  bytes : List Byte
deriving DecidableEq, Repr

/-- A STREAM entry of an image. -/
structure StreamEnt where
  tile : Nat
  side : Nat
  wins : List StreamWin
deriving DecidableEq, Repr

/-- A ROUTE entry of an image. -/
structure RouteEnt where
  src : Nat
  first : Nat
  dst : Nat
  dirs : List Nat
deriving DecidableEq, Repr

/-- A configuration image as registered (R389 to R391). -/
structure Image where
  w : Nat
  h : Nat
  level : Nat := 4
  lmain : Nat := 256
  lexch : Nat := 64
  req : Word := 0
  opt : Word := 0
  modes : Word := 0
  savebase : Word := 0
  codeva : Word := 0
  code : List Byte := []
  spans : List Span := []
  /-- tag, mask and whether the length is 64, for each loaded entry -/
  seeds : List (Nat × Word × Bool) := []
  routines : List Routine := []
  tiles : List TileRec := []
  data : List DataEnt := []
  streams : List StreamEnt := []
  engines : List (Nat × Nat) := []
  routes : List RouteEnt := []
  ctxinit : List (List Word) := []
deriving DecidableEq, Repr

/-- Where a forme stands. -/
inductive FormePhase where
  | making | compute | exchange | swapping | halted | stopped | ended | killed
deriving DecidableEq, Repr

/-- A request that a forme stop at an exchange boundary (R413): reason 1 for a brk, whose tile, context, PC and code it
names (R357), 2 for a STOP record. A late one came after its tile's superstep had ended somewhere and waits one more. -/
structure StopReq where
  reason : Nat
  tile : Nat
  ctx : Nat
  pc : Word := 0
  code : Nat
  late : Bool
deriving DecidableEq, Repr

/-- A forme (R18, R26, R395 to R397). -/
structure Forme where
  id : Nat
  asid : Nat
  x0 : Nat
  y0 : Nat
  img : Image
  b : Nat
  k : Nat := 0
  v : Word := 0
  phase : FormePhase := .making
  /-- the phase to take up again after a halt -/
  resumeTo : FormePhase := .compute
  queue : Nat := 0
  hrec : Nat := 0
  /-- requests to stop, in the order in which they reached the root -/
  stops : List StopReq := []
  /-- the forme halts for a stop at its boundary, and what has been done of it: the dump written -/
  stopping : Bool := false
  dumped : Bool := false
  /-- the fault that halted the forme, and whether the host has been told of it -/
  fault : Option Exc := none
  reported : Bool := false
  resumable : Bool := true
  /-- the save records of this halt are written; or could not be (R370) -/
  saved : Bool := false
  saveFailed : Bool := false
  wdog : Nat := 0
  maxStage : Nat := 0
  /-- tokens: (die, cluster index in the forme's cluster list of that die) (R320) -/
  tokens : List (Nat × Nat) := []
  /-- tokens withdrawn on each die while it is throttled (R428), by die -/
  withdrawn : List Nat := []
deriving DecidableEq, Repr

/-- One die: ticks, package-aligned time, neighbour estimates, power (R192, R193, R426). -/
structure Die where
  l : Word := 0
  p : Word := 0
  /-- estimate for each neighbouring die -/
  est : List (Nat × Word) := []
  /-- P of each neighbour whose update arrives in this die's next tick (R193) -/
  updates : List (Nat × Word) := []
  /-- local tick of the last tick update sent -/
  lastSend : Word := 0
  cap : BitVec 8 := 0
  temp : BitVec 8 := 0
  throt : Bool := false
  /-- ticks for which TEMP has stayed below 95 °C (R428) -/
  cool : Nat := 0
  /-- clusters brought up so far (R424) -/
  ramped : Nat := 0
deriving DecidableEq, Repr

/-- A tick update crossing a die edge (R193). -/
structure TickUpd where
  src : Nat
  dst : Nat
  /-- L of the sender at the send, and its P -/
  l : Word
  p : Word
deriving DecidableEq, Repr

/-- A flit on the wire of a die edge, or a change of HOLD on its way back (R187, R189). -/
structure EdgeFlit where
  tile : Nat
  dir : Nat
  thru : Bool
  flit : Flit
deriving DecidableEq, Repr

/-- A HOLD change travelling to the sender (R189). -/
structure HoldMsg where
  tile : Nat
  dir : Nat
  thru : Bool
  on : Bool
deriving DecidableEq, Repr

/-- A host record fetched or accepted: its 32 words (Table 13-2) and its index, with 2^32 times the number of starts of its
queue before it added. -/
structure HRec where
  words : Vector Word 32
  index : Nat
  /-- the generation that the context named by an INTR held when the record was accepted (R358) -/
  gen : Nat := 0
  /-- its interrupt packet has been sent -/
  started : Bool
  /-- the record has taken effect (R384) -/
  effect : Bool
  /-- the record has completed -/
  complete : Bool
deriving DecidableEq, Repr

/-- A submission queue (Table 13-1). -/
structure HQueue where
  base : Word := 0
  en : Bool := false
  loc : Bool := false
  st : Nat := 0
  log2n : Nat := 0
  vec : Nat := 0
  asid : Nat := 0
  tail : Lane := 0
  head : Lane := 0
  done : Word := 0
  err : Word := 0
  tailva : Word := 0
  fetched : Option HRec := none
  /-- records accepted and not completed, those of earlier starts of the queue among them (R385, R386) -/
  accepted : List HRec := []
  /-- how often the queue has been started -/
  starts : Nat := 0
  lastVal : Word := 0
  /-- the queue was destroyed or broke and becomes all ones when its records have completed -/
  closing : Bool := false
deriving DecidableEq, Repr

/-- A ring written by the device (Table 13-1). -/
structure DevRing where
  base : Word := 0
  en : Bool := false
  ovf : Bool := false
  log2n : Nat := 0
  vec : Nat := 0
  tail : Lane := 0
  head : Lane := 0
deriving DecidableEq, Repr

/-- An entry of the MSI-X table at offset 0x8_0000 of the BAR (R380): its layout and its reset value, with the mask bit set,
are those of PCI Express (log entry 35). -/
structure MsixEnt where
  addr : Word := 0
  data : Lane := 0
  mask : Bool := true
deriving DecidableEq, Repr

/-- The host side: BAR registers, queues and rings (Tables 13-1, 15-2, R433, R436). -/
structure HostSide where
  featmask : Word := 0
  pkgcfg : Word := 0
  dstate : Nat := 0
  ev : DevRing := {}
  pr : DevRing := {}
  queues : Vector HQueue 64 := Vector.replicate 64 {}
  held : List (List Word) := []
  /-- MSI-X vectors signalled and not yet taken by the host -/
  msix : List Nat := []
  /-- the MSI-X table, and the pending-bit array: vectors signalled while they are masked (R380) -/
  msixTable : Vector MsixEnt 64 := Vector.replicate 64 {}
  msixPend : Word := 0
  errCorr : Lane := 0
  errPoison : Lane := 0
  attaddr : Word := 0
  nonce : Vector Word 4 := Vector.replicate 4 0
  attst : Bool := false
  rollback : Lane := 0
  /-- 4 KiB pages of host memory whose reads complete with an error -/
  badPages : List Nat := []
  /-- next queue in the control complex's round robin (R384) -/
  turn : Nat := 0
deriving DecidableEq, Repr

/-- An SC operation announced and not yet completed (R139, R140). -/
structure ScOp where
  id : Nat
  window : Nat
  tile : Nat
  ctx : Fin 4
  va : Option Word
  /-- bytes of an atomic's location -/
  size : Nat := 0
  resolved : Bool
deriving DecidableEq, Repr

/-- Whose move it is: the physical tile and the context that act. -/
structure Actor where
  tile : Nat
  ctx : Fin 4
deriving DecidableEq, Repr

/-- A step of the hardware, the control complex or the host, as the schedule names it: one for each row of the opcode
table that has no word, under the name and with the operands of its constructor of Instr. -/
inductive Event where
  | atomicComplete (tile ctx : Nat)
  | updateMerge (i : Nat)
  | recvWake (tile ctx : Nat)
  | tkalRelease (tile ctx : Nat)
  | routineStart (tile : Nat)
  | mldExec (tile : Nat)
  | mswapExec (tile : Nat)
  | mmacExec (tile : Nat)
  | mmaczExec (tile : Nat)
  | mstExec (tile : Nat)
  | mrdExec (tile : Nat)
  | mwrExec (tile : Nat)
  | mzeroExec (tile : Nat)
  | tokenPass (die : Nat)
  | burstEnd (tile : Nat)
  | ecpyExec (eng ctx : Nat)
  | ecpy2Exec (eng ctx : Nat)
  | estrmExec (eng ctx : Nat)
  | nodeFire (eng ctx node : Nat)
  | engineCommandComplete (eng ctx : Nat)
  | hashdomWrite (dom : Nat) (val : Word)
  | hashdomWriteComplete (dom : Nat)
  | rehomeReply (i : Nat)
  | asidon
  | asidoff
  | map
  | mapreq
  | unmap
  | migrate
  | query
  | presp
  | wfiWake (tile ctx : Nat)
  | longLatencyLanding (tile ctx win : Nat)
  | commitPoint (tile ctx : Nat)
  | storeConfirm (tile entry : Nat)
  | storeEntryFault (tile entry : Nat)
  | raceCheckReply (tile ctx : Nat)
  | l2Fill (i : Nat)
  | retryReissue (i : Nat)
  | walk (i : Nat)
  | pageRequestRecordWrite (ctl slot : Nat)
  | migrationCopyLine (ctl i : Nat) (err : Bool)
  | remoteStoreLand (i : Nat)
  | sendArrive (i : Nat)
  | sendwArrive (i : Nat)
  | depositArrive (i : Nat)
  | msgAck (i : Nat)
  | interruptPacketArrive (i : Nat)
  | interruptTake (tile ctx : Nat)
  | scWindowResolve (window : Nat)
  | firstBarrierComplete (forme : Nat)
  | exchangeEntrySend (tile : Nat)
  | exchangeWriteLand (i : Nat)
  | secondBarrierComplete (forme : Nat)
  | bankSwap (tile : Nat)
  | groupBarrierComplete (forme block : Nat)
  | fpxCollection (forme : Nat) (window : Word)
  | wdog (forme : Nat)
  | throughLaneForward (tile conn : Nat)
  | edgeFlitArrive (i : Nat)
  | holdArrive (i : Nat)
  | tickUpdateSend (die : Nat)
  | tickUpdateArrive (i : Nat)
  | register (queue : Nat)
  | unregister (queue : Nat)
  | launch (queue : Nat)
  | makeReady (forme : Nat)
  | stop (queue : Nat)
  | preempt (queue : Nat)
  | contextSave (forme : Nat)
  | resume (queue : Nat)
  | kill (queue : Nat)
  | copy (queue : Nat)
  | mapcmd (queue : Nat)
  | nopRecord (queue : Nat)
  | intr (queue : Nat)
  | hqtailWrite (queue : Nat) (val : Word)
  | recordFetch (queue : Nat)
  | recordAccept (queue : Nat)
  | tailwordPoll (queue : Nat)
  | queueEnable (queue : Nat) (cfg : Word)
  | queueDestroy (queue : Nat)
  | attgo
  | barRegisterWrite (off : Nat) (val : Word)
  | traceFrameWrite (tile : Nat)
  | functionLevelReset
  | powerOn
  | clusterRamp (die : Nat)
  | thermalThrottle (die : Nat)
  | throttleClear (die : Nat)
  | thermalFatal (die : Nat)
  | uncorrectableError (site : ErrSite)
  | scrub (found : List ErrSite)
  | linkDown (port : Nat)
  | localTick (die : Nat)
  | eventRecordWrite
  | rangeOperationComplete (tile ctx : Nat)
  | tlrdReply (tile ctx : Nat)
  | taintLineReadReply (tile ctx : Nat)
  | rollbackCounterRaise (val : Lane)
deriving DecidableEq, Repr

/-- A choice that the spec leaves to the hardware or its surroundings and that is no step of the
opcode table: an eviction, a new temperature, a host write to its own memory. -/
inductive EnvMove where
  | evictL1D (tile i : Nat)
  | evictL1I (tile i : Nat)
  | evictUpd (tile i : Nat)
  | evictL2 (i : Nat)
  | hostWrite (addr : Nat) (b : Byte)
  | takeMsix
  | barWrite32 (off : Nat) (v : Lane)
  | prefetch (tile : Nat) (ctx : Fin 4)
  | pfrFill (tile i line : Nat)
  | temperature (die : Nat) (t : BitVec 8)
  | hostPage (page : Nat) (bad : Bool)
  | remotePage (pkg page : Nat) (fail : Option (BitVec 8 × BitVec 8))
  | mxWord (tile off : Nat)
  | xchWord (tile off : Nat)
  | engWord (eng ctx : Nat) (two : Bool) (i : Nat)
deriving DecidableEq, Repr

/-- One entry of the schedule: the agent that moves next. -/
inductive Move where
  | core (tile : Nat)
  | switch (tile : Nat)
  | event (e : Event)
  | env (e : EnvMove)
deriving DecidableEq, Repr

/-- The fuses of the package (R435, R436): the SHA-384 digest of the root public key, and the private identity key. The
rollback counter is `HostSide.rollback`. -/
structure Fuses where
  rootDigest : List Byte :=
    [0xcd, 0x4b, 0xc1, 0x1d, 0x37, 0xe5, 0xd7, 0x72, 0xe2, 0x4e, 0x82, 0x7a, 0xd9, 0x92, 0x17, 0xcb,
     0xdf, 0x4c, 0x0a, 0xfc, 0x31, 0xe3, 0x3d, 0xa1, 0x06, 0x36, 0xcf, 0x5f, 0xb4, 0x0b, 0x8a, 0x35,
     0x22, 0xf3, 0x90, 0x72, 0x93, 0xd1, 0xd1, 0x68, 0x3c, 0x6d, 0xc2, 0xf8, 0xbc, 0xc8, 0x73, 0xb2]
  identity : Nat :=
    0xd79fca5c733565592da40d9a608963b61d025721715b2bf540659dd7017da41ae27abe1873806151f2eb1971d950b72d
deriving DecidableEq, Repr

/-- A boot or control-complex firmware image (R435): its bytes, version, signing key (x, y), the certificate of that key, and the
signature (r, s). The reset contents stand for the images that the part was shipped with (log entry 38). -/
structure FwImage where
  body : List Byte := []
  version : Lane := 0
  key : Nat × Nat :=
    (0x3013aa002d5ca66dbe5626530156fa09f487ec901654fd736f100893496b1a5107d6e40bea625b9b18a89cf6fdcf3338,
    0x41faa53e55b0e6ce2854ab21abf4a8982eafbfe9b857f66b3ca1db15c55b9662b41ee2fbc273534c861e6f47655885f3)
  cert : Nat × Nat :=
    (0x59d0c348620039edae728109c0d5a30adb2443d008be3e9f40aa535ec4bf2aad2f3634776d1a06c2a7cb9e02c1c0f15b,
    0x960c89415342f8477353d276584c3a9fbd8cc680929f5902c67b595b0a8189d5e34ad0a906977084469455730a45927f)
  sig : Nat × Nat :=
    (0xc181ef5abbe69aeadd7519a6bc7b5c093f40c5eaa01b5eaea693bcf8704beaae5734c1e923cc0671d391ef2fe4b36743,
    0x0a74ae6fe3ee434114e09c926ee5cd142749ec225c14a1232f94eba6b31d848755635f83c1f6ef9877248acf2a7eabe5)
deriving DecidableEq, Repr

/-- What the boot ROM reads (R435): the root public key and the two images. -/
structure Firmware where
  rootKey : Nat × Nat :=
    (0x0e2acb569bbde377390152d76a73eb90023fece8a52b392c7e35238a1cdead415bb2544da4500f1979d633871bcd4b78,
    0x2816ddcfbc7e6664ca9efcb7acac3973d25b08e578ed6294cda5deeafa34668630fffcbc9ae4301dc5a38f6027a90793)
  boot : FwImage := {}
  control : FwImage := {}
deriving DecidableEq, Repr

/-- The whole package. -/
structure State where
  tiles : List Tile := []
  /-- local stores of tiles that no forme holds, kept at retention voltage (R425) -/
  idle : List Tile := []
  formes : List Forme := []
  images : List (Nat × Image) := []
  dies : Vector Die 4 := Vector.replicate 4 {}
  ctls : Vector Controller 12 := Vector.replicate 12 {}
  engs : List EngCtx := []
  streams : List StreamPort := []
  l2 : List L2Line := []
  ofu : List OfuSum := []
  reqs : List Req := []
  nextReq : Nat := 0
  pushes : List Push := []
  hashdom : Vector Word 16 := Vector.replicate 16 0
  domTaint : BitVec 16 := 0
  /-- HASHDOM writes in progress: domain and the old generation (R108) -/
  domWrites : List (Nat × Nat) := []
  hbm : Memory := []
  /-- taint and poison of 64-byte lines of memory, under the key of `Loc.key` -/
  hbmTaint : TaintSet := []
  hbmPoison : TaintSet := []
  hostMem : Memory := []
  remoteMem : List (Nat × Memory) := []
  /-- 4 KiB pages of other packages at which an access fails there, with its code and subcode (R332) -/
  remoteFail : List (Nat × Nat × BitVec 8 × BitVec 8) := []
  linkDown : BitVec 16 := 0
  net : List Packet := []
  acks : List Ack := []
  ticks : List TickUpd := []
  edge : List EdgeFlit := []
  holds : List HoldMsg := []
  sc : List ScOp := []
  nextSc : Nat := 0
  mapq : List MapCmd := []
  host : HostSide := {}
  /-- generation of every context of every tile that has held one (R29): tile, context, value -/
  gens : List (Nat × Fin 4 × BitVec 8) := []
  fatal : Option Exc := none
  /-- bring-up has begun (R424); the rails are cut (R429) -/
  powered : Bool := false
  railsCut : Bool := false
  fuses : Fuses := {}
  firmware : Firmware := {}
  crash : List Byte := []
  /-- count of free values drawn so far: the model's own field, see Config.lean -/
  free : Nat := 0
  actor : Actor := { tile := 0, ctx := 0 }
  /-- the schedule: moves still to be made before the default order takes over; the model's own field -/
  moves : List Move := []
deriving DecidableEq, Repr

/-- Why the model stops with a fault. -/
inductive Fault where
  /-- Raised by step before bring-up where the firmware is not valid or older than the rollback counter: the control
  complex runs nothing and DSTATE stays 0 (R435). Safe: nothing further happens on the hardware either. -/
  | noFirmware
  /-- Raised by step after the power stage cut the rails (R429): no agent acts until a power cycle.
  Safe: the hardware does nothing either. -/
  | railsCut
deriving DecidableEq, Repr

/-- Why the model refuses to give a step a meaning. -/
inductive Refusal where
  /-- Raised by an arm of exec for a row of the opcode table that has no meaning yet. Safe: nothing is
  claimed of it. -/
  | notModelled (mnemonic : String)
deriving DecidableEq, Repr

/-- The package at power-on, before bring-up (R424, "Reset and bring-up"): every register and table at the
reset value the spec gives, DSTATE 0 (Table 13-1), every die's counts at 0 (R192, R193), no forme,
nothing mapped, memory with nothing listed. The neighbours of each die are those of R9. -/
def State.reset : State where
  dies := #v[{ est := [(1, 0), (2, 0)] }, { est := [(0, 0), (3, 0)] },
             { est := [(0, 0), (3, 0)] }, { est := [(1, 0), (2, 0)] }]

end Sys2Proof.Machine
end

