-- ==== Sys2Proof/Machine/Memory.lean ====
section
/-! DEFINITION. Sparse memories and their bytes: reading, writing, the canonical form, taint sets, words and
lines as little-endian byte lists (R6), bit fields of words. -/

namespace Sys2Proof.Machine

/-! ### Fields of words -/

/-- Bits lo to lo + n − 1 of a word. -/
def Word.field (w : Word) (lo n : Nat) : Nat := w.toNat / 2 ^ lo % 2 ^ n

/-- The word with bit i set or cleared. -/
def Word.setBit (w : Word) (i : Nat) (b : Bool) : Word :=
  if b then w ||| (1#64 <<< i) else w &&& ~~~ (1#64 <<< i)

/-- The word with bits lo to lo + n − 1 replaced by v. -/
def Word.setField (w : Word) (lo n v : Nat) : Word :=
  (w &&& ~~~ (BitVec.ofNat 64 (2 ^ n - 1) <<< lo)) ||| (BitVec.ofNat 64 (v % 2 ^ n) <<< lo)

/-- The bit vector with bit i set or cleared. -/
def bvSet {n : Nat} (w : BitVec n) (i : Nat) (b : Bool) : BitVec n :=
  if b then w ||| (1#n <<< i) else w &&& ~~~ (1#n <<< i)

/-- v read as an n-bit two's complement number (Table 0-4, sext). -/
def sextNat (v n : Nat) : Int :=
  if v % 2 ^ n < 2 ^ (n - 1) then (v % 2 ^ n : Nat) else (v % 2 ^ n : Nat) - (2 ^ n : Nat)

/-- sext(v, n) as a 64-bit word. -/
def sext (v n : Nat) : Word := BitVec.ofInt 64 (sextNat v n)

/-! ### Vectors by number -/

/-- Element i of a vector, or the default where the vector has none. -/
def vget {α : Type} {n : Nat} (v : Vector α n) (i : Nat) (d : α) : α := if h : i < n then v[i] else d

/-- The vector with element i replaced, or unchanged where it has none. -/
def vset {α : Type} {n : Nat} (v : Vector α n) (i : Nat) (a : α) : Vector α n :=
  if h : i < n then v.set i a h else v

/-- The list with element i replaced. -/
def lset {α : Type} : List α → Nat → α → List α
  | [], _, _ => []
  | _ :: t, 0, a => a :: t
  | h :: t, i + 1, a => h :: lset t i a

/-- The list without element i. -/
def ldel {α : Type} : List α → Nat → List α
  | [], _ => []
  | _ :: t, 0 => t
  | h :: t, i + 1 => h :: ldel t i

/-! ### Byte memories -/

/-- What a byte that nothing has written reads as: 0 (log entry 2, DESIGN CHOICE, unsafe: the spec gives
memory no contents at power-on). -/
def Memory.absent : Byte := 0

/-- The byte at an address. -/
def Memory.get : Memory → Nat → Byte
  | [], _ => Memory.absent
  | (k, b) :: m, a => if k = a then b else Memory.get m a

/-- The memory with one byte written, in canonical form. -/
def Memory.set : Memory → Nat → Byte → Memory
  | [], a, b => if b = Memory.absent then [] else [(a, b)]
  | (k, v) :: m, a, b =>
    if a < k then (if b = Memory.absent then (k, v) :: m else (a, b) :: (k, v) :: m)
    else if a = k then (if b = Memory.absent then m else (a, b) :: m)
    else (k, v) :: Memory.set m a b

/-- The keys rise strictly from a lower bound and no entry holds what an unlisted address reads as. -/
def Memory.wfFrom : Nat → Memory → Bool
  | _, [] => true
  | lo, (k, b) :: m => lo ≤ k && b != Memory.absent && Memory.wfFrom (k + 1) m

/-- The canonical form of a memory. -/
def Memory.wf (m : Memory) : Bool := Memory.wfFrom 0 m

/-- n bytes from an address on. -/
def Memory.read (m : Memory) (a n : Nat) : List Byte := (List.range n).map (fun i => Memory.get m (a + i))

/-- The memory with bytes written from an address on. -/
def Memory.write : Memory → Nat → List Byte → Memory
  | m, _, [] => m
  | m, a, b :: bs => Memory.write (Memory.set m a b) (a + 1) bs

/-- The memory with the masked bytes written from an address on (mask bit i: byte i). -/
def Memory.writeMask : Memory → Nat → List (Byte × Bool) → Memory
  | m, _, [] => m
  | m, a, (b, on) :: bs => Memory.writeMask (if on then Memory.set m a b else m) (a + 1) bs

/-! ### Bytes and words -/

/-- The little-endian number of a byte list. -/
def natOfBytes : List Byte → Nat
  | [] => 0
  | b :: bs => b.toNat + 256 * natOfBytes bs

/-- The n low bytes of a number, lowest first. -/
def bytesOfNat : Nat → Nat → List Byte
  | 0, _ => []
  | n + 1, v => BitVec.ofNat 8 v :: bytesOfNat n (v / 256)

/-- The 64-bit word of up to eight bytes. -/
def wordOf (bs : List Byte) : Word := BitVec.ofNat 64 (natOfBytes bs)

/-- The n low bytes of a word. -/
def bytesOf (n : Nat) (w : Word) : List Byte := bytesOfNat n w.toNat

/-- n bytes from byte `off` of a line. -/
def Line.bytes (l : Line) (off n : Nat) : List Byte := bytesOfNat n (l.toNat / 2 ^ (8 * off))

/-- The line of 64 bytes. -/
def Line.ofBytes (bs : List Byte) : Line := BitVec.ofNat 512 (natOfBytes (bs.take 64))

/-- The line with bytes written from byte `off` on. -/
def Line.put (l : Line) (off : Nat) (bs : List Byte) : Line :=
  BitVec.ofNat 512
    (l.toNat % 2 ^ (8 * off) + natOfBytes bs * 2 ^ (8 * off)
      + l.toNat / 2 ^ (8 * (off + bs.length)) * 2 ^ (8 * (off + bs.length)))

/-! ### Taint sets -/

/-- The granule is tainted. -/
def TaintSet.has (s : TaintSet) (g : Nat) : Bool := List.contains s g

/-- The set with granule g marked. -/
def TaintSet.add : TaintSet → Nat → TaintSet
  | [], g => [g]
  | k :: s, g => if g < k then g :: k :: s else if g = k then k :: s else k :: TaintSet.add s g

/-- The set with granule g marked or not. -/
def TaintSet.put (s : TaintSet) (g : Nat) (t : Bool) : TaintSet :=
  if t then TaintSet.add s g else List.filter (fun k => k != g) s

/-- Some granule of size `gs` that n bytes from a touch is marked. -/
def TaintSet.any (s : TaintSet) (gs a n : Nat) : Bool :=
  List.any s (fun g => a / gs ≤ g && g ≤ (a + n - 1) / gs && n != 0)

/-- The marks after n bytes from a are written with taint t: a granule covered whole takes t, one covered in
part ORs it in (R148). -/
def TaintSet.store (s : TaintSet) (gs a n : Nat) (t : Bool) : TaintSet :=
  if n = 0 then s
  else
    (List.range ((a + n - 1) / gs - a / gs + 1)).foldl (fun s i =>
      let g := a / gs + i
      if a ≤ g * gs ∧ g * gs + gs ≤ a + n then TaintSet.put s g t
      else if t then TaintSet.add s g else s) s

end Sys2Proof.Machine
end

