-- ==== Sys2Proof/Machine/Ops.lean ====
section
/-! DEFINITION. The named operations over the state: the acting tile and context, geometry, registers and
their taint, ports, local store and frames, lookahead windows, loop contexts, taking a fault and returning
from one. Every meaning is written over these. -/

namespace Sys2Proof.Machine

/-! ### The acting tile and context -/

/-- The tile of a physical number, where a forme holds it. -/
def State.tileAt (s : State) (p : Nat) : Option Tile := s.tiles.find? (fun t => t.phys == p)

/-- The tile of a physical number; an idle tile reads as one with every field at its reset value. -/
def State.tileD (s : State) (p : Nat) : Tile := (s.tileAt p).getD { phys := p }

/-- The state with a function applied to one tile. -/
def State.modTile (s : State) (p : Nat) (f : Tile → Tile) : State :=
  { s with tiles := s.tiles.map (fun t => if t.phys == p then f t else t) }

/-- The acting tile. -/
def State.tile (s : State) : Tile := s.tileD s.actor.tile

/-- The acting context. -/
def State.ctx (s : State) : Ctx := s.tile.ctxs[s.actor.ctx]

/-- The tile with a function applied to one context. -/
def Tile.modCtx (t : Tile) (c : Fin 4) (f : Ctx → Ctx) : Tile := { t with ctxs := t.ctxs.set c (f t.ctxs[c]) }

/-- The state with a function applied to the acting tile. -/
def State.onTile (s : State) (f : Tile → Tile) : State := s.modTile s.actor.tile f

/-- The state with a function applied to the acting context. -/
def State.onCtx (s : State) (f : Ctx → Ctx) : State := s.onTile (fun t => t.modCtx s.actor.ctx f)

/-- The state with a function applied to a named context. -/
def State.modCtx (s : State) (p : Nat) (c : Fin 4) (f : Ctx → Ctx) : State :=
  s.modTile p (fun t => t.modCtx c f)

/-- The state acting as another tile and context. -/
def State.as (s : State) (p : Nat) (c : Fin 4) : State := { s with actor := { tile := p, ctx := c } }

/-- The forme of an identity. -/
def State.formeAt (s : State) (f : Nat) : Option Forme := s.formes.find? (fun g => g.id == f)

/-- The state with a function applied to one forme. -/
def State.modForme (s : State) (f : Nat) (g : Forme → Forme) : State :=
  { s with formes := s.formes.map (fun h => if h.id == f then g h else h) }

/-- Progress of a forme restarts its watchdog (R367). -/
def State.progress (s : State) (forme : Nat) : State := s.modForme forme (fun f => { f with wdog := 0 })

/-- V at the start of superstep k (R26). -/
def shiftV (v : Word) (k b : Nat) : Word := (v <<< 1) ||| (if k < b then 1 else 0)

/-- A request to stop is served at the exchange boundary that the forme comes to next (R413). -/
def Forme.stopDue (f : Forme) : Bool := f.stops.any (fun r => !r.late)

/-- The highest superstep number of a forme, and one more: B + S − 1 (R26). -/
def Forme.supersteps (f : Forme) : Nat := f.b + f.maxStage

/-- A forme as a tile sees it: a tile whose banks have swapped stands in the next superstep (R20, R238), whose compute
phase begins unless the forme stops at the boundary or ends there. -/
def Forme.seenBy (f : Forme) (t : Tile) : Forme :=
  if t.ahead then
    { f with
      k := f.k + 1
      v := shiftV f.v (f.k + 1) f.b
      phase := if f.phase == .swapping && !f.stopDue && f.k + 1 < f.supersteps then .compute else f.phase
      resumeTo := if f.resumeTo == .swapping && !f.stopDue && f.k + 1 < f.supersteps then .compute else f.resumeTo }
  else f

/-- The forme of a tile; an image of no tiles where there is none. -/
def State.formeOf (s : State) (t : Tile) : Forme :=
  match s.formeAt t.forme with
  | some f => f.seenBy t
  | none => { id := 0, asid := 0, x0 := 0, y0 := 0, img := { w := 0, h := 0 }, b := 0 }

/-- The forme of the acting tile. -/
def State.forme (s : State) : Forme := s.formeOf s.tile

/-- Superstep number of a tile. -/
def State.stepOf (s : State) (t : Tile) : Nat := (s.formeOf t).k

/-- A number below 4 as a context number. -/
def ctxNum (c : Nat) : Fin 4 := ⟨c % 4, by omega⟩

/-- A die by number. -/
def State.die (s : State) (d : Nat) : Die := vget s.dies d {}

/-- The state with a function applied to one die. -/
def State.modDie (s : State) (d : Nat) (f : Die → Die) : State :=
  { s with dies := vset s.dies d (f (s.die d)) }

/-! ### Values that the spec does not state -/

/-- The k-th free value from here on (Config.lean), and the state in which n of them have been drawn. -/
def State.drawn (s : State) (k : Nat) : Word := Config.freeWord (s.free + k)
def State.spend (s : State) (n : Nat) : State := { s with free := s.free + n }

/-! ### Geometry (R9, R10, R15) -/

/-- The die, column and row of a physical tile number. -/
def physDie (p : Nat) : Nat := p / 1024 % 4
def physX (p : Nat) : Nat := p % 32
def physY (p : Nat) : Nat := p / 32 % 32

/-- Package coordinates of a physical tile number. -/
def pkgX (p : Nat) : Nat := 32 * (physDie p % 2) + physX p
def pkgY (p : Nat) : Nat := 32 * (physDie p / 2) + physY p

/-- The physical tile number at package coordinates. -/
def physAt (x y : Nat) : Nat := (y / 32 % 2 * 2 + x / 32 % 2) * 1024 + y % 32 * 32 + x % 32

/-- The packaged cluster of a physical tile number: 64 × die + c. -/
def clusterOf (p : Nat) : Nat := 64 * physDie p + physY p / 4 * 8 + physX p / 4

/-- The physical tile in a packaged cluster at index i, (i mod 4, i div 4). -/
def tileInCluster (pc i : Nat) : Nat :=
  pc / 64 * 1024 + (pc % 64 / 8 * 4 + i / 4 % 4) * 32 + (pc % 8 * 4 + i % 4)

/-- Physical directions: N 0, E 1, S 2, W 3. The opposite one, and the neighbour that way, if any. -/
def opposite (d : Nat) : Nat := (d + 2) % 4

def neighbour (p d : Nat) : Option Nat :=
  let x := pkgX p
  let y := pkgY p
  match d with
  | 0 => if y = 0 then none else some (physAt x (y - 1))
  | 1 => if x = 63 then none else some (physAt (x + 1) y)
  | 2 => if y = 63 then none else some (physAt x (y + 1))
  | _ => if x = 0 then none else some (physAt (x - 1) y)

/-- The tile of a forme with a logical number. -/
def State.logicalTile (s : State) (forme n : Nat) : Option Tile :=
  s.tiles.find? (fun t => t.forme == forme && t.logical == n)

/-! ### STATUS (Table 12-1) -/

def stPM : Nat := 63
def stEXL : Nat := 62
def stUEXL : Nat := 61
def stIE : Nat := 60
def stWINCHK : Nat := 59
def stTCLRU : Nat := 58
def stPFXP : Nat := 57
def stCTNT : Nat := 56

/-- A STATUS bit of a context. -/
def Ctx.stat (c : Ctx) (i : Nat) : Bool := c.status.getLsbD i

/-- The context with a STATUS bit written. -/
def Ctx.setStat (c : Ctx) (i : Nat) (b : Bool) : Ctx := { c with status := Word.setBit c.status i b }

/-- Control taint (R71). -/
def Ctx.ctnt (c : Ctx) : Bool := c.stat stCTNT

/-! ### Registers (R43 to R46, R68, R242) -/

/-- Value and taint of xN; x0 reads as 0, untainted (R45, R146). -/
def Ctx.readX (c : Ctx) (n : Nat) : Word × Bool :=
  if n = 0 then (0, false) else (vget c.x n 0, c.taint.x.getLsbD n)

/-- The context with xN written; a write to x0 is discarded (R45). While CTNT = 1 the register becomes
tainted (R71). -/
def Ctx.writeX (c : Ctx) (n : Nat) (v : Word) (t : Bool) : Ctx :=
  if n = 0 then c
  else { c with x := vset c.x n v, taint := { c.taint with x := bvSet c.taint.x n (t || c.ctnt) } }

/-- Value and taint of element e of a vector source that is no port: v, o (one beat re-read, R243) or lr. -/
def Ctx.readVElem (c : Ctx) (n e : Nat) : Lane × Bool :=
  if n < 32 then (vget (vget c.v n (Vector.replicate 64 0)) e 0, c.taint.v.getLsbD n)
  else if n < 40 then (vget (vget c.o (n - 32) (Vector.replicate 8 0)) (e % 8) 0, c.taint.o.getLsbD (n - 32))
  else (vget c.lr e 0, c.taint.lr)

/-- The context with element e of v or o register n written; taint is kept apart, see `Ctx.taintV`. -/
def Ctx.writeVElem (c : Ctx) (n e : Nat) (v : Lane) : Ctx :=
  if n < 32 then
    { c with v := vset c.v n (vset (vget c.v n (Vector.replicate 64 0)) e v) }
  else
    { c with o := vset c.o (n - 32) (vset (vget c.o (n - 32) (Vector.replicate 8 0)) (e % 8) v) }

/-- The context with the taint bit of v or o register n written. -/
def Ctx.taintV (c : Ctx) (n : Nat) (t : Bool) : Ctx :=
  if n < 32 then { c with taint := { c.taint with v := bvSet c.taint.v n t } }
  else { c with taint := { c.taint with o := bvSet c.taint.o (n - 32) t } }

/-- The taint bit of v or o register n. -/
def Ctx.vTaint (c : Ctx) (n : Nat) : Bool :=
  if n < 32 then c.taint.v.getLsbD n else c.taint.o.getLsbD (n - 32)

/-- Value and taint of mask mN. -/
def Ctx.readM (c : Ctx) (n : Nat) : Word × Bool := (vget c.m n 0, c.taint.m.getLsbD n)

/-- The context with bits 0 to k − 1 of mask mN written; a partial write ORs the taint in (R148, R261). -/
def Ctx.writeM (c : Ctx) (n k : Nat) (v : Word) (t : Bool) : Ctx :=
  let low := BitVec.ofNat 64 (2 ^ k - 1)
  let t' := t || c.ctnt || (k < 64 && c.taint.m.getLsbD n)
  { c with
    m := vset c.m n ((vget c.m n 0 &&& ~~~ low) ||| (v &&& low))
    taint := { c.taint with m := bvSet c.taint.m n t' } }

/-! ### Ports and deposit registers (R13, R46, R169, R217) -/

/-- Depth of a core in-queue or out-queue (Table 6-1). -/
def portDepth : Nat := 4

/-- The flits that stand in the core in-queue, or out-queue, of a logical direction. -/
def Tile.inQ (t : Tile) (d : Nat) : List Flit := vget t.fab.coreIn d []
def Tile.outQ (t : Tile) (d : Nat) : List Flit := vget t.fab.coreOut d []

/-- The state after the head flit of in-queue d is consumed. A flit that moves is progress of the forme (R367). -/
def State.popIn (s : State) (d : Nat) : State :=
  (s.onTile (fun t => { t with fab := { t.fab with coreIn := vset t.fab.coreIn d ((t.inQ d).drop 1) } })).progress s.tile.forme

/-- The state after a flit enters out-queue d. -/
def State.pushOut (s : State) (d : Nat) (f : Flit) : State :=
  (s.onTile (fun t => { t with fab := { t.fab with coreOut := vset t.fab.coreOut d (t.outQ d ++ [f]) } })).progress s.tile.forme

/-- The head flit of in-queue d. -/
def State.headIn (s : State) (d : Nat) : Flit := (s.tile.inQ d).headD { val := 0, taint := false }

/-- Reads operand n of class XS or XM: a scalar register, a port (which consumes a flit) or a deposit
register (which clears its VALID bit and is tainted). -/
def State.readXs (s : State) (n : Nat) : Word × Bool × State :=
  if n < 32 then ((s.ctx.readX n).1, (s.ctx.readX n).2, s)
  else if n < 45 then
    let f := s.headIn (n - 41)
    (f.val.setWidth 64, f.taint, s.popIn (n - 41))
  else
    (vget s.ctx.mb (n - 49) 0, true,
      s.onCtx (fun c => { c with mbstat := Word.setBit c.mbstat (n - 49) false }))

/-- Writes operand n of class XD or XM: a scalar register or an output port (R46). -/
def State.writeXd (s : State) (n : Nat) (v : Word) (t : Bool) : State :=
  if n < 32 then s.onCtx (fun c => c.writeX n v t)
  else s.pushOut (n - 45) { val := v.setWidth 256, taint := t || s.ctx.ctnt }

/-! ### Forme modes and local store (Tables 4-3 and 13-7) -/

def Forme.fuse (f : Forme) : Bool := f.img.modes.getLsbD 55
def Forme.xw32 (f : Forme) : Bool := f.img.modes.getLsbD 54
def Forme.ofuMode (f : Forme) : Bool := f.img.modes.getLsbD 52
def Forme.holdEn (f : Forme) : Bool := f.img.modes.getLsbD 51

/-- Bytes of main local store, and of one bank of the exchange window. -/
def Forme.mainSize (f : Forme) : Nat := if f.xw32 then 0x50000 else 0x40000
def Forme.winSize (f : Forme) : Nat := if f.xw32 then 0x8000 else 0x10000

/-- The number of tiles of a forme's logical torus. -/
def Forme.count (f : Forme) : Nat := f.img.w * f.img.h

def localBase : Nat := 0x01FFFFFF00000000

/-- The address lies in the local region, or in the remote region. -/
def isLocal (a : Word) : Bool := a.toNat / 2 ^ 32 == 0x1FFFFFF
def isRemote (a : Word) : Bool := a.toNat / 2 ^ 32 == 0x1FFFFFE

/-- n bytes at a local offset lie in main store or in the active bank (Table 4-3). -/
def localOk (f : Forme) (off n : Nat) : Bool :=
  off + n ≤ f.mainSize || (0x80000 ≤ off && off + n ≤ 0x80000 + f.winSize)

/-- The active and the shadow bank of a tile's exchange window. -/
def Tile.activeBank (t : Tile) : Memory := if t.activeA then t.bankA else t.bankB
def Tile.shadowBank (t : Tile) : Memory := if t.activeA then t.bankB else t.bankA
def Tile.activeTaint (t : Tile) : TaintSet := if t.activeA then t.bankATaint else t.bankBTaint

/-- Reads n bytes at a local offset: main store, else the active bank. -/
def Tile.readLocal (t : Tile) (off n : Nat) : List Byte :=
  if off < 0x80000 then Memory.read t.main off n else Memory.read t.activeBank (off - 0x80000) n

/-- Taint of n bytes at a local offset. -/
def Tile.localTaint (t : Tile) (off n : Nat) : Bool :=
  if off < 0x80000 then TaintSet.any t.mainTaint 8 off n
  else TaintSet.any t.activeTaint 8 (off - 0x80000) n

/-- The granule numbers of local store under which poison is kept: main store by offset, bank A from
0x80000, bank B from 0x90000. -/
def Tile.poisonBase (t : Tile) (off : Nat) : Nat :=
  if off < 0x80000 then off else if t.activeA then off else off + 0x10000

/-- Some granule of n bytes at a local offset is poisoned (R430). -/
def Tile.poisoned (t : Tile) (off n : Nat) : Bool := TaintSet.any t.poison 8 (t.poisonBase off) n

/-- Poison after n bytes are written: a granule covered whole is clean (R430). -/
def TaintSet.clean (p : TaintSet) (a n : Nat) : TaintSet :=
  List.filter (fun g => !(a ≤ g * 8 && g * 8 + 8 ≤ a + n)) p

/-- Writes bytes at a local offset with taint t (R148). -/
def Tile.writeLocal (t : Tile) (off : Nat) (bs : List Byte) (tnt : Bool) : Tile :=
  let p := TaintSet.clean t.poison (t.poisonBase off) bs.length
  if off < 0x80000 then
    { t with main := Memory.write t.main off bs, poison := p
             mainTaint := TaintSet.store t.mainTaint 8 off bs.length tnt }
  else if t.activeA then
    { t with bankA := Memory.write t.bankA (off - 0x80000) bs, poison := p
             bankATaint := TaintSet.store t.bankATaint 8 (off - 0x80000) bs.length tnt }
  else
    { t with bankB := Memory.write t.bankB (off - 0x80000) bs, poison := p
             bankBTaint := TaintSet.store t.bankBTaint 8 (off - 0x80000) bs.length tnt }

/-- The granule at a local offset, all of whose bytes one store has written in parts: its bit becomes the store's taint
(R148), and it holds no poison. -/
def Tile.coverLocal (t : Tile) (off : Nat) (tnt : Bool) : Tile :=
  let p := TaintSet.clean t.poison (t.poisonBase off) 8
  if off < 0x80000 then { t with poison := p, mainTaint := TaintSet.store t.mainTaint 8 off 8 tnt }
  else if t.activeA then { t with poison := p, bankATaint := TaintSet.store t.bankATaint 8 (off - 0x80000) 8 tnt }
  else { t with poison := p, bankBTaint := TaintSet.store t.bankBTaint 8 (off - 0x80000) 8 tnt }

/-- The local store as it is seen by a unit that has read some of its words already: those words are what it read, old or new
(R237, R316). A granule of which it has read one word only is tainted where that word or the granule now is. -/
def Tile.withSeen (t : Tile) (seen : List (Nat × List Byte × Bool)) : Tile :=
  seen.foldl (fun u x =>
    let mine := seen.filter (fun y => y.1 / 8 == x.1 / 8)
    let tnt := mine.any (fun y => y.2.2)
    let v := u.writeLocal x.1 x.2.1 tnt
    if mine.any (fun y => y.1 != x.1) then v.coverLocal x.1 tnt else v) t

/-- Writes bytes into the shadow bank of a tile's window. -/
def Tile.writeShadow (t : Tile) (off : Nat) (bs : List Byte) (tnt : Bool) : Tile :=
  if t.activeA then
    { t with bankB := Memory.write t.bankB off bs
             poison := TaintSet.clean t.poison (0x90000 + off) bs.length
             bankBTaint := TaintSet.store t.bankBTaint 8 off bs.length tnt }
  else
    { t with bankA := Memory.write t.bankA off bs
             poison := TaintSet.clean t.poison (0x80000 + off) bs.length
             bankATaint := TaintSet.store t.bankATaint 8 off bs.length tnt }

/-- Writes 8-byte values with their own taint bits at a local offset. -/
def Tile.writeWords (t : Tile) (off : Nat) : List (Word × Bool) → Tile
  | [] => t
  | (v, b) :: r => Tile.writeWords (t.writeLocal off (bytesOf 8 v) b) (off + 8) r

/-- The 64-bit value at a local offset. -/
def Tile.localWord (t : Tile) (off : Nat) : Word := wordOf (t.readLocal off 8)

/-! ### Lookahead windows (R51 to R53) -/

/-- The result of a window has landed, or will be delivered as a fault. -/
def Window.settled (w : Window) : Bool :=
  match w.st with
  | .landed _ _ | .landedV _ _ | .failed _ => true
  | .waiting => match w.kind with | .tlwait => true | _ => false
  | .bound _ _ | .boundV _ _ => false

/-- The result has landed. -/
def Window.isLanded (w : Window) : Bool :=
  match w.st with
  | .landed _ _ | .landedV _ _ => true
  | _ => false

/-- The elements of a vector register: 64 of v, 8 of o. -/
def vRegSize (d : Nat) : Nat := if d < 32 then 64 else 8

/-- Writes the elements of a landed vector result from element k on; one that does not write all 64 elements ORs its taint
in (R266). -/
def Ctx.writeVec (c : Ctx) (d : Nat) (vs : List Lane) (t : Bool) (k : Nat := 0) : Ctx :=
  let old := c.vTaint d
  let c := ((vs.zipIdx).drop k).foldl (fun c p => c.writeVElem d p.2 p.1) c
  c.taintV d (t || c.ctnt || ((vs.length < vRegSize d || 0 < k) && old))

/-- The elements of a window's result: one where it is scalar. -/
def Window.size (w : Window) : Nat :=
  match w.st with
  | .boundV vs _ | .landedV vs _ => vs.length
  | _ => if w.vec then w.n else 1

/-- Later windows have written over the whole of the window's result (R53). -/
def Window.gone (w : Window) : Bool := 0 < w.written && w.size ≤ w.written

/-- The context with the result of a landed window written into its destination, but for the elements that later windows
of the same destination have written already (R53, DEDUCED: see log entry 5). -/
def Ctx.writeWin (c : Ctx) (w : Window) : Ctx :=
  if w.gone then c
  else match w.st with
    | .landed v t => c.writeX w.dst v t
    | .landedV vs t => c.writeVec w.dst vs t w.written
    | _ => c

/-- Marks, in the windows older than one that closes and of the same destination, the elements that it has written. -/
def supersede (w : Window) (ws : List Window) : List Window :=
  ws.map (fun u => if u.id < w.id && u.dst == w.dst && u.vec == w.vec then { u with written := max u.written w.size } else u)

/-- Closes, oldest first, every window that has landed and has no instruction left. -/
def Ctx.closeReady (c : Ctx) : Ctx :=
  (c.wins.filter (fun w => w.rem == 0 && w.isLanded)).foldl
    (fun c w =>
      let c := match c.wins.find? (fun u => u.id == w.id) with
        | some u => c.writeWin u
        | none => c
      { c with wins := supersede w (c.wins.filter (fun u => u.id != w.id)) }) c

/-- Closes every landed window, whatever its count (R449). -/
def Ctx.closeAll (c : Ctx) : Ctx :=
  Ctx.closeReady { c with wins := c.wins.map (fun w => if w.isLanded then { w with rem := 0 } else w) }

/-- One instruction of the context has issued: every window opened before it counts it (R51). -/
def Ctx.countWins (c : Ctx) (upto : Nat) : Ctx :=
  Ctx.closeReady { c with wins := c.wins.map (fun w => if w.id < upto then { w with rem := w.rem - 1 } else w) }

/-- Opens a window. -/
def Ctx.openWin (c : Ctx) (w : Window) : Ctx :=
  { c with wins := c.wins ++ [{ w with id := c.nextWin }], nextWin := c.nextWin + 1 }

/-- Every open window of the context is settled (R361). -/
def Ctx.settled (c : Ctx) : Bool := c.wins.all Window.settled

/-! ### Loop contexts (R82 to R95) -/

/-- Address after the last body word. -/
def LoopCtx.fin (l : LoopCtx) : Word := l.beg + BitVec.ofNat 64 (4 * (l.len + 1))

/-- The address lies in the body. -/
def LoopCtx.holds (l : LoopCtx) (a : Word) : Bool := l.beg.toNat ≤ a.toNat && a.toNat < l.beg.toNat + 4 * (l.len + 1)

/-- The word at an address is the last of the body. -/
def LoopCtx.atLast (l : LoopCtx) (a : Word) : Bool := l.holds a && a + 4 == l.fin

/-- One iteration of the outer counted loop ends at a shared end (R86): the loops left and the next word. -/
def sharedEnd (fin : Word) : List LoopCtx → List LoopCtx × Word
  | [] => ([], fin)
  | o :: r =>
    if !o.modulo && o.fin == fin then
      if (o.cnt + 1).toNat < o.n.toNat then ({ o with cnt := o.cnt + 1 } :: r, o.beg) else (r, fin)
    else (o :: r, fin)

/-- The first slot from J on whose stage is valid. -/
def nextSlot (l : LoopCtx) (j : Nat) : Option Nat :=
  (List.range (l.len + 1)).find? (fun k => j ≤ k && l.v.getLsbD (l.stages.getD k 0))

/-- V at the start of a pass (R89). -/
def LoopCtx.shift (l : LoopCtx) : LoopCtx :=
  { l with v := ((l.v <<< 1) ||| (if l.cnt.toNat < l.n.toNat && !l.dr then 1 else 0)) &&&
                  BitVec.ofNat 4 (2 ^ (l.sm1 + 1) - 1) }

/-- Starts passes until one holds a slot that runs, or V is 0 (R89, R90). A pass in which no slot runs shifts
V, so four of them at most follow one another. CNT has the 32 bits of Table 3-10: with N + S - 1 above 2^32 it wraps to 0,
CNT < N holds again, and the loop runs on past the N + S - 1 passes of R89 (log entry 39). -/
def startPass : Nat → LoopCtx → Option LoopCtx
  | 0, _ => none
  | fuel + 1, l =>
    let l := l.shift
    if l.v = 0 then none
    else match nextSlot l 0 with
      | some j => some { l with j := j }
      | none => startPass fuel { l with cnt := l.cnt + 1 }

/-- Address of the current slot. -/
def LoopCtx.slotPc (l : LoopCtx) : Word := l.beg + BitVec.ofNat 64 (4 * l.j)

/-- Begins a modulo loop, or passes it by where it runs no pass. -/
def Ctx.enterModulo (c : Ctx) (l : LoopCtx) : Ctx :=
  match startPass 6 l with
  | some l' => { c with loops := l' :: c.loops, pc := l'.slotPc }
  | none =>
    let r := sharedEnd l.fin c.loops
    { c with loops := r.1, pc := r.2 }

/-- The context after the word at PC has issued and is followed in sequence: the next word, or the loop
context's choice at the end of a body or a slot (R86, R89). -/
def Ctx.fallThrough (c : Ctx) : Ctx :=
  match c.loops with
  | [] => { c with pc := c.pc + 4 }
  | l :: r =>
    if l.modulo then
      match nextSlot l (l.j + 1) with
      | some j => { c with loops := { l with j := j } :: r, pc := l.beg + BitVec.ofNat 64 (4 * j) }
      | none => Ctx.enterModulo { c with loops := r } { l with cnt := l.cnt + 1 }
    else if c.pc + 4 == l.fin then
      if (l.cnt + 1).toNat < l.n.toNat then
        { c with loops := { l with cnt := l.cnt + 1 } :: r, pc := l.beg }
      else
        let e := sharedEnd l.fin r
        { c with loops := e.1, pc := e.2 }
    else { c with pc := c.pc + 4 }

/-- The loops that stay active when control passes to a target (R86): the inner loop is freed where the
target lies outside its body, the outer too where it lies outside both. -/
def loopsAfterJump (t : Word) : List LoopCtx → List LoopCtx
  | [] => []
  | l :: r => if l.holds t then l :: r else loopsAfterJump t r

/-- The context after a taken transfer to t. -/
def Ctx.jumpTo (c : Ctx) (t : Word) : Ctx := { c with pc := t, loops := loopsAfterJump t c.loops }

/-! ### Tygal trace (R403 to R409) -/

/-- The shortest little-endian bytes of a delta. -/
def deltaBytes (n : Nat) : List Byte :=
  if n = 0 then [] else if n < 2 ^ 8 then bytesOfNat 1 n else if n < 2 ^ 16 then bytesOfNat 2 n
  else if n < 2 ^ 24 then bytesOfNat 3 n else bytesOfNat 4 n

/-- A record: header, delta, payload (R406); a STAMP first where the delta is beyond 2^32 − 1 (R407). -/
def traceBytes (kind delta : Nat) (p : Word) (payload : List Byte) : List Byte × Nat :=
  if 2 ^ 32 ≤ delta then ([0x10] ++ bytesOf 8 p ++ [BitVec.ofNat 8 (kind * 8)] ++ payload, 2)
  else (BitVec.ofNat 8 (kind * 8 + (deltaBytes delta).length) :: deltaBytes delta ++ payload, 1)

/-- The frame closed: the bytes after its last record are zero (R404). -/
def Trace.close (x : Trace) : Trace :=
  if x.buf.isEmpty then x
  else
    { x with
      waiting := x.waiting ++ [(x.frame, x.buf ++ List.replicate (256 - x.buf.length) 0, x.recs)]
      frame := x.frame + 1, buf := [], recs := 0, closeDue := false }

/-- A frame whose close has been put off is closed once fewer than four wait. -/
def Trace.settle (x : Trace) : Trace := if x.closeDue && x.waiting.length < 4 then x.close else x

/-- A frame opened with its FRAME record (R407). -/
def Trace.openFrame (x : Trace) (logical step : Nat) (p : Word) : Trace :=
  { x with
    buf := [0x08] ++ bytesOf 8 p ++ bytesOfNat 4 step ++ bytesOfNat 2 logical ++ bytesOfNat 4 x.frame ++ bytesOfNat 2 x.lost
    recs := 1, lost := 0, lastP := p, openP := p }

/-- One record written, or dropped where the open frame is full, or to be closed, and four frames wait (R405). -/
def Trace.put (x0 : Trace) (logical step : Nat) (p : Word) (kind : Nat) (payload : List Byte) : Trace :=
  let x := x0.settle
  let fresh (x : Trace) : Trace :=
    let y := x.openFrame logical step p
    let r := traceBytes kind 0 p payload
    { y with buf := y.buf ++ r.1, recs := y.recs + r.2 }
  if x.buf.isEmpty then fresh x
  else
    let r := traceBytes kind (p.toNat - x.lastP.toNat) p payload
    if !x.closeDue && x.buf.length + r.1.length ≤ 256 then { x with buf := x.buf ++ r.1, recs := x.recs + r.2, lastP := p }
    else if 4 ≤ x.waiting.length then { x with lost := min 65535 (x.lost + 1) }
    else fresh x.close

/-- A record among those of one tick, in ascending kind, and context within a kind (R409). -/
def insertRec (r : Nat × Nat × List Byte) : List (Nat × Nat × List Byte) → List (Nat × Nat × List Byte)
  | [] => [r]
  | x :: l => if r.1 < x.1 || (r.1 == x.1 && r.2.1 < x.2.1) then r :: x :: l else x :: insertRec r l

/-- The records of one tick written in order, and the frame closed that was to be: at a halt, or at a bank swap at least
65,536 ticks after it opened (R404, R409). Where four closed frames wait already, the tile holds no fifth (R405), and the frame
takes no more records until it can be closed. -/
def Trace.flush (x : Trace) (logical : Nat) : Trace :=
  let y := { x.cur.foldl (fun x r => x.put logical x.curStep x.curP r.1 r.2.2) x with cur := [], haltDue := false, swapDue := false }
  if x.haltDue || (x.swapDue && 65536 ≤ (x.curP - y.openP).toNat) then
    Trace.settle { y with closeDue := !y.buf.isEmpty }
  else y

/-- The trace as the first record of a tick finds it: what an earlier tick left is written. -/
def Trace.at (x : Trace) (logical step : Nat) (now : Word) : Trace :=
  let y := if x.curP == now then x else x.flush logical
  { y with curP := now, curStep := if y.cur.isEmpty then step else y.curStep }

/-- A tile writes a record at the P of its die (R407). -/
def State.emit (s : State) (p kind ctx : Nat) (payload : List Byte) : State :=
  let now := (s.die (physDie p)).p
  s.modTile p (fun t =>
    let x := t.trace.at t.logical (s.stepOf t) now
    { t with trace := { x with cur := insertRec (kind, ctx, payload) x.cur } })

/-- A tile is to close its open frame, with the last record of the present tick (R404, R409). -/
def State.closeFrame (s : State) (p : Nat) : State :=
  let now := (s.die (physDie p)).p
  s.modTile p (fun t => { t with trace := { t.trace.at t.logical (s.stepOf t) now with haltDue := true } })

/-! ### Faults: cause, route, frame (R359 to R364) -/

/-- Fault codes (Table 12-8). -/
def cILLOP : BitVec 8 := 0x01
def cILLREG : BitVec 8 := 0x02
def cPRIV : BitVec 8 := 0x03
def cWINDOW : BitVec 8 := 0x04
def cALIGN : BitVec 8 := 0x05
def cPFXSEQ : BitVec 8 := 0x06
def cBRKPT : BitVec 8 := 0x07
def cUTRAP : BitVec 8 := 0x08
def cSPANF : BitVec 8 := 0x10
def cPAGEF : BitVec 8 := 0x11
def cDSTORE : BitVec 8 := 0x12
def cSYNONYM : BitVec 8 := 0x13
def cPLACE : BitVec 8 := 0x14
def cORPHAN : BitVec 8 := 0x15
def cUNDECL : BitVec 8 := 0x16
def cRACE : BitVec 8 := 0x20
def cTAINTSINK : BitVec 8 := 0x21
def cSCOPE : BitVec 8 := 0x22
def cEDGEOVR : BitVec 8 := 0x30
def cROUTEBAL : BitVec 8 := 0x31
def cTKSLIP : BitVec 8 := 0x32
def cSWILL : BitVec 8 := 0x33
def cDEADLTR : BitVec 8 := 0x40
def cGALLEYOVF : BitVec 8 := 0x41
def cTASKF : BitVec 8 := 0x42
def cFPX : BitVec 8 := 0x50
def cVLEN : BitVec 8 := 0x51
def cTAGMM : BitVec 8 := 0x60
def cFMTF : BitVec 8 := 0x61
def cSEEDF : BitVec 8 := 0x62
def cBLKF : BitVec 8 := 0x63
def cMCMD : BitVec 8 := 0x70
def cMTAG : BitVec 8 := 0x71
def cMQOVF : BitVec 8 := 0x72
def cENGF : BitVec 8 := 0x80
def cWINF : BitVec 8 := 0x81
def cPAGEREQ : BitVec 8 := 0x82
def cMIGR : BitVec 8 := 0x83
def cWDOG : BitVec 8 := 0x90
def cFREEZE : BitVec 8 := 0x91
def cFATAL : BitVec 8 := 0x92

/-- Cause kinds (Table 12-7). -/
def kPrecise : BitVec 3 := 0
def kWindow : BitVec 3 := 1
def kAfter : BitVec 3 := 2
def kCommit : BitVec 3 := 3
def kInterrupt : BitVec 3 := 4
def kSave : BitVec 3 := 5
def kForme : BitVec 3 := 6

/-- A precise fault of the acting context's present instruction (IPC and STEP name it, R366). -/
def State.exc (s : State) (code : BitVec 8) (tval : Word) (sub : BitVec 8 := 0) (info0 info1 info2 : Word := 0) : Exc :=
  { code, sub, tval, ipc := s.ctx.pc, step := BitVec.ofNat 64 s.forme.k, info0, info1, info2 }

/-- The three routes of R364. -/
inductive Route where
  | upcall | trap | freeze
deriving DecidableEq, Repr

/-- The bit of UDELEG for a fault code. -/
def Ctx.delegated (c : Ctx) (code : BitVec 8) : Bool :=
  (vget c.udeleg (code.toNat / 64) 0).getLsbD (code.toNat % 64)

/-- The route that a fault delivered to a context takes. -/
def Ctx.route (c : Ctx) (code : BitVec 8) : Route :=
  if (code == cPAGEF || code == cDSTORE || code == cPAGEREQ || c.delegated code) &&
      code != cPRIV && !c.stat stPM && !c.stat stUEXL && c.uvec != 0 then .upcall
  else if !c.stat stEXL && c.tvec != 0 then .trap
  else .freeze

/-- The route of an interrupt: trap where IE = 1 and EXL = 0; it never takes the upcall. -/
def Ctx.intRoute (c : Ctx) : Route := if c.tvec != 0 then .trap else .freeze

/-- A frame address meets R360: main local store, a multiple of 64, the whole frame inside. -/
def frameOk (f : Forme) (a : Word) : Bool :=
  isLocal a && (a.toNat % 2 ^ 32) % 64 == 0 && a.toNat % 2 ^ 32 + 2048 ≤ f.mainSize

/-- CAUSE of a frame (Table 12-5). -/
def Exc.cause (e : Exc) : Word :=
  BitVec.ofNat 64 (e.code.toNat * 2 ^ 56 + e.sub.toNat * 2 ^ 48 + e.kind.toNat * 2 ^ 45)

/-- The two low words of a loop record: the fields of Table 3-10. -/
def LoopCtx.words (l : LoopCtx) : List (Word × Bool) :=
  [(BitVec.ofNat 64 (l.cnt.toNat + l.v.toNat * 2 ^ 56 + (l.len % 2 ^ 4) * 2 ^ 60), false),
   (BitVec.ofNat 64 (l.len / 16 % 2 ^ 8 + (l.beg.toNat / 4 % 2 ^ 48) * 2 ^ 8 + l.sm1 * 2 ^ 60 +
      (if l.modulo then 2 ^ 62 else 0) + 2 ^ 63), false),
   (BitVec.ofNat 64 (l.n.toNat + l.j * 2 ^ 32 + (if l.dr then 2 ^ 40 else 0)), false),
   (0, false)]

/-- A loop record as it stands in a frame; zero where no loop is active. The stage of each slot is not part
of the record: it stands in the stage-map words before BEG. -/
def loopRecord : Option LoopCtx → List (Word × Bool)
  | some l => l.words
  | none => [(0, false), (0, false), (0, false), (0, false)]

/-- ST of a window record (Table 12-6): a tlwait always stands there to be reissued (R163, R361). -/
def Window.stCode (w : Window) : Nat :=
  if w.kind == .tlwait then 1
  else match w.st with
    | .landed _ _ | .landedV _ _ => 0
    | .failed _ => 2
    | _ => 1

/-- VAL of a window record: for a tlwait its threshold. -/
def Window.valWord (w : Window) : Word :=
  if w.kind == .tlwait then w.addr
  else match w.st with
    | .landed v _ => v
    | _ => w.addr

/-- Taint of what the record holds. -/
def Window.taintBit (w : Window) : Bool :=
  if w.kind == .tlwait then w.tnt
  else match w.st with
    | .landed _ t | .landedV _ t | .bound _ t | .boundV _ t => t
    | _ => w.tnt

/-- Taint of VAL: of a landed scalar result, else of the address or threshold that stands there. -/
def Window.valTaint (w : Window) : Bool :=
  match w.st with
  | .landed _ t => if w.kind == .tlwait then w.tnt else t
  | _ => w.tnt

/-- What a record holds is a value of its own: a landed result, or the offsets of a gather. -/
def Window.holds (w : Window) : Bool :=
  (w.isLanded && w.kind != .tlwait) || (match w.kind with
    | .gather _ => true
    | _ => false)

/-- The 64 elements of a landed vector result: those of the result, and for those that it does not write, since it is
shorter than its register or a later window has written them already, what the register holds (log entry 18). -/
def Ctx.slotLanes (c : Ctx) (w : Window) : List Lane :=
  let lanes := match w.st with
    | .landedV vs _ => vs
    | _ => match w.kind with
      | .gather offs => offs
      | _ => []
  let full := vRegSize w.dst
  let held (a n : Nat) : List Lane := (List.range n).map (fun i => (c.readVElem w.dst (a + i)).1)
  let all := if w.isLanded && !w.gone then held 0 (min w.written full) ++ lanes.drop w.written ++ held lanes.length (full - lanes.length)
    else lanes
  all ++ List.replicate (64 - all.length) 0

/-- TNT of a window record: the taint of the held value. -/
def Ctx.recTaint (c : Ctx) (w : Window) : Bool :=
  w.holds && !(w.gone && w.isLanded) && (w.taintBit || (match w.st with
    | .landedV vs _ => (vs.length < vRegSize w.dst || 0 < w.written) && c.vTaint w.dst
    | _ => false))

/-- AUX of a window record: the stride of a vld, also where it has landed, the handle of a tlwait, 0 otherwise (Table 12-6).
A landed record that was restored keeps its AUX. -/
def Window.auxWord (w : Window) : Word :=
  match w.kind with
  | .vld | .tlwait => w.aux
  | .value => if w.vec then w.aux else 0
  | _ => 0

/-- The four words of a window record, given its vector slot. A window the whole of whose result a later instruction has
overwritten keeps its place, its count and what it may still raise, but names x0, so that its result stays overwritten after
a return (R53, log entry 5). Each word has the taint of what it holds (R360). -/
def Ctx.record (c : Ctx) (w : Window) (slot : Nat) : List (Word × Bool) :=
  let dst := if w.gone then 0 else w.dst * 2 ^ 51 + (if w.vec then 2 ^ 50 else 0)
  [(BitVec.ofNat 64 (2 ^ 63 + w.stCode * 2 ^ 61 + w.rem * 2 ^ 57 + dst + (if w.vec then slot * 2 ^ 48 else 0) +
      (if c.recTaint w then 2 ^ 47 else 0)), false),
   (w.ipc, false), (w.valWord, w.valTaint),
   (w.auxWord, w.tnt)]

/-- The window records, with vector slots given out in order. -/
def Ctx.windowRecords (c : Ctx) : List Window → Nat → List (Word × Bool)
  | [], _ => []
  | w :: r, slot => c.record w slot ++ c.windowRecords r (if w.vec then slot + 1 else slot)

/-- Pairs of lanes as words. -/
def lanePairs : List Lane → List Word
  | a :: b :: r => (b ++ a) :: lanePairs r
  | [a] => [a.setWidth 64]
  | [] => []

/-- The 256 bytes of a vector slot. -/
def Ctx.slotWords (c : Ctx) (w : Window) : List (Word × Bool) := (lanePairs (c.slotLanes w)).map (fun v => (v, c.recTaint w))

/-- A frame of the context (Table 12-5), 224 words from offset 0 to 0x6FF, each with the taint of its value (R360). -/
def Ctx.frameWords (c : Ctx) (e : Exc) : List (Word × Bool) :=
  let recs := c.windowRecords c.wins 0
  let slots := ((c.wins.filter Window.vec).take 4).flatMap c.slotWords
  let pad (n : Nat) (l : List (Word × Bool)) := (l ++ List.replicate (n - l.length) (0, false)).take n
  let outer := match c.loops with
    | _ :: o :: _ => some o
    | _ => none
  pad 9 [(c.pc, false), (c.status, c.csrTaint.getLsbD 0x00), (e.cause, false), (e.tval, e.tnt), (e.ipc, false), (e.step, false),
    (e.info0, e.infoT.getLsbD 0), (e.info1, e.infoT.getLsbD 1), (e.info2, e.infoT.getLsbD 2)] ++
  [(c.pfxpay, c.csrTaint.getLsbD 0x12), (c.vbeat, c.csrTaint.getLsbD 0x13), (BitVec.ofNat 64 c.wins.length, false)] ++
  (List.range 4).map (fun i => (c.redacc.extractLsb' (64 * i) 64, c.vbeat.getLsbD 36)) ++
  loopRecord outer ++ loopRecord c.loops.head? ++ pad 8 [] ++ pad 64 recs ++ pad 128 slots

/-- The context on entry to a handler: CTNT, PFXP, VBEAT and both loop contexts clear, every window closed
into its record (R364). -/
def Ctx.enterHandler (c : Ctx) (pc : Word) : Ctx :=
  let c := (c.setStat stCTNT false).setStat stPFXP false
  { c with vbeat := 0, loops := [], wins := [], pc := pc, stall := none, waited := none, wait := .nothing, fetched := [] }

/-- A fault of a forme halts it (R368): its contexts stop by the pre-emption path and CONTEXT_SAVE writes their
records and the report. A forme that is halted already keeps the records it has; the first fault is the one
reported. A forme whose make-ready has not ended has no fault of its own. -/
def State.raiseForme (s : State) (f : Nat) (e : Exc) (resumable : Bool) : State :=
  s.modForme f (fun g =>
    let h := if g.phase == .halted || g.phase == .stopped then g
      else { g with resumeTo := g.phase, phase := .halted, saved := false, saveFailed := false }
    match g.fault with
    | some _ => { h with resumable := g.resumable && resumable }
    | none => { h with fault := some { e with kind := kForme }, reported := false, resumable := resumable })

/-- A core is frozen and FREEZE raised: TVAL is the master as coded for frz (R376), IPC the PC of the instruction or
command that it concerns (R442), 0 where none is known. -/
def State.freezeCore (s : State) (p : Nat) (reason : Nat) (ipc : Word := 0) : State :=
  let t := s.tileD p
  let f := (s.formeAt t.forme).map Forme.k
  let s := s.modTile p (fun t => { t with frozen := true })
  s.raiseForme t.forme
    { code := cFREEZE, tval := BitVec.ofNat 64 t.logical, info0 := BitVec.ofNat 64 reason, ipc
      step := BitVec.ofNat 64 (f.getD 0) } false

/-- Writes the frame of the acting context at a frame address that meets R360 and enters the handler. An SC
operation that it had announced is announced again when its instruction runs again (R161). -/
def State.enter (s : State) (frame pc : Word) (e : Exc) : State :=
  let s1 := (s.onTile (fun t => t.writeWords (frame.toNat % 2 ^ 32) (s.ctx.frameWords e))).onCtx (fun c => c.enterHandler pc)
  { s1 with sc := s1.sc.filter (fun o => !(o.tile == s.actor.tile && o.ctx == s.actor.ctx)) }

/-- The FAULT record of a fault delivered to the acting context (Table 14-1); an interrupt is no fault. -/
def State.emitFault (s : State) (e : Exc) : State :=
  if e.kind == kInterrupt then s
  else s.emit s.actor.tile 9 s.actor.ctx.val
    ([e.code, e.sub, BitVec.ofNat 8 (s.actor.ctx.val * 64 + e.kind.toNat), 0] ++ bytesOf 8 e.ipc)

/-- Delivers a fault to the acting context by the first route of R364 that applies. The caller has seen to
it that every open window is settled. FREEZE, for a read of a poisoned granule, takes no route (R430). -/
def State.takeFault (s0 : State) (e : Exc) : State :=
  if e.code == cFREEZE then s0.freezeCore s0.actor.tile 3 e.ipc
  else
  let s := s0.emitFault e
  match (if e.kind == kInterrupt then s.ctx.intRoute else s.ctx.route e.code) with
  | .upcall =>
    if frameOk s.forme s.ctx.ufp then (s.enter s.ctx.ufp s.ctx.uvec e).onCtx (fun c => c.setStat stUEXL true)
    else s.freezeCore s.actor.tile 2 e.ipc
  | .trap =>
    if frameOk s.forme s.ctx.tfp then
      (s.enter s.ctx.tfp s.ctx.tvec e).onCtx (fun c => (c.setStat stPM true).setStat stEXL true)
    else s.freezeCore s.actor.tile 2 e.ipc
  | .freeze => s.freezeCore s.actor.tile 1 e.ipc

end Sys2Proof.Machine
end

