-- ==== Sys2Proof/Machine/Events.lean ====
section
/-! DEFINITION. What the part does toward its host: host memory, vectors (R380), CRC-32C (R382, R389) and the event ring
(R387, Table 13-5). -/

namespace Sys2Proof.Machine

/-! ### Host memory -/

/-- Some page that n bytes of host memory touch completes reads with an error. -/
def State.hostBad (s : State) (a n : Nat) : Bool := s.host.badPages.any (fun p => a / 4096 ≤ p && p ≤ (a + n - 1) / 4096)

def State.readHost (s : State) (a n : Nat) : List Byte := Memory.read s.hostMem a n

/-- Bytes with their taint written to host memory, whose taint is kept by 64-byte line (Table 5-6). -/
def State.writeHostT (s : State) (a : Nat) (bs : List (Byte × Bool)) : State :=
  { s with
    hostMem := Memory.write s.hostMem a (bs.map (·.1))
    hbmTaint := (List.range ((a + bs.length + 63) / 64 - a / 64)).foldl (fun t i =>
      let lo := max a (64 * (a / 64 + i))
      let hi := min (a + bs.length) (64 * (a / 64 + i) + 64)
      TaintSet.store t 64 (2 ^ 66 + lo) (hi - lo) (((bs.drop (lo - a)).take (hi - lo)).any (·.2))) s.hbmTaint }

def State.writeHost (s : State) (a : Nat) (bs : List Byte) : State := s.writeHostT a (bs.map (fun b => (b, false)))

/-- n bytes of host memory, each with the taint of its line. -/
def State.readHostT (s : State) (a n : Nat) : List (Byte × Bool) :=
  (s.readHost a n).zipIdx.map (fun b => (b.1, TaintSet.has s.hbmTaint (2 ^ 60 + (a + b.2) / 64)))

/-- Entry v of the MSI-X table. -/
def State.msixEnt (s : State) (v : Nat) : MsixEnt := vget s.host.msixTable v {}

/-- A vector signalled to the host; while its entry is masked it stays pending (R380). -/
def State.signal (s : State) (v : Nat) : State :=
  if (s.msixEnt v).mask then { s with host := { s.host with msixPend := Word.setBit s.host.msixPend v true } }
  else { s with host := { s.host with msix := s.host.msix ++ [v] } }

/-- An entry of the MSI-X table written; a vector that is pending and no longer masked is sent. -/
def State.putMsix (s : State) (v : Nat) (e : MsixEnt) : State :=
  let s1 := { s with host := { s.host with msixTable := vset s.host.msixTable v e } }
  if !e.mask && s.host.msixPend.getLsbD v then
    ({ s1 with host := { s1.host with msixPend := Word.setBit s1.host.msixPend v false } }).signal v
  else s1

/-! ### CRC-32C (R382, R389) -/

/-- One bit of the CRC of the Castagnoli polynomial, reflected. -/
def crcBit (c : Lane) : Lane := if c.getLsbD 0 then (c >>> 1) ^^^ 0x82F63B78 else c >>> 1

def crcByte (c : Lane) (b : Byte) : Lane :=
  (List.range 8).foldl (fun c _ => crcBit c) (c ^^^ b.setWidth 32)

/-- CRC-32C of bytes. -/
def crc32c (bs : List Byte) : Lane := ~~~ (bs.foldl crcByte 0xFFFFFFFF)

/-! ### Events (R387, Table 13-5) -/

def evRecerr : Nat := 1
def evFormeend : Nat := 2
def evFormefault : Nat := 3
def evFormehalt : Nat := 4
def evCancelled : Nat := 5
def evOrphan : Nat := 6
def evFatal : Nat := 7

/-- Status codes (Table 13-4). -/
def stOK : Nat := 0
def stCANCELLED : Nat := 1
def stBADREC : Nat := 2
def stBADOPC : Nat := 3
def stBADTAIL : Nat := 4
def stFETCH : Nat := 5
def stNOHANDLE : Nat := 6
def stEXISTS : Nat := 7
def stCOLOPHON : Nat := 8
def stIMAGE : Nat := 9
def stOVERLAP : Nat := 10
def stBUSY : Nat := 11
def stNOFORME : Nat := 12
def stFAULT : Nat := 13
def stMAPFAIL : Nat := 14
def stRANGE : Nat := 15
def stBADSAVE : Nat := 16

/-- The eight words of an event record. -/
def eventWords (kind status forme queue index : Nat) (e : Exc) (user : Word) : List Word :=
  [BitVec.ofNat 64 (kind * 2 ^ 56 + status % 2 ^ 8 * 2 ^ 48 + forme % 2 ^ 8 * 2 ^ 40 + queue % 2 ^ 6 * 2 ^ 32 + index % 2 ^ 32),
   e.cause, e.tval, e.info0, e.info1, e.ipc, e.step, user]

/-- A ring has room for one more record. -/
def DevRing.room (r : DevRing) : Bool := r.en && (r.tail - r.head).toNat < 2 ^ r.log2n

/-- A record written into the event ring: EVTAIL rises and its vector is signalled. -/
def State.putEvent (s : State) (ws : List Word) : State :=
  let r := s.host.ev
  let s1 := s.writeHost (r.base.toNat + 64 * (r.tail.toNat % 2 ^ r.log2n)) (ws.flatMap (bytesOf 8))
  ({ s1 with host := { s1.host with ev := { r with tail := r.tail + 1 } } }).signal r.vec

/-- An event is written, held while the ring is full, or lost with OVF set. Nothing follows FATAL (R387). -/
def State.event (s : State) (ws : List Word) : State :=
  let h := s.host
  if s.fatal.isSome then s
  else if h.ev.en && h.held.isEmpty && h.ev.room then s.putEvent ws
  else if h.ev.en && h.held.length < 256 then { s with host := { h with held := h.held ++ [ws] } }
  else { s with host := { h with ev := { h.ev with ovf := true } } }

end Sys2Proof.Machine
end

