-- ==== Sys2Proof/Machine/Flags.lean ====
section
/-! DEFINITION. The result of every scalar function (Tables 3-4, 3-5, 3-8 and 3-9), and the exception flags
of FPCTL (Table 8-7). The scalar unit sets no condition flags (R68). -/

namespace Sys2Proof.Machine

/-- 1 where the relation holds, else 0. -/
def flag (b : Bool) : Word := if b then 1 else 0

/-- sext(v[31:0], 32). -/
def sx32 (v : Word) : Word := (v.setWidth 32).signExtend 64

/-- The low half of a word. -/
def lo32 (v : Word) : Lane := v.setWidth 32

/-- Number of leading zero bits of an n-bit number. -/
def clzNat : Nat → Nat → Nat
  | 0, _ => 0
  | n + 1, v => if v.testBit n then 0 else 1 + clzNat n v

/-- Number of trailing zero bits among n bits. -/
def ctzNat : Nat → Nat → Nat
  | 0, _ => 0
  | n + 1, v => if v.testBit 0 then 0 else 1 + ctzNat n (v / 2)

/-- Number of 1 bits among n bits. -/
def popNat : Nat → Nat → Nat
  | 0, _ => 0
  | n + 1, v => v % 2 + popNat n (v / 2)

/-! ### ALU (Table 3-4) -/

def aluSll (a b : Word) : Word := if b.toNat < 64 then a <<< b.toNat else 0
def aluSrl (a b : Word) : Word := if b.toNat < 64 then a >>> b.toNat else 0
def aluSra (a b : Word) : Word := a.sshiftRight (min b.toNat 63)
def aluSlt (a b : Word) : Word := flag (a.toInt < b.toInt)
def aluSltn (a b : Word) : Word := flag (a.toNat < b.toNat)
def aluMin (a b : Word) : Word := if a.toInt < b.toInt then a else b
def aluMax (a b : Word) : Word := if a.toInt < b.toInt then b else a
def aluMinn (a b : Word) : Word := if a.toNat < b.toNat then a else b
def aluMaxn (a b : Word) : Word := if a.toNat < b.toNat then b else a
def aluClz (a : Word) : Word := BitVec.ofNat 64 (clzNat 64 a.toNat)
def aluCtz (a : Word) : Word := BitVec.ofNat 64 (ctzNat 64 a.toNat)
def aluPopc (a : Word) : Word := BitVec.ofNat 64 (popNat 64 a.toNat)
def aluBswap (a : Word) : Word := wordOf (bytesOf 8 a).reverse
def aluAddw (a b : Word) : Word := sx32 (a + b)
def aluSubw (a b : Word) : Word := sx32 (a - b)
def aluSllw (a b : Word) : Word := if b.toNat < 32 then (lo32 a <<< b.toNat).signExtend 64 else 0
def aluSrlw (a b : Word) : Word := if b.toNat < 32 then (lo32 a >>> b.toNat).signExtend 64 else 0
def aluSraw (a b : Word) : Word := ((lo32 a).sshiftRight (min b.toNat 31)).signExtend 64
def aluCzero (a b : Word) : Word := if b = 0 then 0 else a

/-! ### MULDIV (Table 3-8): quotients round toward zero, saturate, and are 0 for a zero divisor -/

def mdMul (a b : Word) : Word := a * b
def mdMulh (a b : Word) : Word := BitVec.ofInt 64 (a.toInt * b.toInt / 2 ^ 64)
def mdMulhn (a b : Word) : Word := BitVec.ofNat 64 (a.toNat * b.toNat / 2 ^ 64)
def mdMulhsn (a b : Word) : Word := BitVec.ofInt 64 (a.toInt * b.toNat / 2 ^ 64)
def mdDiv (a b : Word) : Word :=
  if b = 0 then 0
  else if a.toInt.tdiv b.toInt = 2 ^ 63 then BitVec.ofInt 64 (2 ^ 63 - 1)
  else BitVec.ofInt 64 (a.toInt.tdiv b.toInt)
def mdDivn (a b : Word) : Word := if b = 0 then 0 else BitVec.ofNat 64 (a.toNat / b.toNat)
def mdRem (a b : Word) : Word := if b = 0 then a else BitVec.ofInt 64 (a.toInt.tmod b.toInt)
def mdRemn (a b : Word) : Word := if b = 0 then a else BitVec.ofNat 64 (a.toNat % b.toNat)
def mdMulw (a b : Word) : Word := sx32 (a * b)
def mdDivw (a b : Word) : Word :=
  if lo32 b = 0 then 0
  else if (lo32 a).toInt.tdiv (lo32 b).toInt = 2 ^ 31 then BitVec.ofInt 64 (2 ^ 31 - 1)
  else BitVec.ofInt 64 ((lo32 a).toInt.tdiv (lo32 b).toInt)
def mdDivnw (a b : Word) : Word :=
  if lo32 b = 0 then 0 else (BitVec.ofNat 32 ((lo32 a).toNat / (lo32 b).toNat)).signExtend 64

/-! ### Branch conditions (Table 3-9) -/

def condEq (a b : Word) : Bool := a == b
def condNe (a b : Word) : Bool := a != b
def condLt (a b : Word) : Bool := a.toInt < b.toInt
def condGe (a b : Word) : Bool := b.toInt ≤ a.toInt
def condLtn (a b : Word) : Bool := a.toNat < b.toNat
def condGen (a b : Word) : Bool := b.toNat ≤ a.toNat

/-! ### Floating-point exception flags (Table 8-7): 4 NV, 3 DZ, 2 OF, 1 UF, 0 NX -/

abbrev FpFlags := BitVec 5

def fNone : FpFlags := 0
def fNV : FpFlags := 0b10000
def fDZ : FpFlags := 0b01000
def fOF : FpFlags := 0b00100
def fUF : FpFlags := 0b00010
def fNX : FpFlags := 0b00001

/-- FPCTL with flags accrued. -/
def accrue (fpctl : Word) (f : FpFlags) : Word := fpctl ||| f.setWidth 64

/-- The enabled flags among those raised. -/
def enabled (fpctl : Word) (f : FpFlags) : FpFlags := f &&& fpctl.extractLsb' 8 5

end Sys2Proof.Machine
end

