-- ==== Sys2Proof/Machine/Float.lean ====
section
/-! DEFINITION. Floating-point arithmetic: the formats of Table 9-1, exact values as an integer times a power
of two, one rounding (R253, R273), and the functions of VFA, VFB, VRED, VSFU and VCVT on single values. -/

namespace Sys2Proof.Machine

/-- A binary format: fraction bits, exponent bits. -/
structure Fmt where
  f : Nat
  e : Nat
deriving DecidableEq, Repr

def fmtF32 : Fmt := { f := 23, e := 8 }
def fmtF16 : Fmt := { f := 10, e := 5 }
def fmtBf16 : Fmt := { f := 7, e := 8 }
def fmtE4m3 : Fmt := { f := 3, e := 4 }
def fmtE5m2 : Fmt := { f := 2, e := 5 }

def Fmt.bias (t : Fmt) : Nat := 2 ^ (t.e - 1) - 1
def Fmt.width (t : Fmt) : Nat := t.f + t.e + 1

/-- A decoded value: NaN (signalling or not), infinity, or sign × m × 2^x. -/
inductive FVal where
  | nan (sig : Bool)
  | inf (neg : Bool)
  | fin (neg : Bool) (m : Nat) (x : Int)
deriving DecidableEq, Repr

/-- Decodes a code of an IEEE-style format. -/
def Fmt.decode (t : Fmt) (v : Nat) : FVal :=
  let s := v / 2 ^ (t.f + t.e) % 2 == 1
  let e := v / 2 ^ t.f % 2 ^ t.e
  let f := v % 2 ^ t.f
  if e = 2 ^ t.e - 1 then
    if f = 0 then .inf s else .nan (f / 2 ^ (t.f - 1) % 2 == 0)
  else if e = 0 then .fin s f (1 - (t.bias : Int) - t.f)
  else .fin s (f + 2 ^ t.f) ((e : Int) - t.bias - t.f)

/-- The canonical NaN of a format. -/
def Fmt.qnan (t : Fmt) : Nat := (2 ^ t.e - 1) * 2 ^ t.f + 2 ^ (t.f - 1)
def Fmt.infCode (t : Fmt) (neg : Bool) : Nat := (if neg then 2 ^ (t.f + t.e) else 0) + (2 ^ t.e - 1) * 2 ^ t.f
def Fmt.maxCode (t : Fmt) (neg : Bool) : Nat := (if neg then 2 ^ (t.f + t.e) else 0) + (2 ^ t.e - 1) * 2 ^ t.f - 1
def Fmt.zero (t : Fmt) (neg : Bool) : Nat := if neg then 2 ^ (t.f + t.e) else 0

/-- Rounding modes (Table 2-8): 0 RNE, 1 RTZ, 2 RDN, 3 RUP. -/
abbrev Rnd := Nat

/-- m / 2^k rounded to an integer under a mode, with the inexact mark; `sticky` says that the exact value
lies strictly above m. -/
def rshiftRound (rnd : Rnd) (neg : Bool) (m k : Nat) (sticky : Bool) : Nat × Bool :=
  let q := m / 2 ^ k
  let r := m % 2 ^ k
  let inexact := r != 0 || sticky
  let up := match rnd with
    | 0 => if k = 0 then false
           else if 2 ^ (k - 1) < r || (r = 2 ^ (k - 1) && sticky) then true
           else r = 2 ^ (k - 1) && q % 2 = 1
    | 1 => false
    | 2 => neg && inexact
    | _ => !neg && inexact
  (if up then q + 1 else q, inexact)

/-- Bit length. -/
def bitLen (m : Nat) : Nat := if m = 0 then 0 else m.log2 + 1

/-- An exact nonzero value rounded once to a format: the code and its flags. `sat` 0: IEEE overflow; 1: an
overflow gives the largest finite value; 2: it gives the canonical NaN (Tables 2-8 and 8-16). Tininess is
detected after rounding (R253). -/
def Fmt.round (t : Fmt) (rnd : Rnd) (ovf : Nat) (neg : Bool) (m : Nat) (x : Int) (sticky : Bool) : Nat × FpFlags :=
  let emin : Int := 1 - (t.bias : Int)
  let top : Int := x + (bitLen m : Int) - 1
  -- quantum of the result were the exponent unbounded, and of the subnormal range
  let qn : Int := top - t.f
  let qs : Int := emin - t.f
  let q : Int := if qn < qs then qs else qn
  let sh : Int := q - x
  -- below the quantum by more than the width: keep one bit of it
  let r := if 0 ≤ sh then rshiftRound rnd neg m sh.toNat sticky
           else (m * 2 ^ (-sh).toNat, sticky)
  let sgn := if neg then 2 ^ (t.f + t.e) else 0
  -- rounding with unbounded exponent, for tininess
  let shn : Int := qn - x
  let rn := if 0 ≤ shn then (rshiftRound rnd neg m shn.toNat sticky).1 else m * 2 ^ (-shn).toNat
  let tiny := qn < qs && (rn < 2 ^ (t.f + 1) || qn + 1 < qs)
  let tiny := tiny && m != 0
  -- r.1 × 2^q
  let code : Int := if r.1 < 2 ^ t.f then (r.1 : Int) else (q - qs) * 2 ^ t.f + r.1
  if code ≥ ((2 ^ t.e - 1) * 2 ^ t.f : Nat) then
    let away := match rnd with
      | 0 => true
      | 1 => false
      | 2 => neg
      | _ => !neg
    let v := if ovf = 0 then (if away then t.infCode neg else t.maxCode neg)
             else if ovf = 1 then t.maxCode neg else t.qnan
    (v, fOF ||| fNX)
  else
    (sgn + code.toNat,
      if r.2 then (if tiny then fUF ||| fNX else fNX) else fNone)

/-- An exact value (sign of a zero given apart) rounded once. -/
def Fmt.ofExact (t : Fmt) (rnd : Rnd) (ovf : Nat) (v : Int) (x : Int) (negZero : Bool) : Nat × FpFlags :=
  if v = 0 then (t.zero negZero, fNone) else t.round rnd ovf (v < 0) v.natAbs x false

/-- Signed mantissas of two finite values on their common exponent. -/
def alignTwo (n1 : Bool) (m1 : Nat) (x1 : Int) (n2 : Bool) (m2 : Nat) (x2 : Int) : Int × Int × Int :=
  let x := min x1 x2
  let a : Int := (m1 : Int) * 2 ^ (x1 - x).toNat
  let b : Int := (m2 : Int) * 2 ^ (x2 - x).toNat
  (if n1 then -a else a, if n2 then -b else b, x)

/-- NV where an operand is a signalling NaN. -/
def FVal.sig : FVal → Bool
  | .nan s => s
  | _ => false

def FVal.isNan : FVal → Bool
  | .nan _ => true
  | _ => false

def FVal.negate : FVal → FVal
  | .nan s => .nan s
  | .inf n => .inf (!n)
  | .fin n m x => .fin (!n) m x

/-- The sign of an exact zero sum (IEEE 754-2019): of equal signs theirs, else + except under RDN. -/
def zeroSign (rnd : Rnd) (n1 n2 : Bool) : Bool := if n1 == n2 then n1 else rnd == 2

/-- Sum of two values, rounded once. -/
def fAdd (t : Fmt) (rnd : Rnd) (a b : FVal) : Nat × FpFlags :=
  match a, b with
  | .nan _, _ | _, .nan _ => (t.qnan, if a.sig || b.sig then fNV else fNone)
  | .inf n, .inf n' => if n == n' then (t.infCode n, fNone) else (t.qnan, fNV)
  | .inf n, _ => (t.infCode n, fNone)
  | _, .inf n => (t.infCode n, fNone)
  | .fin n1 m1 x1, .fin n2 m2 x2 =>
    let r := alignTwo n1 m1 x1 n2 m2 x2
    t.ofExact rnd 0 (r.1 + r.2.1) r.2.2 (zeroSign rnd n1 n2)

/-- Product of two values, rounded once. -/
def fMul (t : Fmt) (rnd : Rnd) (a b : FVal) : Nat × FpFlags :=
  match a, b with
  | .nan _, _ | _, .nan _ => (t.qnan, if a.sig || b.sig then fNV else fNone)
  | .inf n, .inf n' => (t.infCode (n != n'), fNone)
  | .inf n, .fin n' m _ | .fin n' m _, .inf n =>
    if m = 0 then (t.qnan, fNV) else (t.infCode (n != n'), fNone)
  | .fin n1 m1 x1, .fin n2 m2 x2 =>
    let v : Int := (m1 * m2 : Nat)
    t.ofExact rnd 0 (if n1 != n2 then -v else v) (x1 + x2) (n1 != n2)

/-- A × B + C, rounded once; the product is not rounded. -/
def fFma (t : Fmt) (rnd : Rnd) (a b c : FVal) : Nat × FpFlags :=
  let nv := a.sig || b.sig || c.sig
  let bad : Bool := match a, b with
    | .inf _, .fin _ m _ | .fin _ m _, .inf _ => m = 0
    | _, _ => false
  if bad then (t.qnan, fNV)
  else if a.isNan || b.isNan || c.isNan then (t.qnan, if nv then fNV else fNone)
  else match a, b, c with
    | .fin n1 m1 x1, .fin n2 m2 x2, .fin n3 m3 x3 =>
      let r := alignTwo (n1 != n2) (m1 * m2) (x1 + x2) n3 m3 x3
      t.ofExact rnd 0 (r.1 + r.2.1) r.2.2 (zeroSign rnd (n1 != n2) n3)
    | .fin _ _ _, .fin _ _ _, c =>
      match c with
      | .inf n => (t.infCode n, fNone)
      | _ => (t.qnan, fNone)
    | a, b, c =>
      let neg := (match a with | .inf n => n | .fin n _ _ => n | .nan _ => false) !=
                 (match b with | .inf n => n | .fin n _ _ => n | .nan _ => false)
      match c with
      | .inf n => if n == neg then (t.infCode neg, fNone) else (t.qnan, fNV)
      | _ => (t.infCode neg, fNone)

/-- Quotient, rounded once. -/
def fDiv (t : Fmt) (rnd : Rnd) (a b : FVal) : Nat × FpFlags :=
  match a, b with
  | .nan _, _ | _, .nan _ => (t.qnan, if a.sig || b.sig then fNV else fNone)
  | .inf _, .inf _ => (t.qnan, fNV)
  | .inf n, .fin n' _ _ => (t.infCode (n != n'), fNone)
  | .fin n _ _, .inf n' => (t.zero (n != n'), fNone)
  | .fin n1 m1 x1, .fin n2 m2 x2 =>
    if m2 = 0 then (if m1 = 0 then (t.qnan, fNV) else (t.infCode (n1 != n2), fDZ))
    else if m1 = 0 then (t.zero (n1 != n2), fNone)
    else
      -- 64 quotient bits and the remainder as a sticky mark decide any rounding
      let k := 64 + bitLen m2
      let num := m1 * 2 ^ k
      t.round rnd 0 (n1 != n2) (num / m2) (x1 - x2 - k) (num % m2 != 0)

/-- Integer square root of n, one bit of the root at a time from bit k − 1 down. -/
def isqrtFrom : Nat → Nat → Nat → Nat
  | 0, _, r => r
  | k + 1, n, r => if (r + 2 ^ k) * (r + 2 ^ k) ≤ n then isqrtFrom k n (r + 2 ^ k) else isqrtFrom k n r

/-- The integer square root. -/
def isqrt (n : Nat) : Nat := isqrtFrom (bitLen n / 2 + 1) n 0

/-- Square root, rounded once; the root of −0 is −0. -/
def fSqrt (t : Fmt) (rnd : Rnd) (a : FVal) : Nat × FpFlags :=
  match a with
  | .nan s => (t.qnan, if s then fNV else fNone)
  | .inf n => if n then (t.qnan, fNV) else (t.infCode false, fNone)
  | .fin n m x =>
    if m = 0 then (t.zero n, fNone)
    else if n then (t.qnan, fNV)
    else
      let m' := if x % 2 = 0 then m else 2 * m
      let x' := if x % 2 = 0 then x else x - 1
      let r := isqrt (m' * 2 ^ 128)
      t.round rnd 0 false r (x' / 2 - 64) (r * r != m' * 2 ^ 128)

/-- Order of two finite or infinite values: below, equal or above, with −0 below +0 where `signed`. -/
def FVal.key (signed : Bool) : FVal → Int × Int
  | .nan _ => (0, 0)
  | .inf n => (if n then -(2 ^ 400) else 2 ^ 400, 0)
  | .fin n m x =>
    let v : Int := (m : Int) * 2 ^ (x + 200).toNat
    (if n then -v else v, if signed && n then -1 else 0)

def FVal.lt (signed : Bool) (a b : FVal) : Bool :=
  let p := a.key signed
  let q := b.key signed
  p.1 < q.1 || (p.1 = q.1 && p.2 < q.2)

/-- The smaller, or larger, of two values given with their codes (Table 8-8). -/
def fMin (t : Fmt) (ca cb : Nat) : Nat × FpFlags :=
  let a := t.decode ca
  let b := t.decode cb
  if a.isNan || b.isNan then (t.qnan, if a.sig || b.sig then fNV else fNone)
  else (if FVal.lt true b a then cb else ca, fNone)

def fMax (t : Fmt) (ca cb : Nat) : Nat × FpFlags :=
  let a := t.decode ca
  let b := t.decode cb
  if a.isNan || b.isNan then (t.qnan, if a.sig || b.sig then fNV else fNone)
  else (if FVal.lt true a b then cb else ca, fNone)

/-- Class word of an f32 code (Table 8-9). -/
def fClass (v : Nat) : Nat :=
  let kind := match fmtF32.decode v with
    | .nan s => if s then 5 else 4
    | .inf _ => 3
    | .fin _ m _ => if m = 0 then 0 else if v / 2 ^ 23 % 256 = 0 then 1 else 2
  v / 2 ^ 23 % 256 * 16 + v / 2 ^ 31 % 2 * 8 + kind

/-! ### Special functions (Table 8-10), by fixed-point integers with 320 fraction bits

Each function is computed to within 2^-280, far closer than any f32 value or midpoint that is not itself
exact lies (DEDUCED, log entry 6), then rounded once with a sticky mark. -/

/-- The scale of the fixed-point numbers of the special functions. -/
def fxBits : Nat := 320

/-- Σ term_k where term_0 = t and term_{k+1} = term_k × z / (k + 1), in fixed point. -/
def expSeries : Nat → Nat → Nat → Nat → Nat → Nat
  | 0, _, _, _, acc => acc
  | fuel + 1, k, z, t, acc => expSeries fuel (k + 1) z (t * z / 2 ^ fxBits / (k + 1)) (acc + t)

/-- e^z for a fixed-point z from 0 to 1. -/
def fxExp (z : Nat) : Nat := expSeries 90 0 z (2 ^ fxBits) 0

/-- 2 × atanh(z) = Σ 2 z^(2k+1) / (2k+1), for a fixed-point z below 1/2. -/
def atanhSeries : Nat → Nat → Nat → Nat → Nat → Nat
  | 0, _, _, _, acc => acc
  | fuel + 1, k, z2, t, acc => atanhSeries fuel (k + 1) z2 (t * z2 / 2 ^ fxBits) (acc + 2 * t / (2 * k + 1))

def fxAtanh2 (z : Nat) : Nat := atanhSeries 110 0 (z * z / 2 ^ fxBits) z 0

/-- ln 2 = 2 atanh(1/3). -/
def fxLn2 : Nat := fxAtanh2 (2 ^ fxBits / 3)

/-- A fixed-point result rounded once to f32 (RNE), inexact. -/
def ofFx (neg : Bool) (v : Nat) (x : Int) : Nat × FpFlags := fmtF32.round 0 0 neg v (x - fxBits) true

/-- 1 / A. -/
def sfRcp (a : FVal) : Nat × FpFlags := fDiv fmtF32 0 (.fin false 1 0) a

/-- 1 / √A. -/
def sfRsq (a : FVal) : Nat × FpFlags :=
  match a with
  | .nan s => (fmtF32.qnan, if s then fNV else fNone)
  | .inf n => if n then (fmtF32.qnan, fNV) else (0, fNone)
  | .fin n m x =>
    if m = 0 then (fmtF32.infCode n, fDZ)
    else if n then (fmtF32.qnan, fNV)
    else
      let m' := if x % 2 = 0 then m else 2 * m
      let x' := if x % 2 = 0 then x else x - 1
      -- √(2^400 / m') × 2^-200 × 2^(-x'/2)
      let q := 2 ^ 400 / m'
      let r := isqrt q
      fmtF32.round 0 0 false r (-200 - x' / 2) (r * r * m' != 2 ^ 400)

/-- 2^A. -/
def sfEx2 (a : FVal) : Nat × FpFlags :=
  match a with
  | .nan s => (fmtF32.qnan, if s then fNV else fNone)
  | .inf n => (if n then 0 else fmtF32.infCode false, fNone)
  | .fin n m x =>
    if m = 0 then (fmtF32.round 0 0 false 1 0 false)
    else if 8 < x + bitLen m then
      -- |A| ≥ 2^8: beyond the range on either side
      if n then fmtF32.round 0 0 false 1 (-400) true else fmtF32.round 0 0 false 1 400 false
    else if x < -150 - bitLen m then
      -- |A| below 2^-150: 2^A is inexact and nearest to 1
      (fmtF32.round 0 0 false (if n then 2 ^ 60 - 1 else 2 ^ 60) (-60) true)
    else
      -- A = i + f with f in [0, 1), in 320 fraction bits
      let v : Int := if 0 ≤ x then (m * 2 ^ (x.toNat + fxBits) : Nat) else (m * 2 ^ fxBits / 2 ^ (-x).toNat : Nat)
      let v := if n then -v else v
      let i := v / (2 ^ fxBits : Nat)
      let f := (v % (2 ^ fxBits : Nat)).toNat
      if f = 0 then fmtF32.round 0 0 false 1 i false
      else ofFx false (fxExp (f * fxLn2 / 2 ^ fxBits)) i

/-- log2 A. -/
def sfLg2 (a : FVal) : Nat × FpFlags :=
  match a with
  | .nan s => (fmtF32.qnan, if s then fNV else fNone)
  | .inf n => if n then (fmtF32.qnan, fNV) else (fmtF32.infCode false, fNone)
  | .fin n m x =>
    if m = 0 then (fmtF32.infCode true, fDZ)
    else if n then (fmtF32.qnan, fNV)
    else
      -- A = u × 2^k with u in [1, 2); choose u in (2/3, 4/3] so that the logarithm near 1 keeps its bits
      let b := bitLen m - 1
      let k : Int := x + b
      if m = 2 ^ b then fmtF32.ofExact 0 0 k 0 false
      else
        let big := 3 * m > 4 * 2 ^ b
        let k' : Int := if big then k + 1 else k
        let den : Nat := if big then 2 ^ (b + 1) else 2 ^ b
        -- ln u = 2 atanh((u − 1) / (u + 1)) with u = m / den
        let d : Int := (m : Int) - den
        let z : Nat := d.natAbs * 2 ^ fxBits / (m + den)
        let l := fxAtanh2 z * 2 ^ fxBits / fxLn2
        let tot : Int := k' * (2 ^ fxBits : Nat) + (if d < 0 then -(l : Int) else l)
        fmtF32.round 0 0 (tot < 0) tot.natAbs (-(fxBits : Int)) true

/-- tanh A. -/
def sfTanh (a : FVal) : Nat × FpFlags :=
  match a with
  | .nan s => (fmtF32.qnan, if s then fNV else fNone)
  | .inf n => ((if n then 2 ^ 31 else 0) + 0x3F800000, fNone)
  | .fin n m x =>
    if m = 0 then (fmtF32.zero n, fNone)
    else if 5 < x + bitLen m then
      -- |A| ≥ 32: 1 − 2 / (e^(2|A|) + 1) lies just below 1
      fmtF32.round 0 0 n (2 ^ 60 - 1) (-60) true
    else if x + bitLen m < -60 then
      -- |A| < 2^-60: A − A³/3 lies just below A
      fmtF32.round 0 0 n (m * 2 ^ 60 - 1) (x - 60) true
    else
      -- tanh |A| = (E − 1) / (E + 1) with E = e^(2|A|) = 2^i × e^r
      let v := if 0 ≤ x then m * 2 ^ (x.toNat + fxBits + 1) else m * 2 ^ (fxBits + 1) / 2 ^ (-x).toNat
      let i := v / fxLn2
      let e := fxExp (v % fxLn2) * 2 ^ i
      fmtF32.round 0 0 n ((e - 2 ^ fxBits) * 2 ^ fxBits / (e + 2 ^ fxBits)) (-(fxBits : Int)) true

/-! ### Conversions of VCVT (Table 8-16) -/

/-- A type of VCVT: a float format, or an integer of a width and signedness. -/
inductive VTy where
  | flt (t : Fmt)
  | int (w : Nat) (signed : Bool)
deriving DecidableEq, Repr

/-- The integer a code of an integer type stands for. -/
def intVal (w : Nat) (signed : Bool) (v : Nat) : Int := if signed then sextNat v w else (v % 2 ^ w : Nat)

/-- Limits of an integer type. -/
def intMin (w : Nat) (signed : Bool) : Int := if signed then -(2 ^ (w - 1) : Nat) else 0
def intMax (w : Nat) (signed : Bool) : Int := if signed then (2 ^ (w - 1) : Nat) - 1 else (2 ^ w : Nat) - 1

/-- The code of an integer reduced modulo 2^w. -/
def intCode (w : Nat) (v : Int) : Nat := (v % (2 ^ w : Nat)).toNat

/-- v clamped to the range of the type (Table 0-4, sat). -/
def intClamp (w : Nat) (signed : Bool) (v : Int) : Int :=
  if v < intMin w signed then intMin w signed else if intMax w signed < v then intMax w signed else v

/-- The conversion c of R265. -/
def convert (src dst : VTy) (rnd : Rnd) (sat : Bool) (v : Nat) : Nat × FpFlags :=
  match src, dst with
  | .flt a, .flt b =>
    match a.decode (v % 2 ^ a.width) with
    | .nan s => (b.qnan, if s then fNV else fNone)
    | .inf n => (b.infCode n, fNone)
    | .fin n m x => if m = 0 then (b.zero n, fNone) else b.round rnd (if sat then 2 else 1) n m x false
  | .flt a, .int w sg =>
    match a.decode (v % 2 ^ a.width) with
    | .nan _ => (0, fNV)
    | .inf n => (intCode w (if n then intMin w sg else intMax w sg), fNV)
    | .fin n m x =>
      let r := if 0 ≤ x then (m * 2 ^ x.toNat, false) else rshiftRound rnd n m (-x).toNat false
      let i : Int := if n then -(r.1 : Int) else r.1
      if i < intMin w sg ∨ intMax w sg < i then (intCode w (intClamp w sg i), fNV)
      else (intCode w i, if r.2 then fNX else fNone)
  | .int w sg, .flt b =>
    let i := intVal w sg v
    if i = 0 then (0, fNone) else b.round rnd (if sat then 2 else 1) (i < 0) i.natAbs 0 false
  | .int w sg, .int w' sg' =>
    let i := intVal w sg v
    (intCode w' (if sat && (w' < w || (w' = w && sg != sg')) then intClamp w' sg' i else i), fNone)

end Sys2Proof.Machine
end

