-- ==== Sys2Proof/Decode.lean ====
section
/-! DEFINITION. Reading an instruction word and writing one: the majors and formats of Tables 2-1 to 2-11
for the Gomas words, Tables 6-3 to 6-5 for the route words of a switch. A word that encodes nothing is
rejected by the name of the check that it fails (R49, R60, R173). -/

namespace Sys2Proof

/-- Why a word encodes no instruction. Every one of them is ILLOP on a core (R60) and SWILL in a switch
program (R173). -/
inductive DecodeErr where
  | major
  | function
  | zField
  | size
  | subfield
  | csrNumber
  | source
  | target
deriving DecidableEq, Repr

/-- The field of `n` bits that begins at bit `lo` of the word. -/
def fld (w lo n : Nat) : Nat := w / 2 ^ lo % 2 ^ n

/-- The CSR numbers that Table 12-2 assigns. -/
def csrAssigned (n : Nat) : Bool :=
  n ≤ 0x00B || (0x010 ≤ n && n ≤ 0x018) || (0x020 ≤ n && n ≤ 0x023) || (0x030 ≤ n && n ≤ 0x035) ||
  (0x100 ≤ n && n ≤ 0x15F) || (0x200 ≤ n && n ≤ 0x209) || (0x210 ≤ n && n ≤ 0x214) ||
  (0x218 ≤ n && n ≤ 0x21C) || (0x220 ≤ n && n ≤ 0x29F)

/-- The CSRs whose User and Privileged columns both read R (R353). -/
def csrReadOnly (n : Nat) : Bool :=
  n = 0x009 || n = 0x00A || (0x013 ≤ n && n ≤ 0x017) || n = 0x203 || (0x205 ≤ n && n ≤ 0x209) ||
  (0x220 ≤ n && n ≤ 0x23F) || (0x280 ≤ n && n ≤ 0x28F)

/-- Major ALU (OP 0x00, Table 2-9). -/
def decAlu (w : Nat) : Except DecodeErr Instr :=
  match fld w 0 8 with
  | 1 => .ok (.add (fld w 20 6) (fld w 14 6) (fld w 8 6))
  | 2 => .ok (.sub (fld w 20 6) (fld w 14 6) (fld w 8 6))
  | 3 => .ok (.and (fld w 20 6) (fld w 14 6) (fld w 8 6))
  | 4 => .ok (.or (fld w 20 6) (fld w 14 6) (fld w 8 6))
  | 5 => .ok (.xor (fld w 20 6) (fld w 14 6) (fld w 8 6))
  | 6 => .ok (.andn (fld w 20 6) (fld w 14 6) (fld w 8 6))
  | 7 => .ok (.orn (fld w 20 6) (fld w 14 6) (fld w 8 6))
  | 8 => .ok (.sll (fld w 20 6) (fld w 14 6) (fld w 8 6))
  | 9 => .ok (.srl (fld w 20 6) (fld w 14 6) (fld w 8 6))
  | 10 => .ok (.sra (fld w 20 6) (fld w 14 6) (fld w 8 6))
  | 11 => .ok (.slt (fld w 20 6) (fld w 14 6) (fld w 8 6))
  | 12 => .ok (.sltn (fld w 20 6) (fld w 14 6) (fld w 8 6))
  | 13 => .ok (.min (fld w 20 6) (fld w 14 6) (fld w 8 6))
  | 14 => .ok (.max (fld w 20 6) (fld w 14 6) (fld w 8 6))
  | 15 => .ok (.minn (fld w 20 6) (fld w 14 6) (fld w 8 6))
  | 16 => .ok (.maxn (fld w 20 6) (fld w 14 6) (fld w 8 6))
  | 17 => if fld w 8 6 = 0 then .ok (.clz (fld w 20 6) (fld w 14 6)) else .error .zField
  | 18 => if fld w 8 6 = 0 then .ok (.ctz (fld w 20 6) (fld w 14 6)) else .error .zField
  | 19 => if fld w 8 6 = 0 then .ok (.popc (fld w 20 6) (fld w 14 6)) else .error .zField
  | 20 => if fld w 8 6 = 0 then .ok (.bswap (fld w 20 6) (fld w 14 6)) else .error .zField
  | 21 => .ok (.addw (fld w 20 6) (fld w 14 6) (fld w 8 6))
  | 22 => .ok (.subw (fld w 20 6) (fld w 14 6) (fld w 8 6))
  | 23 => .ok (.sllw (fld w 20 6) (fld w 14 6) (fld w 8 6))
  | 24 => .ok (.srlw (fld w 20 6) (fld w 14 6) (fld w 8 6))
  | 25 => .ok (.sraw (fld w 20 6) (fld w 14 6) (fld w 8 6))
  | 26 => .ok (.czero (fld w 20 6) (fld w 14 6) (fld w 8 6))
  | _ => .error .function

/-- Major SHI (OP 0x08, Table 2-9). -/
def decShi (w : Nat) : Except DecodeErr Instr :=
  match fld w 12 2 with
  | 1 => if fld w 6 6 = 0 then .ok (.slli (fld w 20 6) (fld w 14 6) (fld w 0 6)) else .error .zField
  | 2 => if fld w 6 6 = 0 then .ok (.srli (fld w 20 6) (fld w 14 6) (fld w 0 6)) else .error .zField
  | 3 => if fld w 6 6 = 0 then .ok (.srai (fld w 20 6) (fld w 14 6) (fld w 0 6)) else .error .zField
  | _ => .error .function

/-- Major MULDIV (OP 0x0b, Table 2-9). -/
def decMuldiv (w : Nat) : Except DecodeErr Instr :=
  match fld w 0 4 with
  | 1 => .ok (.mul (fld w 20 6) (fld w 14 6) (fld w 8 6) (fld w 4 4))
  | 2 => .ok (.mulh (fld w 20 6) (fld w 14 6) (fld w 8 6) (fld w 4 4))
  | 3 => .ok (.mulhn (fld w 20 6) (fld w 14 6) (fld w 8 6) (fld w 4 4))
  | 4 => .ok (.mulhsn (fld w 20 6) (fld w 14 6) (fld w 8 6) (fld w 4 4))
  | 5 => .ok (.div (fld w 20 6) (fld w 14 6) (fld w 8 6) (fld w 4 4))
  | 6 => .ok (.divn (fld w 20 6) (fld w 14 6) (fld w 8 6) (fld w 4 4))
  | 7 => .ok (.rem (fld w 20 6) (fld w 14 6) (fld w 8 6) (fld w 4 4))
  | 8 => .ok (.remn (fld w 20 6) (fld w 14 6) (fld w 8 6) (fld w 4 4))
  | 9 => .ok (.mulw (fld w 20 6) (fld w 14 6) (fld w 8 6) (fld w 4 4))
  | 10 => .ok (.divw (fld w 20 6) (fld w 14 6) (fld w 8 6) (fld w 4 4))
  | 11 => .ok (.divnw (fld w 20 6) (fld w 14 6) (fld w 8 6) (fld w 4 4))
  | _ => .error .function

/-- Major LOOP (OP 0x14, Table 2-9). -/
def decLoop (w : Nat) : Except DecodeErr Instr :=
  match fld w 0 8 with
  | 1 => .ok (.loopC (fld w 20 6) (fld w 14 6) (fld w 8 6))
  | 2 => if fld w 10 4 = 0 then .ok (.loopM (fld w 20 6) (fld w 14 6) (fld w 8 2)) else .error .zField
  | 3 => if fld w 20 6 = 0 ∧ fld w 8 6 = 0 then .ok (.lbrk (fld w 14 6)) else .error .zField
  | 4 => if fld w 14 6 = 0 then if fld w 8 6 ≤ 5 then .ok (.lctx (fld w 20 6) (fld w 8 6)) else .error .subfield else .error .zField
  | _ => .error .function

/-- Major RANGE (OP 0x19, Table 2-9). -/
def decRange (w : Nat) : Except DecodeErr Instr :=
  match fld w 0 8 with
  | 1 => if fld w 22 4 = 0 then if fld w 20 2 ≤ 1 then .ok (.wbR (fld w 20 2) (fld w 14 6) (fld w 8 6)) else .error .subfield else .error .zField
  | 2 => if fld w 22 4 = 0 then if fld w 20 2 ≤ 1 then .ok (.invR (fld w 20 2) (fld w 14 6) (fld w 8 6)) else .error .subfield else .error .zField
  | 3 => if fld w 22 4 = 0 then if fld w 20 2 ≤ 1 then .ok (.wbinvR (fld w 20 2) (fld w 14 6) (fld w 8 6)) else .error .subfield else .error .zField
  | 4 => if fld w 22 4 = 0 then if fld w 20 2 ≤ 1 then .ok (.iinvR (fld w 20 2) (fld w 14 6) (fld w 8 6)) else .error .subfield else .error .zField
  | 5 => if fld w 8 18 = 0 then .ok .fetchb else .error .zField
  | 6 => if fld w 22 4 = 0 then if fld w 20 2 ≤ 1 then .ok (.pfr (fld w 20 2) (fld w 14 6) (fld w 8 6)) else .error .subfield else .error .zField
  | _ => .error .function

/-- Major SBUF (OP 0x1a, Table 2-9). -/
def decSbuf (w : Nat) : Except DecodeErr Instr :=
  match fld w 0 4 with
  | 1 => if fld w 20 6 = 0 ∧ fld w 4 10 = 0 then .ok (.sbreplay (fld w 14 6)) else .error .zField
  | 2 => if fld w 20 6 = 0 ∧ fld w 4 10 = 0 then .ok (.sbdrop (fld w 14 6)) else .error .zField
  | 3 => if fld w 8 6 = 0 then .ok (.sbstat (fld w 20 6) (fld w 14 6) (fld w 4 4)) else .error .zField
  | _ => .error .function

/-- Major AMO.W (OP 0x1b, Table 2-9). -/
def decAmow (w : Nat) : Except DecodeErr Instr :=
  match fld w 4 4 with
  | 1 => .ok (.amoWSwap (fld w 20 6) (fld w 14 6) (fld w 8 6) (fld w 2 2) (fld w 0 2))
  | 2 => .ok (.amoWAdd (fld w 20 6) (fld w 14 6) (fld w 8 6) (fld w 2 2) (fld w 0 2))
  | 3 => .ok (.amoWAnd (fld w 20 6) (fld w 14 6) (fld w 8 6) (fld w 2 2) (fld w 0 2))
  | 4 => .ok (.amoWOr (fld w 20 6) (fld w 14 6) (fld w 8 6) (fld w 2 2) (fld w 0 2))
  | 5 => .ok (.amoWXor (fld w 20 6) (fld w 14 6) (fld w 8 6) (fld w 2 2) (fld w 0 2))
  | 6 => .ok (.amoWMin (fld w 20 6) (fld w 14 6) (fld w 8 6) (fld w 2 2) (fld w 0 2))
  | 7 => .ok (.amoWMax (fld w 20 6) (fld w 14 6) (fld w 8 6) (fld w 2 2) (fld w 0 2))
  | 8 => .ok (.amoWMinn (fld w 20 6) (fld w 14 6) (fld w 8 6) (fld w 2 2) (fld w 0 2))
  | 9 => .ok (.amoWMaxn (fld w 20 6) (fld w 14 6) (fld w 8 6) (fld w 2 2) (fld w 0 2))
  | 10 => .ok (.amoWCas (fld w 20 6) (fld w 14 6) (fld w 8 6) (fld w 2 2) (fld w 0 2))
  | _ => .error .function

/-- Major AMO.D (OP 0x1c, Table 2-9). -/
def decAmod (w : Nat) : Except DecodeErr Instr :=
  match fld w 4 4 with
  | 1 => .ok (.amoDSwap (fld w 20 6) (fld w 14 6) (fld w 8 6) (fld w 2 2) (fld w 0 2))
  | 2 => .ok (.amoDAdd (fld w 20 6) (fld w 14 6) (fld w 8 6) (fld w 2 2) (fld w 0 2))
  | 3 => .ok (.amoDAnd (fld w 20 6) (fld w 14 6) (fld w 8 6) (fld w 2 2) (fld w 0 2))
  | 4 => .ok (.amoDOr (fld w 20 6) (fld w 14 6) (fld w 8 6) (fld w 2 2) (fld w 0 2))
  | 5 => .ok (.amoDXor (fld w 20 6) (fld w 14 6) (fld w 8 6) (fld w 2 2) (fld w 0 2))
  | 6 => .ok (.amoDMin (fld w 20 6) (fld w 14 6) (fld w 8 6) (fld w 2 2) (fld w 0 2))
  | 7 => .ok (.amoDMax (fld w 20 6) (fld w 14 6) (fld w 8 6) (fld w 2 2) (fld w 0 2))
  | 8 => .ok (.amoDMinn (fld w 20 6) (fld w 14 6) (fld w 8 6) (fld w 2 2) (fld w 0 2))
  | 9 => .ok (.amoDMaxn (fld w 20 6) (fld w 14 6) (fld w 8 6) (fld w 2 2) (fld w 0 2))
  | 10 => .ok (.amoDCas (fld w 20 6) (fld w 14 6) (fld w 8 6) (fld w 2 2) (fld w 0 2))
  | _ => .error .function

/-- Major UPD (OP 0x1d, Table 2-9). -/
def decUpd (w : Nat) : Except DecodeErr Instr :=
  match fld w 0 8 with
  | 1 => if fld w 21 5 = 0 then .ok (.updAdd (fld w 20 1) (fld w 14 6) (fld w 8 6)) else .error .zField
  | 2 => if fld w 21 5 = 0 then .ok (.updAnd (fld w 20 1) (fld w 14 6) (fld w 8 6)) else .error .zField
  | 3 => if fld w 21 5 = 0 then .ok (.updOr (fld w 20 1) (fld w 14 6) (fld w 8 6)) else .error .zField
  | 4 => if fld w 21 5 = 0 then .ok (.updXor (fld w 20 1) (fld w 14 6) (fld w 8 6)) else .error .zField
  | 5 => if fld w 21 5 = 0 then .ok (.updMin (fld w 20 1) (fld w 14 6) (fld w 8 6)) else .error .zField
  | 6 => if fld w 21 5 = 0 then .ok (.updMax (fld w 20 1) (fld w 14 6) (fld w 8 6)) else .error .zField
  | 7 => if fld w 20 6 = 0 then .ok (.updFadd (fld w 14 6) (fld w 8 6)) else .error .zField
  | 8 => if fld w 20 6 = 0 then .ok (.updFmin (fld w 14 6) (fld w 8 6)) else .error .zField
  | 9 => if fld w 20 6 = 0 then .ok (.updFmax (fld w 14 6) (fld w 8 6)) else .error .zField
  | 10 => if fld w 8 18 = 0 then .ok .updFlush else .error .zField
  | _ => .error .function

/-- Major FENCE (OP 0x1e, Table 2-9). -/
def decFence (w : Nat) : Except DecodeErr Instr :=
  match fld w 6 2 with
  | 1 => if fld w 8 18 = 0 ∧ fld w 0 1 = 0 then if fld w 3 3 ≤ 4 then .ok (.fence (fld w 3 3) (fld w 1 2)) else .error .subfield else .error .zField
  | 2 => if fld w 0 2 = 0 then .ok (.tlwait (fld w 20 6) (fld w 14 6) (fld w 8 6) (fld w 2 4)) else .error .zField
  | 3 => if fld w 8 6 = 0 ∧ fld w 0 6 = 0 then .ok (.tlrd (fld w 20 6) (fld w 14 6)) else .error .zField
  | _ => .error .function

/-- Major MSG (OP 0x1f, Table 2-9). -/
def decMsg (w : Nat) : Except DecodeErr Instr :=
  match fld w 0 8 with
  | 1 => if fld w 20 6 = 0 then .ok (.send (fld w 14 6) (fld w 8 6)) else .error .zField
  | 2 => if fld w 20 6 = 0 then .ok (.sendw (fld w 14 6) (fld w 8 6)) else .error .zField
  | 3 => if fld w 14 6 = 0 then if fld w 8 6 ≤ 3 then .ok (.recv (fld w 20 6) (fld w 8 6)) else .error .subfield else .error .zField
  | 4 => if fld w 14 6 = 0 then if fld w 8 6 ≤ 3 then .ok (.rpoll (fld w 20 6) (fld w 8 6)) else .error .subfield else .error .zField
  | 5 => if fld w 14 12 = 0 then if fld w 8 6 ≤ 3 then .ok (.radv (fld w 8 6)) else .error .subfield else .error .zField
  | 6 => if fld w 20 6 = 0 then .ok (.dep (fld w 14 6) (fld w 8 6)) else .error .zField
  | _ => .error .function

/-- Major TICK (OP 0x20, Table 2-9). -/
def decTick (w : Nat) : Except DecodeErr Instr :=
  match fld w 0 8 with
  | 1 => if fld w 14 6 = 0 then if fld w 8 6 ≤ 2 then .ok (.tkrd (fld w 20 6) (fld w 8 6)) else .error .subfield else .error .zField
  | 2 => if fld w 8 6 = 0 then .ok (.tkal (fld w 20 6) (fld w 14 6)) else .error .zField
  | 3 => if fld w 8 18 = 0 then .ok .sync else .error .zField
  | 4 => if fld w 8 18 = 0 then .ok .gsync else .error .zField
  | _ => .error .function

/-- Major TASK (OP 0x21, Table 2-9). -/
def decTask (w : Nat) : Except DecodeErr Instr :=
  match fld w 0 8 with
  | 1 => if fld w 8 18 = 0 then .ok .rdone else .error .zField
  | 2 => if fld w 20 6 = 0 then .ok (.tpost (fld w 14 6) (fld w 8 6)) else .error .zField
  | 3 => if fld w 20 6 = 0 then .ok (.tinc (fld w 14 6) (fld w 8 6)) else .error .zField
  | _ => .error .function

/-- Major VFA (OP 0x22, Table 2-9). -/
def decVfa (w : Nat) : Except DecodeErr Instr :=
  match fld w 5 3 with
  | 0 => .ok (.vfadd (fld w 20 6) (fld w 14 6) (fld w 8 6) (fld w 2 3) (fld w 0 2))
  | 1 => .ok (.vfsub (fld w 20 6) (fld w 14 6) (fld w 8 6) (fld w 2 3) (fld w 0 2))
  | 2 => .ok (.vfmul (fld w 20 6) (fld w 14 6) (fld w 8 6) (fld w 2 3) (fld w 0 2))
  | 3 => .ok (.vfmin (fld w 20 6) (fld w 14 6) (fld w 8 6) (fld w 2 3) (fld w 0 2))
  | 4 => .ok (.vfmax (fld w 20 6) (fld w 14 6) (fld w 8 6) (fld w 2 3) (fld w 0 2))
  | 5 => .ok (.vfcsgn (fld w 20 6) (fld w 14 6) (fld w 8 6) (fld w 2 3) (fld w 0 2))
  | 6 => if fld w 8 6 = 0 then .ok (.vfabs (fld w 20 6) (fld w 14 6) (fld w 2 3) (fld w 0 2)) else .error .zField
  | 7 => if fld w 8 6 = 0 then .ok (.vfneg (fld w 20 6) (fld w 14 6) (fld w 2 3) (fld w 0 2)) else .error .zField
  | _ => .error .function

/-- Major VFB (OP 0x23, Table 2-9). -/
def decVfb (w : Nat) : Except DecodeErr Instr :=
  match fld w 5 3 with
  | 0 => .ok (.vfma (fld w 20 6) (fld w 14 6) (fld w 8 6) (fld w 2 3) (fld w 0 2))
  | 1 => .ok (.vfms (fld w 20 6) (fld w 14 6) (fld w 8 6) (fld w 2 3) (fld w 0 2))
  | 2 => .ok (.vfnma (fld w 20 6) (fld w 14 6) (fld w 8 6) (fld w 2 3) (fld w 0 2))
  | 3 => .ok (.vfnms (fld w 20 6) (fld w 14 6) (fld w 8 6) (fld w 2 3) (fld w 0 2))
  | 4 => .ok (.vfdiv (fld w 20 6) (fld w 14 6) (fld w 8 6) (fld w 2 3) (fld w 0 2))
  | 5 => if fld w 8 6 = 0 then .ok (.vfsqrt (fld w 20 6) (fld w 14 6) (fld w 2 3) (fld w 0 2)) else .error .zField
  | 6 => if fld w 8 6 = 0 then .ok (.vfclass (fld w 20 6) (fld w 14 6) (fld w 2 3) (fld w 0 2)) else .error .zField
  | _ => .error .function

/-- Major VIA (OP 0x24, Table 2-9). -/
def decVia (w : Nat) : Except DecodeErr Instr :=
  match fld w 5 3 with
  | 0 => .ok (.vadd (fld w 20 6) (fld w 14 6) (fld w 8 6) (fld w 2 3) (fld w 0 2))
  | 1 => .ok (.vsub (fld w 20 6) (fld w 14 6) (fld w 8 6) (fld w 2 3) (fld w 0 2))
  | 2 => .ok (.vmul (fld w 20 6) (fld w 14 6) (fld w 8 6) (fld w 2 3) (fld w 0 2))
  | 3 => .ok (.vmulh (fld w 20 6) (fld w 14 6) (fld w 8 6) (fld w 2 3) (fld w 0 2))
  | 4 => .ok (.vmin (fld w 20 6) (fld w 14 6) (fld w 8 6) (fld w 2 3) (fld w 0 2))
  | 5 => .ok (.vmax (fld w 20 6) (fld w 14 6) (fld w 8 6) (fld w 2 3) (fld w 0 2))
  | 6 => .ok (.vminn (fld w 20 6) (fld w 14 6) (fld w 8 6) (fld w 2 3) (fld w 0 2))
  | 7 => .ok (.vmaxn (fld w 20 6) (fld w 14 6) (fld w 8 6) (fld w 2 3) (fld w 0 2))
  | _ => .error .function

/-- Major VIB (OP 0x25, Table 2-9). -/
def decVib (w : Nat) : Except DecodeErr Instr :=
  match fld w 5 3 with
  | 0 => .ok (.vand (fld w 20 6) (fld w 14 6) (fld w 8 6) (fld w 2 3) (fld w 0 2))
  | 1 => .ok (.vor (fld w 20 6) (fld w 14 6) (fld w 8 6) (fld w 2 3) (fld w 0 2))
  | 2 => .ok (.vxor (fld w 20 6) (fld w 14 6) (fld w 8 6) (fld w 2 3) (fld w 0 2))
  | 3 => .ok (.vsll (fld w 20 6) (fld w 14 6) (fld w 8 6) (fld w 2 3) (fld w 0 2))
  | 4 => .ok (.vsrl (fld w 20 6) (fld w 14 6) (fld w 8 6) (fld w 2 3) (fld w 0 2))
  | 5 => .ok (.vsra (fld w 20 6) (fld w 14 6) (fld w 8 6) (fld w 2 3) (fld w 0 2))
  | 6 => if fld w 8 6 = 0 then .ok (.vabs (fld w 20 6) (fld w 14 6) (fld w 2 3) (fld w 0 2)) else .error .zField
  | 7 => .ok (.vsel (fld w 20 6) (fld w 14 6) (fld w 8 6) (fld w 2 3) (fld w 0 2))
  | _ => .error .function

/-- Major VCMP (OP 0x26, Table 2-9). -/
def decVcmp (w : Nat) : Except DecodeErr Instr :=
  match fld w 5 3 with
  | 0 => .ok (.vfeq (fld w 20 6) (fld w 14 6) (fld w 8 6) (fld w 2 3) (fld w 0 2))
  | 1 => .ok (.vflt (fld w 20 6) (fld w 14 6) (fld w 8 6) (fld w 2 3) (fld w 0 2))
  | 2 => .ok (.vfle (fld w 20 6) (fld w 14 6) (fld w 8 6) (fld w 2 3) (fld w 0 2))
  | 3 => .ok (.vfun (fld w 20 6) (fld w 14 6) (fld w 8 6) (fld w 2 3) (fld w 0 2))
  | 4 => .ok (.veq (fld w 20 6) (fld w 14 6) (fld w 8 6) (fld w 2 3) (fld w 0 2))
  | 5 => .ok (.vlt (fld w 20 6) (fld w 14 6) (fld w 8 6) (fld w 2 3) (fld w 0 2))
  | 6 => .ok (.vltn (fld w 20 6) (fld w 14 6) (fld w 8 6) (fld w 2 3) (fld w 0 2))
  | 7 => .ok (.vle (fld w 20 6) (fld w 14 6) (fld w 8 6) (fld w 2 3) (fld w 0 2))
  | _ => .error .function

/-- Major VMSK (OP 0x27, Table 2-9). -/
def decVmsk (w : Nat) : Except DecodeErr Instr :=
  match fld w 5 3 with
  | 0 => .ok (.mand (fld w 20 6) (fld w 14 6) (fld w 8 6) (fld w 2 3) (fld w 0 2))
  | 1 => .ok (.mor (fld w 20 6) (fld w 14 6) (fld w 8 6) (fld w 2 3) (fld w 0 2))
  | 2 => .ok (.mxor (fld w 20 6) (fld w 14 6) (fld w 8 6) (fld w 2 3) (fld w 0 2))
  | 3 => if fld w 8 6 = 0 then .ok (.mnot (fld w 20 6) (fld w 14 6) (fld w 2 3) (fld w 0 2)) else .error .zField
  | 4 => if fld w 8 6 = 0 then .ok (.mpop (fld w 20 6) (fld w 14 6) (fld w 2 3) (fld w 0 2)) else .error .zField
  | 5 => if fld w 8 6 = 0 then .ok (.mfirst (fld w 20 6) (fld w 14 6) (fld w 2 3) (fld w 0 2)) else .error .zField
  | 6 => if fld w 8 6 = 0 then .ok (.msetl (fld w 20 6) (fld w 14 6) (fld w 2 3) (fld w 0 2)) else .error .zField
  | 7 => if fld w 8 6 = 0 then .ok (.mmovMm (fld w 20 6) (fld w 14 6) (fld w 2 3) (fld w 0 2))
    else if fld w 8 6 = 1 then .ok (.mmovXm (fld w 20 6) (fld w 14 6) (fld w 2 3) (fld w 0 2))
    else if fld w 8 6 = 2 then .ok (.mmovMx (fld w 20 6) (fld w 14 6) (fld w 2 3) (fld w 0 2))
    else .error .subfield
  | _ => .error .function

/-- Major VRED (OP 0x28, Table 2-9). -/
def decVred (w : Nat) : Except DecodeErr Instr :=
  match fld w 5 3 with
  | 0 => if fld w 8 6 = 0 then .ok (.vfsum (fld w 20 6) (fld w 14 6) (fld w 2 3) (fld w 0 2)) else .error .zField
  | 1 => if fld w 8 6 = 0 then .ok (.vfrmax (fld w 20 6) (fld w 14 6) (fld w 2 3) (fld w 0 2)) else .error .zField
  | 2 => if fld w 8 6 = 0 then .ok (.vfrmin (fld w 20 6) (fld w 14 6) (fld w 2 3) (fld w 0 2)) else .error .zField
  | 3 => if fld w 8 6 = 0 then .ok (.vrsum (fld w 20 6) (fld w 14 6) (fld w 2 3) (fld w 0 2)) else .error .zField
  | 4 => if fld w 8 6 = 0 then .ok (.vrmax (fld w 20 6) (fld w 14 6) (fld w 2 3) (fld w 0 2)) else .error .zField
  | 5 => if fld w 8 6 = 0 then .ok (.vrmin (fld w 20 6) (fld w 14 6) (fld w 2 3) (fld w 0 2)) else .error .zField
  | 6 => if fld w 8 6 = 0 then .ok (.vrand (fld w 20 6) (fld w 14 6) (fld w 2 3) (fld w 0 2)) else .error .zField
  | 7 => if fld w 8 6 = 0 then .ok (.vror (fld w 20 6) (fld w 14 6) (fld w 2 3) (fld w 0 2)) else .error .zField
  | _ => .error .function

/-- Major VPERM (OP 0x29, Table 2-9). -/
def decVperm (w : Nat) : Except DecodeErr Instr :=
  match fld w 5 3 with
  | 0 => if fld w 8 6 = 0 then .ok (.vsplat (fld w 20 6) (fld w 14 6) (fld w 2 3) (fld w 0 2)) else .error .zField
  | 1 => .ok (.vslu (fld w 20 6) (fld w 14 6) (fld w 8 6) (fld w 2 3) (fld w 0 2))
  | 2 => .ok (.vsld (fld w 20 6) (fld w 14 6) (fld w 8 6) (fld w 2 3) (fld w 0 2))
  | 3 => .ok (.vperm (fld w 20 6) (fld w 14 6) (fld w 8 6) (fld w 2 3) (fld w 0 2))
  | 4 => .ok (.vext (fld w 20 6) (fld w 14 6) (fld w 8 6) (fld w 2 3) (fld w 0 2))
  | 5 => .ok (.vins (fld w 20 6) (fld w 14 6) (fld w 8 6) (fld w 2 3) (fld w 0 2))
  | 6 => .ok (.vzip (fld w 20 6) (fld w 14 6) (fld w 8 6) (fld w 2 3) (fld w 0 2))
  | 7 => .ok (.vunzip (fld w 20 6) (fld w 14 6) (fld w 8 6) (fld w 2 3) (fld w 0 2))
  | _ => .error .function

/-- Major VSFU (OP 0x2a, Table 2-9). -/
def decVsfu (w : Nat) : Except DecodeErr Instr :=
  match fld w 5 3 with
  | 0 => if fld w 8 6 = 0 then .ok (.vrcp (fld w 20 6) (fld w 14 6) (fld w 2 3) (fld w 0 2)) else .error .zField
  | 1 => if fld w 8 6 = 0 then .ok (.vrsq (fld w 20 6) (fld w 14 6) (fld w 2 3) (fld w 0 2)) else .error .zField
  | 2 => if fld w 8 6 = 0 then .ok (.vex2 (fld w 20 6) (fld w 14 6) (fld w 2 3) (fld w 0 2)) else .error .zField
  | 3 => if fld w 8 6 = 0 then .ok (.vlg2 (fld w 20 6) (fld w 14 6) (fld w 2 3) (fld w 0 2)) else .error .zField
  | 4 => if fld w 8 6 = 0 then .ok (.vtanh (fld w 20 6) (fld w 14 6) (fld w 2 3) (fld w 0 2)) else .error .zField
  | _ => .error .function

/-- Major VGS (OP 0x2d, Table 2-9). -/
def decVgs (w : Nat) : Except DecodeErr Instr :=
  match fld w 0 1 with
  | 0 => .ok (.vgather (fld w 20 6) (fld w 14 6) (fld w 8 6) (fld w 4 4) (fld w 1 3))
  | 1 => if fld w 4 4 = 0 then .ok (.vscatter (fld w 20 6) (fld w 14 6) (fld w 8 6) (fld w 1 3)) else .error .zField
  | _ => .error .function

/-- Major VCVT (OP 0x2e, Table 2-9). -/
def decVcvt (w : Nat) : Except DecodeErr Instr :=
  match fld w 5 3 with
  | 0 => if fld w 8 6 = 0 then .ok (.vcvt (fld w 20 6) (fld w 14 6) (fld w 2 3) (fld w 0 2)) else .error .zField
  | 1 => .ok (.vpack (fld w 20 6) (fld w 14 6) (fld w 8 6) (fld w 2 3) (fld w 0 2))
  | 2 => if fld w 8 6 ≤ 1 then .ok (.vunpk (fld w 20 6) (fld w 14 6) (fld w 8 6) (fld w 2 3) (fld w 0 2)) else .error .subfield
  | _ => .error .function

/-- Major VQNT (OP 0x2f, Table 2-9). -/
def decVqnt (w : Nat) : Except DecodeErr Instr :=
  match fld w 5 3 with
  | 0 => .ok (.vqnt (fld w 20 6) (fld w 14 6) (fld w 8 6) (fld w 2 3) (fld w 0 2))
  | 1 => .ok (.vdqt (fld w 20 6) (fld w 14 6) (fld w 8 6) (fld w 2 3) (fld w 0 2))
  | 2 => if fld w 8 6 = 0 then .ok (.vrotFwd (fld w 20 6) (fld w 14 6) (fld w 2 3) (fld w 0 2))
    else if fld w 8 6 = 1 then .ok (.vrotInv (fld w 20 6) (fld w 14 6) (fld w 2 3) (fld w 0 2))
    else .error .subfield
  | 3 => if fld w 8 6 = 0 then .ok (.vscl (fld w 20 6) (fld w 14 6) (fld w 2 3) (fld w 0 2)) else .error .zField
  | _ => .error .function

/-- Major MLD (OP 0x31, Table 2-9). -/
def decMld (w : Nat) : Except DecodeErr Instr :=
  match fld w 0 8 with
  | 1 => if fld w 14 6 = 0 ∨ fld w 20 6 = 0 then .ok (.mld (fld w 20 6) (fld w 14 6) (fld w 8 6)) else .error .zField
  | 17 => if fld w 14 6 ≠ 0 ∧ fld w 20 6 = 0 then .ok (.mldT (fld w 20 6) (fld w 14 6) (fld w 8 6)) else .error .zField
  | 2 => if fld w 8 18 = 0 then .ok .mswap else .error .zField
  | _ => .error .function

/-- Major MMAC (OP 0x32, Table 2-9). -/
def decMmac (w : Nat) : Except DecodeErr Instr :=
  match fld w 0 8 with
  | 1 => .ok (.mmac (fld w 20 6) (fld w 14 6) (fld w 8 6))
  | 2 => .ok (.mmacz (fld w 20 6) (fld w 14 6) (fld w 8 6))
  | _ => .error .function

/-- Major MACC (OP 0x33, Table 2-9). -/
def decMacc (w : Nat) : Except DecodeErr Instr :=
  match fld w 0 4 with
  | 1 => if fld w 4 4 = 0 then .ok (.mst (fld w 20 6) (fld w 14 6) (fld w 8 6)) else .error .zField
  | 2 => .ok (.mrd (fld w 20 6) (fld w 14 6) (fld w 8 6) (fld w 4 4))
  | 3 => if fld w 4 4 = 0 then .ok (.mwr (fld w 20 6) (fld w 14 6) (fld w 8 6)) else .error .zField
  | 4 => if fld w 14 6 = 0 ∧ fld w 4 4 = 0 then .ok (.mzero (fld w 20 6) (fld w 8 6)) else .error .zField
  | _ => .error .function

/-- Major ENG (OP 0x34, Table 2-9). -/
def decEng (w : Nat) : Except DecodeErr Instr :=
  match fld w 0 8 with
  | 1 => .ok (.ecpy (fld w 20 6) (fld w 14 6) (fld w 8 6))
  | 2 => .ok (.ecpy2 (fld w 20 6) (fld w 14 6) (fld w 8 6))
  | 3 => .ok (.estrm (fld w 20 6) (fld w 14 6) (fld w 8 6))
  | 4 => .ok (.enode (fld w 20 6) (fld w 14 6) (fld w 8 6))
  | _ => .error .function

/-- Major CSR (OP 0x35, Table 2-9). -/
def decCsr (w : Nat) : Except DecodeErr Instr :=
  match fld w 12 2 with
  | 0 => if fld w 14 6 = 0 ∧ fld w 10 2 = 0 then if csrAssigned (fld w 0 10) = true then .ok (.csrr (fld w 20 6) (fld w 0 10)) else .error .csrNumber else .error .zField
  | 1 => if fld w 20 6 = 0 ∧ fld w 10 2 = 0 then if csrAssigned (fld w 0 10) = true ∧ csrReadOnly (fld w 0 10) = false then .ok (.csrw (fld w 14 6) (fld w 0 10)) else .error .csrNumber else .error .zField
  | 2 => if fld w 20 6 = 0 ∧ fld w 10 2 = 0 then if csrAssigned (fld w 0 10) = true ∧ csrReadOnly (fld w 0 10) = false then .ok (.csrs (fld w 14 6) (fld w 0 10)) else .error .csrNumber else .error .zField
  | 3 => if fld w 20 6 = 0 ∧ fld w 10 2 = 0 then if csrAssigned (fld w 0 10) = true ∧ csrReadOnly (fld w 0 10) = false then .ok (.csrc (fld w 14 6) (fld w 0 10)) else .error .csrNumber else .error .zField
  | _ => .error .function

/-- Major TRAP (OP 0x36, Table 2-9). -/
def decTrap (w : Nat) : Except DecodeErr Instr :=
  match fld w 0 8 with
  | 1 => if fld w 20 6 = 0 then .ok (.trap (fld w 14 6) (fld w 8 6)) else .error .zField
  | 2 => if fld w 8 18 = 0 then .ok .tret else .error .zField
  | 3 => if fld w 8 18 = 0 then .ok .uret else .error .zField
  | 4 => if fld w 8 18 = 0 then .ok .wfi else .error .zField
  | 5 => if fld w 8 18 = 0 then .ok .halt else .error .zField
  | 6 => if fld w 20 6 = 0 ∧ fld w 8 6 = 0 then .ok (.frz (fld w 14 6)) else .error .zField
  | 7 => if fld w 20 6 = 0 then .ok (.brk (fld w 14 6) (fld w 8 6)) else .error .zField
  | 8 => if fld w 20 6 = 0 then .ok (.mark (fld w 14 6) (fld w 8 6)) else .error .zField
  | _ => .error .function

/-- Major TAINT (OP 0x37, Table 2-9). -/
def decTaint (w : Nat) : Except DecodeErr Instr :=
  match fld w 0 8 with
  | 1 => if fld w 8 6 ≤ 2 ∧ (fld w 8 6 = 2 ∨ fld w 14 6 = 0) then .ok (.tntRd (fld w 20 6) (fld w 14 6) (fld w 8 6)) else .error .subfield
  | 2 => if fld w 20 6 = 0 then if fld w 8 6 ≤ 1 then .ok (.tntSet (fld w 14 6) (fld w 8 6)) else .error .subfield else .error .zField
  | 3 => if fld w 20 6 = 0 then if fld w 8 6 ≤ 1 then .ok (.tntClr (fld w 14 6) (fld w 8 6)) else .error .subfield else .error .zField
  | 4 => if fld w 20 6 = 0 then if fld w 8 6 ≤ 1 then .ok (.tntChk (fld w 14 6) (fld w 8 6)) else .error .subfield else .error .zField
  | _ => .error .function

/-- The instruction that a 32-bit word encodes, or the reason it encodes none (R41, R49, R60). Register
classes, folds and types are not part of it: those faults follow at issue, in the order of R50. -/
def decode (w : Nat) : Except DecodeErr Instr :=
  match fld w 26 6 with
  | 0 => decAlu w
  | 1 => .ok (.addi (fld w 20 6) (fld w 14 6) (fld w 0 14))
  | 2 => .ok (.andi (fld w 20 6) (fld w 14 6) (fld w 0 14))
  | 3 => .ok (.ori (fld w 20 6) (fld w 14 6) (fld w 0 14))
  | 4 => .ok (.xori (fld w 20 6) (fld w 14 6) (fld w 0 14))
  | 5 => .ok (.slti (fld w 20 6) (fld w 14 6) (fld w 0 14))
  | 6 => .ok (.sltni (fld w 20 6) (fld w 14 6) (fld w 0 14))
  | 7 => .ok (.addiw (fld w 20 6) (fld w 14 6) (fld w 0 14))
  | 8 => decShi w
  | 9 => .ok (.lui (fld w 20 6) (fld w 0 20))
  | 10 => .ok (.adpc (fld w 20 6) (fld w 0 20))
  | 11 => decMuldiv w
  | 12 => .ok (.beq (fld w 20 6) (fld w 14 6) (fld w 0 14))
  | 13 => .ok (.bne (fld w 20 6) (fld w 14 6) (fld w 0 14))
  | 14 => .ok (.blt (fld w 20 6) (fld w 14 6) (fld w 0 14))
  | 15 => .ok (.bge (fld w 20 6) (fld w 14 6) (fld w 0 14))
  | 16 => .ok (.bltn (fld w 20 6) (fld w 14 6) (fld w 0 14))
  | 17 => .ok (.bgen (fld w 20 6) (fld w 14 6) (fld w 0 14))
  | 18 => .ok (.jal (fld w 20 6) (fld w 0 20))
  | 19 => .ok (.jalr (fld w 20 6) (fld w 14 6) (fld w 0 14))
  | 20 => decLoop w
  | 21 => if fld w 7 3 < 7 then .ok (.ld (fld w 20 6) (fld w 14 6) (fld w 10 4) (fld w 7 3) (fld w 0 7)) else .error .size
  | 22 => if fld w 1 3 < 7 then .ok (.ldx (fld w 20 6) (fld w 14 6) (fld w 8 6) (fld w 4 4) (fld w 1 3) (fld w 0 1)) else .error .size
  | 23 => .ok (.st (fld w 20 6) (fld w 14 6) (fld w 12 2) (fld w 0 12))
  | 24 => if fld w 0 4 = 0 then .ok (.stx (fld w 20 6) (fld w 14 6) (fld w 8 6) (fld w 6 2) (fld w 4 2)) else .error .zField
  | 25 => decRange w
  | 26 => decSbuf w
  | 27 => decAmow w
  | 28 => decAmod w
  | 29 => decUpd w
  | 30 => decFence w
  | 31 => decMsg w
  | 32 => decTick w
  | 33 => decTask w
  | 34 => decVfa w
  | 35 => decVfb w
  | 36 => decVia w
  | 37 => decVib w
  | 38 => decVcmp w
  | 39 => decVmsk w
  | 40 => decVred w
  | 41 => decVperm w
  | 42 => decVsfu w
  | 43 => .ok (.vld (fld w 20 6) (fld w 14 6) (fld w 8 6) (fld w 4 4) (fld w 1 3) (fld w 0 1))
  | 44 => if fld w 0 2 = 0 then .ok (.vst (fld w 20 6) (fld w 14 6) (fld w 8 6) (fld w 5 3) (fld w 3 2) (fld w 2 1)) else .error .zField
  | 45 => decVgs w
  | 46 => decVcvt w
  | 47 => decVqnt w
  | 48 => if fld w 0 7 = 0 then .ok (.pfx (fld w 22 4) (fld w 18 4) (fld w 14 4) (fld w 10 4) (fld w 8 2) (fld w 7 1)) else .error .zField
  | 49 => decMld w
  | 50 => decMmac w
  | 51 => decMacc w
  | 52 => decEng w
  | 53 => decCsr w
  | 54 => decTrap w
  | 55 => decTaint w
  | _ => .error .major

/-- A route word's fields hold assigned values (Tables 6-4 and 6-5, R175): no source code 7, the listen
fields 0 where LEN is 0, no two moves into one core in-queue, the latch not both a source and a listen target. -/
def routeOk (n e s w c l b q t : Nat) : Bool :=
  (n < 7 && e < 7 && s < 7 && w < 7) && t ≤ 4 &&
  (l = 1 || (b = 0 && q = 0 && t = 0)) &&
  !(l = 1 && t = 0 && (n = 6 || e = 6 || s = 6 || w = 6)) &&
  !(t ≠ 0 && c / 2 ^ (4 - t) % 2 = 1)

/-- A rep word's source codes are assigned (R177). -/
def repOk (n e s w : Nat) : Bool := n < 7 && e < 7 && s < 7 && w < 7

/-- The route word of a switch that a 32-bit word encodes (R173 to R184). That a target lies within the
loaded program is checked with the program (R173). -/
def decodeRoute (w : Nat) : Except DecodeErr Instr :=
  match fld w 28 4 with
  | 1 =>
    if fld w 0 2 = 0 then
      if routeOk (fld w 25 3) (fld w 22 3) (fld w 19 3) (fld w 16 3) (fld w 12 4) (fld w 11 1) (fld w 10 1)
          (fld w 5 5) (fld w 2 3) = true then
        .ok (.route (fld w 25 3) (fld w 22 3) (fld w 19 3) (fld w 16 3) (fld w 12 4) (fld w 11 1) (fld w 10 1)
          (fld w 5 5) (fld w 2 3))
      else .error .source
    else .error .zField
  | 2 =>
    if repOk (fld w 25 3) (fld w 22 3) (fld w 19 3) (fld w 16 3) = true then
      .ok (.rep (fld w 25 3) (fld w 22 3) (fld w 19 3) (fld w 16 3) (fld w 12 4) (fld w 0 12))
    else .error .source
  | 3 =>
    if fld w 16 2 = 0 then
      if fld w 23 5 + fld w 18 5 + 1 ≤ 32 then .ok (.ring (fld w 23 5) (fld w 18 5) (fld w 0 16))
      else .error .target
    else .error .zField
  | 4 => if fld w 11 17 = 0 then .ok (.jmp (fld w 0 11)) else .error .zField
  | 5 => if fld w 11 15 = 0 then .ok (.bnz (fld w 26 2) (fld w 0 11)) else .error .zField
  | 6 => if fld w 16 10 = 0 then .ok (.setc (fld w 26 2) (fld w 0 16)) else .error .zField
  | 7 => if fld w 16 11 = 0 then .ok (.tkwt (fld w 27 1) (fld w 0 16)) else .error .zField
  | 8 =>
    if fld w 12 6 = 0 then
      if 1 ≤ fld w 18 4 ∧ fld w 18 4 ≤ 9 then .ok (.bus (fld w 27 1) (fld w 22 5) (fld w 18 4) (fld w 0 12))
      else .error .source
    else .error .zField
  | 9 => if fld w 0 28 = 0 then .ok .switchHalt else .error .zField
  | 10 => if fld w 0 28 = 0 then .ok .nop else .error .zField
  | _ => .error .major

/-- The word of the four bytes that stand at an instruction address, lowest first (R6, R39). -/
def wordOfBytes : List Byte → Nat
  | [] => 0
  | b :: bs => b.toNat + 256 * wordOfBytes bs

/-- The four bytes of a word, lowest first. -/
def bytesOfWord (w : Nat) : List Byte :=
  [BitVec.ofNat 8 w, BitVec.ofNat 8 (w / 256), BitVec.ofNat 8 (w / 65536), BitVec.ofNat 8 (w / 16777216)]

/-- The Gomas instruction in the first four of any bytes. -/
def decodeBytes (bs : List Byte) : Except DecodeErr Instr := decode (wordOfBytes (bs.take 4))

/-- The word that encodes a well-formed instruction: the fixed bits of its row and its fields at their places.
A step of the hardware, the control complex or the host has no word. -/
def encode (i : Instr) : Option Nat :=
  match i with
  | .add d a b => some (1 + d * 1048576 + a * 16384 + b * 256)
  | .sub d a b => some (2 + d * 1048576 + a * 16384 + b * 256)
  | .and d a b => some (3 + d * 1048576 + a * 16384 + b * 256)
  | .or d a b => some (4 + d * 1048576 + a * 16384 + b * 256)
  | .xor d a b => some (5 + d * 1048576 + a * 16384 + b * 256)
  | .andn d a b => some (6 + d * 1048576 + a * 16384 + b * 256)
  | .orn d a b => some (7 + d * 1048576 + a * 16384 + b * 256)
  | .sll d a b => some (8 + d * 1048576 + a * 16384 + b * 256)
  | .srl d a b => some (9 + d * 1048576 + a * 16384 + b * 256)
  | .sra d a b => some (10 + d * 1048576 + a * 16384 + b * 256)
  | .slt d a b => some (11 + d * 1048576 + a * 16384 + b * 256)
  | .sltn d a b => some (12 + d * 1048576 + a * 16384 + b * 256)
  | .min d a b => some (13 + d * 1048576 + a * 16384 + b * 256)
  | .max d a b => some (14 + d * 1048576 + a * 16384 + b * 256)
  | .minn d a b => some (15 + d * 1048576 + a * 16384 + b * 256)
  | .maxn d a b => some (16 + d * 1048576 + a * 16384 + b * 256)
  | .clz d a => some (17 + d * 1048576 + a * 16384)
  | .ctz d a => some (18 + d * 1048576 + a * 16384)
  | .popc d a => some (19 + d * 1048576 + a * 16384)
  | .bswap d a => some (20 + d * 1048576 + a * 16384)
  | .addw d a b => some (21 + d * 1048576 + a * 16384 + b * 256)
  | .subw d a b => some (22 + d * 1048576 + a * 16384 + b * 256)
  | .sllw d a b => some (23 + d * 1048576 + a * 16384 + b * 256)
  | .srlw d a b => some (24 + d * 1048576 + a * 16384 + b * 256)
  | .sraw d a b => some (25 + d * 1048576 + a * 16384 + b * 256)
  | .czero d a b => some (26 + d * 1048576 + a * 16384 + b * 256)
  | .addi d a i => some (67108864 + d * 1048576 + a * 16384 + i)
  | .andi d a i => some (134217728 + d * 1048576 + a * 16384 + i)
  | .ori d a i => some (201326592 + d * 1048576 + a * 16384 + i)
  | .xori d a i => some (268435456 + d * 1048576 + a * 16384 + i)
  | .slti d a i => some (335544320 + d * 1048576 + a * 16384 + i)
  | .sltni d a i => some (402653184 + d * 1048576 + a * 16384 + i)
  | .addiw d a i => some (469762048 + d * 1048576 + a * 16384 + i)
  | .slli d a s => some (536875008 + d * 1048576 + a * 16384 + s)
  | .srli d a s => some (536879104 + d * 1048576 + a * 16384 + s)
  | .srai d a s => some (536883200 + d * 1048576 + a * 16384 + s)
  | .lui d i => some (603979776 + d * 1048576 + i)
  | .adpc d i => some (671088640 + d * 1048576 + i)
  | .mul d a b l => some (738197505 + d * 1048576 + a * 16384 + b * 256 + l * 16)
  | .mulh d a b l => some (738197506 + d * 1048576 + a * 16384 + b * 256 + l * 16)
  | .mulhn d a b l => some (738197507 + d * 1048576 + a * 16384 + b * 256 + l * 16)
  | .mulhsn d a b l => some (738197508 + d * 1048576 + a * 16384 + b * 256 + l * 16)
  | .div d a b l => some (738197509 + d * 1048576 + a * 16384 + b * 256 + l * 16)
  | .divn d a b l => some (738197510 + d * 1048576 + a * 16384 + b * 256 + l * 16)
  | .rem d a b l => some (738197511 + d * 1048576 + a * 16384 + b * 256 + l * 16)
  | .remn d a b l => some (738197512 + d * 1048576 + a * 16384 + b * 256 + l * 16)
  | .mulw d a b l => some (738197513 + d * 1048576 + a * 16384 + b * 256 + l * 16)
  | .divw d a b l => some (738197514 + d * 1048576 + a * 16384 + b * 256 + l * 16)
  | .divnw d a b l => some (738197515 + d * 1048576 + a * 16384 + b * 256 + l * 16)
  | .beq a b o => some (805306368 + a * 1048576 + b * 16384 + o)
  | .bne a b o => some (872415232 + a * 1048576 + b * 16384 + o)
  | .blt a b o => some (939524096 + a * 1048576 + b * 16384 + o)
  | .bge a b o => some (1006632960 + a * 1048576 + b * 16384 + o)
  | .bltn a b o => some (1073741824 + a * 1048576 + b * 16384 + o)
  | .bgen a b o => some (1140850688 + a * 1048576 + b * 16384 + o)
  | .jal d o => some (1207959552 + d * 1048576 + o)
  | .jalr d a i => some (1275068416 + d * 1048576 + a * 16384 + i)
  | .loopC h a l => some (1342177281 + h * 1048576 + a * 16384 + l * 256)
  | .loopM i a s => some (1342177282 + i * 1048576 + a * 16384 + s * 256)
  | .lbrk a => some (1342177283 + a * 16384)
  | .lctx d s => some (1342177284 + d * 1048576 + s * 256)
  | .ld d a l z i => some (1409286144 + d * 1048576 + a * 16384 + l * 1024 + z * 128 + i)
  | .ldx d a b l z h => some (1476395008 + d * 1048576 + a * 16384 + b * 256 + l * 16 + z * 2 + h)
  | .st s a z i => some (1543503872 + s * 1048576 + a * 16384 + z * 4096 + i)
  | .stx s a b z h => some (1610612736 + s * 1048576 + a * 16384 + b * 256 + z * 64 + h * 16)
  | .wbR v a b => some (1677721601 + v * 1048576 + a * 16384 + b * 256)
  | .invR v a b => some (1677721602 + v * 1048576 + a * 16384 + b * 256)
  | .wbinvR v a b => some (1677721603 + v * 1048576 + a * 16384 + b * 256)
  | .iinvR v a b => some (1677721604 + v * 1048576 + a * 16384 + b * 256)
  | .fetchb => some (1677721605)
  | .pfr v a b => some (1677721606 + v * 1048576 + a * 16384 + b * 256)
  | .sbreplay a => some (1744830465 + a * 16384)
  | .sbdrop a => some (1744830466 + a * 16384)
  | .sbstat d a l => some (1744830467 + d * 1048576 + a * 16384 + l * 16)
  | .amoWSwap d a b o s => some (1811939344 + d * 1048576 + a * 16384 + b * 256 + o * 4 + s)
  | .amoWAdd d a b o s => some (1811939360 + d * 1048576 + a * 16384 + b * 256 + o * 4 + s)
  | .amoWAnd d a b o s => some (1811939376 + d * 1048576 + a * 16384 + b * 256 + o * 4 + s)
  | .amoWOr d a b o s => some (1811939392 + d * 1048576 + a * 16384 + b * 256 + o * 4 + s)
  | .amoWXor d a b o s => some (1811939408 + d * 1048576 + a * 16384 + b * 256 + o * 4 + s)
  | .amoWMin d a b o s => some (1811939424 + d * 1048576 + a * 16384 + b * 256 + o * 4 + s)
  | .amoWMax d a b o s => some (1811939440 + d * 1048576 + a * 16384 + b * 256 + o * 4 + s)
  | .amoWMinn d a b o s => some (1811939456 + d * 1048576 + a * 16384 + b * 256 + o * 4 + s)
  | .amoWMaxn d a b o s => some (1811939472 + d * 1048576 + a * 16384 + b * 256 + o * 4 + s)
  | .amoWCas d a b o s => some (1811939488 + d * 1048576 + a * 16384 + b * 256 + o * 4 + s)
  | .amoDSwap d a b o s => some (1879048208 + d * 1048576 + a * 16384 + b * 256 + o * 4 + s)
  | .amoDAdd d a b o s => some (1879048224 + d * 1048576 + a * 16384 + b * 256 + o * 4 + s)
  | .amoDAnd d a b o s => some (1879048240 + d * 1048576 + a * 16384 + b * 256 + o * 4 + s)
  | .amoDOr d a b o s => some (1879048256 + d * 1048576 + a * 16384 + b * 256 + o * 4 + s)
  | .amoDXor d a b o s => some (1879048272 + d * 1048576 + a * 16384 + b * 256 + o * 4 + s)
  | .amoDMin d a b o s => some (1879048288 + d * 1048576 + a * 16384 + b * 256 + o * 4 + s)
  | .amoDMax d a b o s => some (1879048304 + d * 1048576 + a * 16384 + b * 256 + o * 4 + s)
  | .amoDMinn d a b o s => some (1879048320 + d * 1048576 + a * 16384 + b * 256 + o * 4 + s)
  | .amoDMaxn d a b o s => some (1879048336 + d * 1048576 + a * 16384 + b * 256 + o * 4 + s)
  | .amoDCas d a b o s => some (1879048352 + d * 1048576 + a * 16384 + b * 256 + o * 4 + s)
  | .updAdd w a b => some (1946157057 + w * 1048576 + a * 16384 + b * 256)
  | .updAnd w a b => some (1946157058 + w * 1048576 + a * 16384 + b * 256)
  | .updOr w a b => some (1946157059 + w * 1048576 + a * 16384 + b * 256)
  | .updXor w a b => some (1946157060 + w * 1048576 + a * 16384 + b * 256)
  | .updMin w a b => some (1946157061 + w * 1048576 + a * 16384 + b * 256)
  | .updMax w a b => some (1946157062 + w * 1048576 + a * 16384 + b * 256)
  | .updFadd a b => some (1946157063 + a * 16384 + b * 256)
  | .updFmin a b => some (1946157064 + a * 16384 + b * 256)
  | .updFmax a b => some (1946157065 + a * 16384 + b * 256)
  | .updFlush => some (1946157066)
  | .fence s k => some (2013265984 + s * 8 + k * 2)
  | .tlwait d a b l => some (2013266048 + d * 1048576 + a * 16384 + b * 256 + l * 4)
  | .tlrd d a => some (2013266112 + d * 1048576 + a * 16384)
  | .tntRd d a s => some (3690987521 + d * 1048576 + a * 16384 + s * 256)
  | .tntSet a s => some (3690987522 + a * 16384 + s * 256)
  | .tntClr a s => some (3690987523 + a * 16384 + s * 256)
  | .tntChk a s => some (3690987524 + a * 16384 + s * 256)
  | .send a b => some (2080374785 + a * 16384 + b * 256)
  | .sendw a b => some (2080374786 + a * 16384 + b * 256)
  | .recv d g => some (2080374787 + d * 1048576 + g * 256)
  | .rpoll d g => some (2080374788 + d * 1048576 + g * 256)
  | .radv g => some (2080374789 + g * 256)
  | .dep a b => some (2080374790 + a * 16384 + b * 256)
  | .tkrd d s => some (2147483649 + d * 1048576 + s * 256)
  | .tkal d a => some (2147483650 + d * 1048576 + a * 16384)
  | .sync => some (2147483651)
  | .gsync => some (2147483652)
  | .rdone => some (2214592513)
  | .tpost a b => some (2214592514 + a * 16384 + b * 256)
  | .tinc a b => some (2214592515 + a * 16384 + b * 256)
  | .vfadd d a b n m => some (2281701376 + d * 1048576 + a * 16384 + b * 256 + n * 4 + m)
  | .vfsub d a b n m => some (2281701408 + d * 1048576 + a * 16384 + b * 256 + n * 4 + m)
  | .vfmul d a b n m => some (2281701440 + d * 1048576 + a * 16384 + b * 256 + n * 4 + m)
  | .vfmin d a b n m => some (2281701472 + d * 1048576 + a * 16384 + b * 256 + n * 4 + m)
  | .vfmax d a b n m => some (2281701504 + d * 1048576 + a * 16384 + b * 256 + n * 4 + m)
  | .vfcsgn d a b n m => some (2281701536 + d * 1048576 + a * 16384 + b * 256 + n * 4 + m)
  | .vfabs d a n m => some (2281701568 + d * 1048576 + a * 16384 + n * 4 + m)
  | .vfneg d a n m => some (2281701600 + d * 1048576 + a * 16384 + n * 4 + m)
  | .vfma d a b n m => some (2348810240 + d * 1048576 + a * 16384 + b * 256 + n * 4 + m)
  | .vfms d a b n m => some (2348810272 + d * 1048576 + a * 16384 + b * 256 + n * 4 + m)
  | .vfnma d a b n m => some (2348810304 + d * 1048576 + a * 16384 + b * 256 + n * 4 + m)
  | .vfnms d a b n m => some (2348810336 + d * 1048576 + a * 16384 + b * 256 + n * 4 + m)
  | .vfdiv d a b n m => some (2348810368 + d * 1048576 + a * 16384 + b * 256 + n * 4 + m)
  | .vfsqrt d a n m => some (2348810400 + d * 1048576 + a * 16384 + n * 4 + m)
  | .vfclass d a n m => some (2348810432 + d * 1048576 + a * 16384 + n * 4 + m)
  | .vadd d a b n m => some (2415919104 + d * 1048576 + a * 16384 + b * 256 + n * 4 + m)
  | .vsub d a b n m => some (2415919136 + d * 1048576 + a * 16384 + b * 256 + n * 4 + m)
  | .vmul d a b n m => some (2415919168 + d * 1048576 + a * 16384 + b * 256 + n * 4 + m)
  | .vmulh d a b n m => some (2415919200 + d * 1048576 + a * 16384 + b * 256 + n * 4 + m)
  | .vmin d a b n m => some (2415919232 + d * 1048576 + a * 16384 + b * 256 + n * 4 + m)
  | .vmax d a b n m => some (2415919264 + d * 1048576 + a * 16384 + b * 256 + n * 4 + m)
  | .vminn d a b n m => some (2415919296 + d * 1048576 + a * 16384 + b * 256 + n * 4 + m)
  | .vmaxn d a b n m => some (2415919328 + d * 1048576 + a * 16384 + b * 256 + n * 4 + m)
  | .vand d a b n m => some (2483027968 + d * 1048576 + a * 16384 + b * 256 + n * 4 + m)
  | .vor d a b n m => some (2483028000 + d * 1048576 + a * 16384 + b * 256 + n * 4 + m)
  | .vxor d a b n m => some (2483028032 + d * 1048576 + a * 16384 + b * 256 + n * 4 + m)
  | .vsll d a b n m => some (2483028064 + d * 1048576 + a * 16384 + b * 256 + n * 4 + m)
  | .vsrl d a b n m => some (2483028096 + d * 1048576 + a * 16384 + b * 256 + n * 4 + m)
  | .vsra d a b n m => some (2483028128 + d * 1048576 + a * 16384 + b * 256 + n * 4 + m)
  | .vabs d a n m => some (2483028160 + d * 1048576 + a * 16384 + n * 4 + m)
  | .vsel d a b n m => some (2483028192 + d * 1048576 + a * 16384 + b * 256 + n * 4 + m)
  | .vfeq d a b n m => some (2550136832 + d * 1048576 + a * 16384 + b * 256 + n * 4 + m)
  | .vflt d a b n m => some (2550136864 + d * 1048576 + a * 16384 + b * 256 + n * 4 + m)
  | .vfle d a b n m => some (2550136896 + d * 1048576 + a * 16384 + b * 256 + n * 4 + m)
  | .vfun d a b n m => some (2550136928 + d * 1048576 + a * 16384 + b * 256 + n * 4 + m)
  | .veq d a b n m => some (2550136960 + d * 1048576 + a * 16384 + b * 256 + n * 4 + m)
  | .vlt d a b n m => some (2550136992 + d * 1048576 + a * 16384 + b * 256 + n * 4 + m)
  | .vltn d a b n m => some (2550137024 + d * 1048576 + a * 16384 + b * 256 + n * 4 + m)
  | .vle d a b n m => some (2550137056 + d * 1048576 + a * 16384 + b * 256 + n * 4 + m)
  | .mand d a b n m => some (2617245696 + d * 1048576 + a * 16384 + b * 256 + n * 4 + m)
  | .mor d a b n m => some (2617245728 + d * 1048576 + a * 16384 + b * 256 + n * 4 + m)
  | .mxor d a b n m => some (2617245760 + d * 1048576 + a * 16384 + b * 256 + n * 4 + m)
  | .mnot d a n m => some (2617245792 + d * 1048576 + a * 16384 + n * 4 + m)
  | .mpop d a n m => some (2617245824 + d * 1048576 + a * 16384 + n * 4 + m)
  | .mfirst d a n m => some (2617245856 + d * 1048576 + a * 16384 + n * 4 + m)
  | .msetl d a n m => some (2617245888 + d * 1048576 + a * 16384 + n * 4 + m)
  | .mmovMm d a n m => some (2617245920 + d * 1048576 + a * 16384 + n * 4 + m)
  | .mmovXm d a n m => some (2617246176 + d * 1048576 + a * 16384 + n * 4 + m)
  | .mmovMx d a n m => some (2617246432 + d * 1048576 + a * 16384 + n * 4 + m)
  | .vfsum d a n m => some (2684354560 + d * 1048576 + a * 16384 + n * 4 + m)
  | .vfrmax d a n m => some (2684354592 + d * 1048576 + a * 16384 + n * 4 + m)
  | .vfrmin d a n m => some (2684354624 + d * 1048576 + a * 16384 + n * 4 + m)
  | .vrsum d a n m => some (2684354656 + d * 1048576 + a * 16384 + n * 4 + m)
  | .vrmax d a n m => some (2684354688 + d * 1048576 + a * 16384 + n * 4 + m)
  | .vrmin d a n m => some (2684354720 + d * 1048576 + a * 16384 + n * 4 + m)
  | .vrand d a n m => some (2684354752 + d * 1048576 + a * 16384 + n * 4 + m)
  | .vror d a n m => some (2684354784 + d * 1048576 + a * 16384 + n * 4 + m)
  | .vsplat d a n m => some (2751463424 + d * 1048576 + a * 16384 + n * 4 + m)
  | .vslu d a b n m => some (2751463456 + d * 1048576 + a * 16384 + b * 256 + n * 4 + m)
  | .vsld d a b n m => some (2751463488 + d * 1048576 + a * 16384 + b * 256 + n * 4 + m)
  | .vperm d a b n m => some (2751463520 + d * 1048576 + a * 16384 + b * 256 + n * 4 + m)
  | .vext d a b n m => some (2751463552 + d * 1048576 + a * 16384 + b * 256 + n * 4 + m)
  | .vins d a b n m => some (2751463584 + d * 1048576 + a * 16384 + b * 256 + n * 4 + m)
  | .vzip d a b n m => some (2751463616 + d * 1048576 + a * 16384 + b * 256 + n * 4 + m)
  | .vunzip d a b n m => some (2751463648 + d * 1048576 + a * 16384 + b * 256 + n * 4 + m)
  | .vrcp d a n m => some (2818572288 + d * 1048576 + a * 16384 + n * 4 + m)
  | .vrsq d a n m => some (2818572320 + d * 1048576 + a * 16384 + n * 4 + m)
  | .vex2 d a n m => some (2818572352 + d * 1048576 + a * 16384 + n * 4 + m)
  | .vlg2 d a n m => some (2818572384 + d * 1048576 + a * 16384 + n * 4 + m)
  | .vtanh d a n m => some (2818572416 + d * 1048576 + a * 16384 + n * 4 + m)
  | .vld d a b l n h => some (2885681152 + d * 1048576 + a * 16384 + b * 256 + l * 16 + n * 2 + h)
  | .vst s a b n m h => some (2952790016 + s * 1048576 + a * 16384 + b * 256 + n * 32 + m * 8 + h * 4)
  | .vgather d a b l n => some (3019898880 + d * 1048576 + a * 16384 + b * 256 + l * 16 + n * 2)
  | .vscatter s a b n => some (3019898881 + s * 1048576 + a * 16384 + b * 256 + n * 2)
  | .vcvt d a n m => some (3087007744 + d * 1048576 + a * 16384 + n * 4 + m)
  | .vpack d a b n m => some (3087007776 + d * 1048576 + a * 16384 + b * 256 + n * 4 + m)
  | .vunpk d a h n m => some (3087007808 + d * 1048576 + a * 16384 + h * 256 + n * 4 + m)
  | .vqnt d a b n m => some (3154116608 + d * 1048576 + a * 16384 + b * 256 + n * 4 + m)
  | .vdqt d a b n m => some (3154116640 + d * 1048576 + a * 16384 + b * 256 + n * 4 + m)
  | .vrotFwd d a n m => some (3154116672 + d * 1048576 + a * 16384 + n * 4 + m)
  | .vrotInv d a n m => some (3154116928 + d * 1048576 + a * 16384 + n * 4 + m)
  | .vscl d a n m => some (3154116704 + d * 1048576 + a * 16384 + n * 4 + m)
  | .pfx d a b t r s => some (3221225472 + d * 4194304 + a * 262144 + b * 16384 + t * 1024 + r * 256 + s * 128)
  | .mld d a b => some (3288334337 + d * 1048576 + a * 16384 + b * 256)
  | .mldT d a b => some (3288334353 + d * 1048576 + a * 16384 + b * 256)
  | .mswap => some (3288334338)
  | .mmac d a b => some (3355443201 + d * 1048576 + a * 16384 + b * 256)
  | .mmacz d a b => some (3355443202 + d * 1048576 + a * 16384 + b * 256)
  | .mst d a b => some (3422552065 + d * 1048576 + a * 16384 + b * 256)
  | .mrd d a b l => some (3422552066 + d * 1048576 + a * 16384 + b * 256 + l * 16)
  | .mwr d a b => some (3422552067 + d * 1048576 + a * 16384 + b * 256)
  | .mzero d b => some (3422552068 + d * 1048576 + b * 256)
  | .ecpy d a b => some (3489660929 + d * 1048576 + a * 16384 + b * 256)
  | .ecpy2 d a b => some (3489660930 + d * 1048576 + a * 16384 + b * 256)
  | .estrm d a b => some (3489660931 + d * 1048576 + a * 16384 + b * 256)
  | .enode d a b => some (3489660932 + d * 1048576 + a * 16384 + b * 256)
  | .csrr d n => some (3556769792 + d * 1048576 + n)
  | .csrw a n => some (3556773888 + a * 16384 + n)
  | .csrs a n => some (3556777984 + a * 16384 + n)
  | .csrc a n => some (3556782080 + a * 16384 + n)
  | .trap h l => some (3623878657 + h * 16384 + l * 256)
  | .tret => some (3623878658)
  | .uret => some (3623878659)
  | .wfi => some (3623878660)
  | .halt => some (3623878661)
  | .frz a => some (3623878662 + a * 16384)
  | .brk h l => some (3623878663 + h * 16384 + l * 256)
  | .mark a c => some (3623878664 + a * 16384 + c * 256)
  | .route n e s w c l b q t => some (268435456 + n * 33554432 + e * 4194304 + s * 524288 + w * 65536 + c * 4096 + l * 2048 + b * 1024 + q * 32 + t * 4)
  | .rep n e s w c k => some (536870912 + n * 33554432 + e * 4194304 + s * 524288 + w * 65536 + c * 4096 + k)
  | .ring f i p => some (805306368 + f * 8388608 + i * 262144 + p)
  | .jmp t => some (1073741824 + t)
  | .bnz c t => some (1342177280 + c * 67108864 + t)
  | .setc c v => some (1610612736 + c * 67108864 + v)
  | .tkwt b v => some (1879048192 + b * 134217728 + v)
  | .bus b s r k => some (2147483648 + b * 134217728 + s * 4194304 + r * 262144 + k)
  | .switchHalt => some (2415919104)
  | .nop => some (2684354560)
  | .atomicComplete _ _ => none
  | .updateMerge _ => none
  | .recvWake _ _ => none
  | .tkalRelease _ _ => none
  | .routineStart _ => none
  | .mldExec _ => none
  | .mswapExec _ => none
  | .mmacExec _ => none
  | .mmaczExec _ => none
  | .mstExec _ => none
  | .mrdExec _ => none
  | .mwrExec _ => none
  | .mzeroExec _ => none
  | .tokenPass _ => none
  | .burstEnd _ => none
  | .ecpyExec _ _ => none
  | .ecpy2Exec _ _ => none
  | .estrmExec _ _ => none
  | .nodeFire _ _ _ => none
  | .engineCommandComplete _ _ => none
  | .hashdomWrite _ _ => none
  | .hashdomWriteComplete _ => none
  | .rehomeReply _ => none
  | .asidon => none
  | .asidoff => none
  | .map => none
  | .mapreq => none
  | .unmap => none
  | .migrate => none
  | .query => none
  | .presp => none
  | .wfiWake _ _ => none
  | .longLatencyLanding _ _ _ => none
  | .commitPoint _ _ => none
  | .storeConfirm _ _ => none
  | .storeEntryFault _ _ => none
  | .raceCheckReply _ _ => none
  | .l2Fill _ => none
  | .retryReissue _ => none
  | .walk _ => none
  | .pageRequestRecordWrite _ _ => none
  | .migrationCopyLine _ _ _ => none
  | .remoteStoreLand _ => none
  | .sendArrive _ => none
  | .sendwArrive _ => none
  | .depositArrive _ => none
  | .msgAck _ => none
  | .interruptPacketArrive _ => none
  | .interruptTake _ _ => none
  | .scWindowResolve _ => none
  | .firstBarrierComplete _ => none
  | .exchangeEntrySend _ => none
  | .exchangeWriteLand _ => none
  | .secondBarrierComplete _ => none
  | .bankSwap _ => none
  | .groupBarrierComplete _ _ => none
  | .fpxCollection _ _ => none
  | .wdog _ => none
  | .throughLaneForward _ _ => none
  | .edgeFlitArrive _ => none
  | .holdArrive _ => none
  | .tickUpdateSend _ => none
  | .tickUpdateArrive _ => none
  | .register _ => none
  | .unregister _ => none
  | .launch _ => none
  | .makeReady _ => none
  | .stop _ => none
  | .preempt _ => none
  | .contextSave _ => none
  | .resume _ => none
  | .kill _ => none
  | .copy _ => none
  | .mapcmd _ => none
  | .nopRecord _ => none
  | .intr _ => none
  | .hqtailWrite _ _ => none
  | .recordFetch _ => none
  | .recordAccept _ => none
  | .tailwordPoll _ => none
  | .queueEnable _ _ => none
  | .queueDestroy _ => none
  | .attgo => none
  | .barRegisterWrite _ _ => none
  | .traceFrameWrite _ => none
  | .functionLevelReset => none
  | .powerOn => none
  | .clusterRamp _ => none
  | .thermalThrottle _ => none
  | .throttleClear _ => none
  | .thermalFatal _ => none
  | .uncorrectableError _ => none
  | .scrub _ => none
  | .linkDown _ => none
  | .localTick _ => none
  | .eventRecordWrite => none
  | .rangeOperationComplete _ _ => none
  | .tlrdReply _ _ => none
  | .taintLineReadReply _ _ => none
  | .rollbackCounterRaise _ => none

/-- The instruction of a word numbered as the opcode table numbers its bits: a Gomas word where the word
encodes one, else a route word. Gomas and route words live in different stores and share bit patterns, so a
pattern that is both is read as the Gomas word. -/
def decodeTableWord (nbits w : Nat) : Option Instr :=
  match decodeBytes (bytesOfWord (w % 2 ^ nbits)) with
  | .ok i => some i
  | .error _ =>
    match decodeRoute (wordOfBytes (bytesOfWord (w % 2 ^ nbits))) with
    | .ok i => some i
    | .error _ => none

end Sys2Proof
end

