-- ==== Sys2Proof/Machine/Operands.lean ====
section
/-! DEFINITION. The operand forms of every instruction: the class of each register field (Tables 2-4, 3-1, 8-2
and the encoding tables of each chapter), its fold, mask and prefix fields, and the decode faults of R50. -/

namespace Sys2Proof.Machine

/-- An operand class of Table 2-4 and whether the field is read or written. -/
inductive OpClass where
  | xs | xd | xmS | xmD | vs | vd | vmS | vmD | mkS | mkD | acS | acD
deriving DecidableEq, Repr

/-- The numbers a class admits (Table 2-4). -/
def OpClass.admits (c : OpClass) (n : Nat) : Bool :=
  match c with
  | .xs => n < 32 || (41 ≤ n && n ≤ 44) || (49 ≤ n && n ≤ 52)
  | .xd => n < 32 || (45 ≤ n && n ≤ 48)
  | .xmS | .xmD => n < 32
  | .vs => n ≤ 44
  | .vd => n < 40 || (45 ≤ n && n ≤ 48)
  | .vmS | .vmD => n < 40
  | .mkS | .mkD | .acS | .acD => n < 8

/-- Which prefix fields an instruction reads (Tables 8-6, 9-11 and 10-7, R252, R264, R308). -/
inductive PfxUse where
  | empty | vf | vfclass | vi | vsfu | vfsum | vredF | vredI | vcvt | vpack | vunpk
  | vscl | vqnt | vdqt | vrot | mld (acc : Bool) | mswap | mmac
deriving DecidableEq, Repr

/-- The operand form of an instruction. -/
structure Shape where
  ops : List (OpClass × Nat)
  pfx : Option PfxUse := none
  /-- FOLD; mrd, which has none, writes eight beats (R313) -/
  fold : Option Nat := none
  msk : Nat := 0
  /-- a nonzero MSK raises VLEN (R260, R263, R285) -/
  noMask : Bool := false
  /-- a VL- or VS-format instruction (R56) -/
  memV : Bool := false
  priv : Bool := false
  isPfx : Bool := false
deriving DecidableEq, Repr

/-- The operand form of each Gomas instruction. Other steps have no operand fields. -/
def instrShape (i : Instr) : Shape :=
  match i with
  | .add d a b => { ops := [(.xd, d), (.xs, a), (.xs, b)] }
  | .sub d a b => { ops := [(.xd, d), (.xs, a), (.xs, b)] }
  | .and d a b => { ops := [(.xd, d), (.xs, a), (.xs, b)] }
  | .or d a b => { ops := [(.xd, d), (.xs, a), (.xs, b)] }
  | .xor d a b => { ops := [(.xd, d), (.xs, a), (.xs, b)] }
  | .andn d a b => { ops := [(.xd, d), (.xs, a), (.xs, b)] }
  | .orn d a b => { ops := [(.xd, d), (.xs, a), (.xs, b)] }
  | .sll d a b => { ops := [(.xd, d), (.xs, a), (.xs, b)] }
  | .srl d a b => { ops := [(.xd, d), (.xs, a), (.xs, b)] }
  | .sra d a b => { ops := [(.xd, d), (.xs, a), (.xs, b)] }
  | .slt d a b => { ops := [(.xd, d), (.xs, a), (.xs, b)] }
  | .sltn d a b => { ops := [(.xd, d), (.xs, a), (.xs, b)] }
  | .min d a b => { ops := [(.xd, d), (.xs, a), (.xs, b)] }
  | .max d a b => { ops := [(.xd, d), (.xs, a), (.xs, b)] }
  | .minn d a b => { ops := [(.xd, d), (.xs, a), (.xs, b)] }
  | .maxn d a b => { ops := [(.xd, d), (.xs, a), (.xs, b)] }
  | .clz d a => { ops := [(.xd, d), (.xs, a)] }
  | .ctz d a => { ops := [(.xd, d), (.xs, a)] }
  | .popc d a => { ops := [(.xd, d), (.xs, a)] }
  | .bswap d a => { ops := [(.xd, d), (.xs, a)] }
  | .addw d a b => { ops := [(.xd, d), (.xs, a), (.xs, b)] }
  | .subw d a b => { ops := [(.xd, d), (.xs, a), (.xs, b)] }
  | .sllw d a b => { ops := [(.xd, d), (.xs, a), (.xs, b)] }
  | .srlw d a b => { ops := [(.xd, d), (.xs, a), (.xs, b)] }
  | .sraw d a b => { ops := [(.xd, d), (.xs, a), (.xs, b)] }
  | .czero d a b => { ops := [(.xd, d), (.xs, a), (.xs, b)] }
  | .addi d a _ => { ops := [(.xd, d), (.xs, a)] }
  | .andi d a _ => { ops := [(.xd, d), (.xs, a)] }
  | .ori d a _ => { ops := [(.xd, d), (.xs, a)] }
  | .xori d a _ => { ops := [(.xd, d), (.xs, a)] }
  | .slti d a _ => { ops := [(.xd, d), (.xs, a)] }
  | .sltni d a _ => { ops := [(.xd, d), (.xs, a)] }
  | .addiw d a _ => { ops := [(.xd, d), (.xs, a)] }
  | .slli d a _ => { ops := [(.xd, d), (.xs, a)] }
  | .srli d a _ => { ops := [(.xd, d), (.xs, a)] }
  | .srai d a _ => { ops := [(.xd, d), (.xs, a)] }
  | .lui d _ => { ops := [(.xd, d)] }
  | .adpc d _ => { ops := [(.xd, d)] }
  | .mul d a b _ => { ops := [(.xmD, d), (.xs, a), (.xs, b)] }
  | .mulh d a b _ => { ops := [(.xmD, d), (.xs, a), (.xs, b)] }
  | .mulhn d a b _ => { ops := [(.xmD, d), (.xs, a), (.xs, b)] }
  | .mulhsn d a b _ => { ops := [(.xmD, d), (.xs, a), (.xs, b)] }
  | .div d a b _ => { ops := [(.xmD, d), (.xs, a), (.xs, b)] }
  | .divn d a b _ => { ops := [(.xmD, d), (.xs, a), (.xs, b)] }
  | .rem d a b _ => { ops := [(.xmD, d), (.xs, a), (.xs, b)] }
  | .remn d a b _ => { ops := [(.xmD, d), (.xs, a), (.xs, b)] }
  | .mulw d a b _ => { ops := [(.xmD, d), (.xs, a), (.xs, b)] }
  | .divw d a b _ => { ops := [(.xmD, d), (.xs, a), (.xs, b)] }
  | .divnw d a b _ => { ops := [(.xmD, d), (.xs, a), (.xs, b)] }
  | .beq a b _ => { ops := [(.xs, a), (.xs, b)] }
  | .bne a b _ => { ops := [(.xs, a), (.xs, b)] }
  | .blt a b _ => { ops := [(.xs, a), (.xs, b)] }
  | .bge a b _ => { ops := [(.xs, a), (.xs, b)] }
  | .bltn a b _ => { ops := [(.xs, a), (.xs, b)] }
  | .bgen a b _ => { ops := [(.xs, a), (.xs, b)] }
  | .jal d _ => { ops := [(.xmD, d)] }
  | .jalr d a _ => { ops := [(.xmD, d), (.xmS, a)] }
  | .loopC _ a _ => { ops := [(.xmS, a)] }
  | .loopM _ a _ => { ops := [(.xmS, a)] }
  | .lbrk a => { ops := [(.xmS, a)] }
  | .lctx d _ => { ops := [(.xd, d)] }
  | .ld d a _ _ _ => { ops := [(.xmD, d), (.xmS, a)] }
  | .ldx d a b _ _ _ => { ops := [(.xmD, d), (.xmS, a), (.xmS, b)] }
  | .st s a _ _ => { ops := [(.xs, s), (.xmS, a)] }
  | .stx s a b _ _ => { ops := [(.xs, s), (.xmS, a), (.xmS, b)] }
  | .wbR _ a b => { ops := [(.xmS, a), (.xmS, b)] }
  | .invR _ a b => { ops := [(.xmS, a), (.xmS, b)] }
  | .wbinvR _ a b => { ops := [(.xmS, a), (.xmS, b)] }
  | .iinvR _ a b => { ops := [(.xmS, a), (.xmS, b)] }
  | .fetchb => { ops := [] }
  | .pfr _ a b => { ops := [(.xmS, a), (.xmS, b)] }
  | .sbreplay a => { ops := [(.xmS, a)] }
  | .sbdrop a => { ops := [(.xmS, a)] }
  | .sbstat d a _ => { ops := [(.xmD, d), (.xmS, a)] }
  | .amoWSwap d a b _ _ => { ops := [(.xmD, d), (.xmS, a), (.xs, b)] }
  | .amoWAdd d a b _ _ => { ops := [(.xmD, d), (.xmS, a), (.xs, b)] }
  | .amoWAnd d a b _ _ => { ops := [(.xmD, d), (.xmS, a), (.xs, b)] }
  | .amoWOr d a b _ _ => { ops := [(.xmD, d), (.xmS, a), (.xs, b)] }
  | .amoWXor d a b _ _ => { ops := [(.xmD, d), (.xmS, a), (.xs, b)] }
  | .amoWMin d a b _ _ => { ops := [(.xmD, d), (.xmS, a), (.xs, b)] }
  | .amoWMax d a b _ _ => { ops := [(.xmD, d), (.xmS, a), (.xs, b)] }
  | .amoWMinn d a b _ _ => { ops := [(.xmD, d), (.xmS, a), (.xs, b)] }
  | .amoWMaxn d a b _ _ => { ops := [(.xmD, d), (.xmS, a), (.xs, b)] }
  | .amoWCas d a b _ _ => { ops := [(.xmD, d), (.xmS, a), (.xs, b)] }
  | .amoDSwap d a b _ _ => { ops := [(.xmD, d), (.xmS, a), (.xs, b)] }
  | .amoDAdd d a b _ _ => { ops := [(.xmD, d), (.xmS, a), (.xs, b)] }
  | .amoDAnd d a b _ _ => { ops := [(.xmD, d), (.xmS, a), (.xs, b)] }
  | .amoDOr d a b _ _ => { ops := [(.xmD, d), (.xmS, a), (.xs, b)] }
  | .amoDXor d a b _ _ => { ops := [(.xmD, d), (.xmS, a), (.xs, b)] }
  | .amoDMin d a b _ _ => { ops := [(.xmD, d), (.xmS, a), (.xs, b)] }
  | .amoDMax d a b _ _ => { ops := [(.xmD, d), (.xmS, a), (.xs, b)] }
  | .amoDMinn d a b _ _ => { ops := [(.xmD, d), (.xmS, a), (.xs, b)] }
  | .amoDMaxn d a b _ _ => { ops := [(.xmD, d), (.xmS, a), (.xs, b)] }
  | .amoDCas d a b _ _ => { ops := [(.xmD, d), (.xmS, a), (.xs, b)] }
  | .updAdd _ a b => { ops := [(.xmS, a), (.xs, b)] }
  | .updAnd _ a b => { ops := [(.xmS, a), (.xs, b)] }
  | .updOr _ a b => { ops := [(.xmS, a), (.xs, b)] }
  | .updXor _ a b => { ops := [(.xmS, a), (.xs, b)] }
  | .updMin _ a b => { ops := [(.xmS, a), (.xs, b)] }
  | .updMax _ a b => { ops := [(.xmS, a), (.xs, b)] }
  | .updFadd a b => { ops := [(.xmS, a), (.xs, b)] }
  | .updFmin a b => { ops := [(.xmS, a), (.xs, b)] }
  | .updFmax a b => { ops := [(.xmS, a), (.xs, b)] }
  | .updFlush => { ops := [] }
  | .fence _ _ => { ops := [] }
  | .tlwait d a b _ => { ops := [(.xmD, d), (.xmS, a), (.xs, b)] }
  | .tlrd d a => { ops := [(.xmD, d), (.xmS, a)] }
  | .tntRd d a _ => { ops := [(.xmD, d), (.xmS, a)] }
  | .tntSet a _ => { ops := [(.xs, a)] }
  | .tntClr a _ => { ops := [(.xs, a)] }
  | .tntChk a _ => { ops := [(.xs, a)] }
  | .send a b => { ops := [(.xmS, a), (.xmS, b)] }
  | .sendw a b => { ops := [(.xmS, a), (.xmS, b)] }
  | .recv d _ => { ops := [(.xmD, d)] }
  | .rpoll d _ => { ops := [(.xmD, d)] }
  | .radv _ => { ops := [] }
  | .dep a b => { ops := [(.xmS, a), (.xs, b)] }
  | .tkrd d _ => { ops := [(.xd, d)] }
  | .tkal d a => { ops := [(.xmD, d), (.xs, a)] }
  | .sync => { ops := [] }
  | .gsync => { ops := [] }
  | .rdone => { ops := [] }
  | .tpost a b => { ops := [(.xmS, a), (.xmS, b)] }
  | .tinc a b => { ops := [(.xmS, a), (.xs, b)] }
  | .vfadd d a b n m => { ops := [(.vd, d), (.vs, a), (.vs, b)], pfx := some .vf, fold := some n, msk := m }
  | .vfsub d a b n m => { ops := [(.vd, d), (.vs, a), (.vs, b)], pfx := some .vf, fold := some n, msk := m }
  | .vfmul d a b n m => { ops := [(.vd, d), (.vs, a), (.vs, b)], pfx := some .vf, fold := some n, msk := m }
  | .vfmin d a b n m => { ops := [(.vd, d), (.vs, a), (.vs, b)], pfx := some .vf, fold := some n, msk := m }
  | .vfmax d a b n m => { ops := [(.vd, d), (.vs, a), (.vs, b)], pfx := some .vf, fold := some n, msk := m }
  | .vfcsgn d a b n m => { ops := [(.vd, d), (.vs, a), (.vs, b)], pfx := some .vf, fold := some n, msk := m }
  | .vfabs d a n m => { ops := [(.vd, d), (.vs, a)], pfx := some .vf, fold := some n, msk := m }
  | .vfneg d a n m => { ops := [(.vd, d), (.vs, a)], pfx := some .vf, fold := some n, msk := m }
  | .vfma d a b n m => { ops := [(.vmD, d), (.vs, a), (.vs, b)], pfx := some .vf, fold := some n, msk := m }
  | .vfms d a b n m => { ops := [(.vmD, d), (.vs, a), (.vs, b)], pfx := some .vf, fold := some n, msk := m }
  | .vfnma d a b n m => { ops := [(.vmD, d), (.vs, a), (.vs, b)], pfx := some .vf, fold := some n, msk := m }
  | .vfnms d a b n m => { ops := [(.vmD, d), (.vs, a), (.vs, b)], pfx := some .vf, fold := some n, msk := m }
  | .vfdiv d a b n m => { ops := [(.vd, d), (.vs, a), (.vs, b)], pfx := some .vf, fold := some n, msk := m }
  | .vfsqrt d a n m => { ops := [(.vd, d), (.vs, a)], pfx := some .vf, fold := some n, msk := m }
  | .vfclass d a n m => { ops := [(.vd, d), (.vs, a)], pfx := some .vfclass, fold := some n, msk := m }
  | .vadd d a b n m => { ops := [(.vd, d), (.vs, a), (.vs, b)], pfx := some .vi, fold := some n, msk := m }
  | .vsub d a b n m => { ops := [(.vd, d), (.vs, a), (.vs, b)], pfx := some .vi, fold := some n, msk := m }
  | .vmul d a b n m => { ops := [(.vd, d), (.vs, a), (.vs, b)], pfx := some .vi, fold := some n, msk := m }
  | .vmulh d a b n m => { ops := [(.vd, d), (.vs, a), (.vs, b)], pfx := some .vi, fold := some n, msk := m }
  | .vmin d a b n m => { ops := [(.vd, d), (.vs, a), (.vs, b)], pfx := some .vi, fold := some n, msk := m }
  | .vmax d a b n m => { ops := [(.vd, d), (.vs, a), (.vs, b)], pfx := some .vi, fold := some n, msk := m }
  | .vminn d a b n m => { ops := [(.vd, d), (.vs, a), (.vs, b)], pfx := some .vi, fold := some n, msk := m }
  | .vmaxn d a b n m => { ops := [(.vd, d), (.vs, a), (.vs, b)], pfx := some .vi, fold := some n, msk := m }
  | .vand d a b n m => { ops := [(.vd, d), (.vs, a), (.vs, b)], pfx := some .vi, fold := some n, msk := m }
  | .vor d a b n m => { ops := [(.vd, d), (.vs, a), (.vs, b)], pfx := some .vi, fold := some n, msk := m }
  | .vxor d a b n m => { ops := [(.vd, d), (.vs, a), (.vs, b)], pfx := some .vi, fold := some n, msk := m }
  | .vsll d a b n m => { ops := [(.vd, d), (.vs, a), (.vs, b)], pfx := some .vi, fold := some n, msk := m }
  | .vsrl d a b n m => { ops := [(.vd, d), (.vs, a), (.vs, b)], pfx := some .vi, fold := some n, msk := m }
  | .vsra d a b n m => { ops := [(.vd, d), (.vs, a), (.vs, b)], pfx := some .vi, fold := some n, msk := m }
  | .vabs d a n m => { ops := [(.vd, d), (.vs, a)], pfx := some .vi, fold := some n, msk := m }
  | .vsel d a b n m => { ops := [(.vd, d), (.vs, a), (.vs, b)], pfx := some .vi, fold := some n, msk := m }
  | .vfeq d a b n m => { ops := [(.mkD, d), (.vs, a), (.vs, b)], pfx := some .empty, fold := some n, msk := m }
  | .vflt d a b n m => { ops := [(.mkD, d), (.vs, a), (.vs, b)], pfx := some .empty, fold := some n, msk := m }
  | .vfle d a b n m => { ops := [(.mkD, d), (.vs, a), (.vs, b)], pfx := some .empty, fold := some n, msk := m }
  | .vfun d a b n m => { ops := [(.mkD, d), (.vs, a), (.vs, b)], pfx := some .empty, fold := some n, msk := m }
  | .veq d a b n m => { ops := [(.mkD, d), (.vs, a), (.vs, b)], pfx := some .empty, fold := some n, msk := m }
  | .vlt d a b n m => { ops := [(.mkD, d), (.vs, a), (.vs, b)], pfx := some .empty, fold := some n, msk := m }
  | .vltn d a b n m => { ops := [(.mkD, d), (.vs, a), (.vs, b)], pfx := some .empty, fold := some n, msk := m }
  | .vle d a b n m => { ops := [(.mkD, d), (.vs, a), (.vs, b)], pfx := some .empty, fold := some n, msk := m }
  | .mand d a b n m => { ops := [(.mkD, d), (.mkS, a), (.mkS, b)], fold := some n, msk := m, noMask := true }
  | .mor d a b n m => { ops := [(.mkD, d), (.mkS, a), (.mkS, b)], fold := some n, msk := m, noMask := true }
  | .mxor d a b n m => { ops := [(.mkD, d), (.mkS, a), (.mkS, b)], fold := some n, msk := m, noMask := true }
  | .mnot d a n m => { ops := [(.mkD, d), (.mkS, a)], fold := some n, msk := m, noMask := true }
  | .mpop d a n m => { ops := [(.xd, d), (.mkS, a)], fold := some n, msk := m, noMask := true }
  | .mfirst d a n m => { ops := [(.xd, d), (.mkS, a)], fold := some n, msk := m, noMask := true }
  | .msetl d a n m => { ops := [(.mkD, d), (.xs, a)], fold := some n, msk := m, noMask := true }
  | .mmovMm d a n m => { ops := [(.mkD, d), (.mkS, a)], fold := some n, msk := m, noMask := true }
  | .mmovXm d a n m => { ops := [(.mkD, d), (.xs, a)], fold := some n, msk := m, noMask := true }
  | .mmovMx d a n m => { ops := [(.xd, d), (.mkS, a)], fold := some n, msk := m, noMask := true }
  | .vfsum d a n m => { ops := [(.xd, d), (.vs, a)], pfx := some .vfsum, fold := some n, msk := m }
  | .vfrmax d a n m => { ops := [(.xd, d), (.vs, a)], pfx := some .vredF, fold := some n, msk := m }
  | .vfrmin d a n m => { ops := [(.xd, d), (.vs, a)], pfx := some .vredF, fold := some n, msk := m }
  | .vrsum d a n m => { ops := [(.xd, d), (.vs, a)], pfx := some .vredI, fold := some n, msk := m }
  | .vrmax d a n m => { ops := [(.xd, d), (.vs, a)], pfx := some .vredI, fold := some n, msk := m }
  | .vrmin d a n m => { ops := [(.xd, d), (.vs, a)], pfx := some .vredI, fold := some n, msk := m }
  | .vrand d a n m => { ops := [(.xd, d), (.vs, a)], pfx := some .vredI, fold := some n, msk := m }
  | .vror d a n m => { ops := [(.xd, d), (.vs, a)], pfx := some .vredI, fold := some n, msk := m }
  | .vsplat d a n m => { ops := [(.vd, d), (.xs, a)], pfx := some .empty, fold := some n, msk := m }
  | .vslu d a b n m => { ops := [(.vmD, d), (.vmS, a), (.xmS, b)], pfx := some .empty, fold := some n, msk := m }
  | .vsld d a b n m => { ops := [(.vmD, d), (.vmS, a), (.xmS, b)], pfx := some .empty, fold := some n, msk := m }
  | .vperm d a b n m => { ops := [(.vmD, d), (.vmS, a), (.vmS, b)], pfx := some .empty, fold := some n, msk := m }
  | .vext d a b n m => { ops := [(.xd, d), (.vmS, a), (.xmS, b)], pfx := some .empty, fold := some n, msk := m, noMask := true }
  | .vins d a b n m => { ops := [(.vmD, d), (.xs, a), (.xmS, b)], pfx := some .empty, fold := some n, msk := m }
  | .vzip d a b n m => { ops := [(.vmD, d), (.vmS, a), (.vmS, b)], pfx := some .empty, fold := some n, msk := m }
  | .vunzip d a b n m => { ops := [(.vmD, d), (.vmS, a), (.vmS, b)], pfx := some .empty, fold := some n, msk := m }
  | .vrcp d a n m => { ops := [(.vd, d), (.vs, a)], pfx := some .vsfu, fold := some n, msk := m }
  | .vrsq d a n m => { ops := [(.vd, d), (.vs, a)], pfx := some .vsfu, fold := some n, msk := m }
  | .vex2 d a n m => { ops := [(.vd, d), (.vs, a)], pfx := some .vsfu, fold := some n, msk := m }
  | .vlg2 d a n m => { ops := [(.vd, d), (.vs, a)], pfx := some .vsfu, fold := some n, msk := m }
  | .vtanh d a n m => { ops := [(.vd, d), (.vs, a)], pfx := some .vsfu, fold := some n, msk := m }
  | .vld d a b _ n _ => { ops := [(.vmD, d), (.xmS, a), (.xmS, b)], fold := some n, memV := true }
  | .vst s a b n m _ => { ops := [(.vs, s), (.xmS, a), (.xmS, b)], fold := some n, msk := m, memV := true }
  | .vgather d a b _ n => { ops := [(.vmD, d), (.xmS, a), (.vmS, b)], fold := some n, memV := true }
  | .vscatter s a b n => { ops := [(.vmS, s), (.xmS, a), (.vmS, b)], fold := some n, memV := true }
  | .vcvt d a n m => { ops := [(.vd, d), (.vs, a)], pfx := some .vcvt, fold := some n, msk := m }
  | .vpack d a b n m => { ops := [(.vd, d), (.vs, a), (.vs, b)], pfx := some .vpack, fold := some n, msk := m }
  | .vunpk d a _ n m => { ops := [(.vd, d), (.vs, a)], pfx := some .vunpk, fold := some n, msk := m }
  | .vqnt d a b n m => { ops := [(.vmD, d), (.vmS, a), (.vmS, b)], pfx := some .vqnt, fold := some n, msk := m, noMask := true }
  | .vdqt d a b n m => { ops := [(.vmD, d), (.vmS, a), (.vmS, b)], pfx := some .vdqt, fold := some n, msk := m, noMask := true }
  | .vrotFwd d a n m => { ops := [(.vmD, d), (.vmS, a)], pfx := some .vrot, fold := some n, msk := m, noMask := true }
  | .vrotInv d a n m => { ops := [(.vmD, d), (.vmS, a)], pfx := some .vrot, fold := some n, msk := m, noMask := true }
  | .vscl d a n m => { ops := [(.vmD, d), (.vmS, a)], pfx := some .vscl, fold := some n, msk := m, noMask := true }
  | .pfx _ _ _ _ _ _ => { ops := [], isPfx := true }
  | .mld d a b => { ops := [(.acS, d), (.xmS, a), (.xmS, b)], pfx := some (.mld (a == 0)) }
  | .mldT d a b => { ops := [(.acS, d), (.xmS, a), (.xmS, b)], pfx := some (.mld (a == 0)) }
  | .mswap => { ops := [], pfx := some .mswap }
  | .mmac d a b => { ops := [(.acD, d), (.xmS, a), (.xmS, b)], pfx := some .mmac }
  | .mmacz d a b => { ops := [(.acD, d), (.xmS, a), (.xmS, b)], pfx := some .mmac }
  | .mst d a b => { ops := [(.acS, d), (.xmS, a), (.xmS, b)] }
  | .mrd d a b _ => { ops := [(.vmD, d), (.acS, a), (.xmS, b)], fold := some 7 }
  | .mwr d a b => { ops := [(.acD, d), (.xmS, a), (.xmS, b)] }
  | .mzero d b => { ops := [(.acD, d), (.xmS, b)] }
  | .ecpy d a b => { ops := [(.xmD, d), (.xmS, a), (.xmS, b)] }
  | .ecpy2 d a b => { ops := [(.xmD, d), (.xmS, a), (.xmS, b)] }
  | .estrm d a b => { ops := [(.xmD, d), (.xmS, a), (.xmS, b)] }
  | .enode d a b => { ops := [(.xmD, d), (.xmS, a), (.xmS, b)] }
  | .csrr d _ => { ops := [(.xmD, d)] }
  | .csrw a _ => { ops := [(.xmS, a)] }
  | .csrs a _ => { ops := [(.xmS, a)] }
  | .csrc a _ => { ops := [(.xmS, a)] }
  | .trap _ _ => { ops := [] }
  | .tret => { ops := [], priv := true }
  | .uret => { ops := [] }
  | .wfi => { ops := [], priv := true }
  | .halt => { ops := [], priv := true }
  | .frz a => { ops := [(.xmS, a)], priv := true }
  | .brk _ _ => { ops := [] }
  | .mark a _ => { ops := [(.xs, a)] }
  | _ => { ops := [] }

/-! ### Prefix payload (Table 9-4) -/

def payTD (p : Word) : Nat := Word.field p 15 4
def payTA (p : Word) : Nat := Word.field p 11 4
def payTB (p : Word) : Nat := Word.field p 7 4
def payRTAG (p : Word) : Nat := Word.field p 3 4
def payRND (p : Word) : Nat := Word.field p 1 2
def paySAT (p : Word) : Bool := p.getLsbD 0

/-- The payload that an instruction reads: PFXPAY where a prefix is pending, else all defaults (R57). -/
def Ctx.pay (c : Ctx) : Word := if c.stat stPFXP then c.pfxpay else 0

/-- Type codes of Table 2-10. -/
def tyF32 : Nat := 1
def tyF16 : Nat := 2
def tyBf16 : Nat := 3
def tyE4m3 : Nat := 4
def tyE5m2 : Nat := 5
def tyK4 : Nat := 6
def tyI32 : Nat := 7
def tyI16 : Nat := 8
def tyI8 : Nat := 9
def tyN32 : Nat := 10
def tyN16 : Nat := 11
def tyN8 : Nat := 12

/-- The type codes of VCVT (R264), and those of 16 and of 32 bits among them. -/
def cvtTypes : List Nat := [tyF32, tyF16, tyBf16, tyI32, tyN32, tyI16, tyN16]
def cvt16 : List Nat := [tyF16, tyBf16, tyI16, tyN16]
def cvt32 : List Nat := [tyF32, tyI32, tyN32]
def codeTypes : List Nat := [tyE4m3, tyE5m2, tyK4, tyI8]
def mxTypes : List Nat := [tyF16, tyBf16, tyE4m3, tyE5m2, tyI8, tyK4]

/-- 0 or a code of the list. -/
def dfltOr (l : List Nat) (t : Nat) : Bool := t == 0 || l.contains t

/-- The nonzero ones of three type codes agree (R252). -/
def sameTypes (a b c : Nat) : Bool :=
  (a == 0 || b == 0 || a == b) && (a == 0 || c == 0 || a == c) && (b == 0 || c == 0 || b == c)

/-- The payload names only fields and type codes that the instruction reads (R59). -/
def pfxOk (u : PfxUse) (p : Word) : Bool :=
  let td := payTD p
  let ta := payTA p
  let tb := payTB p
  let rtag := payRTAG p
  let rnd := payRND p
  let sat := paySAT p
  match u with
  | .empty | .mswap => td == 0 && ta == 0 && tb == 0 && rtag == 0 && rnd == 0 && !sat
  | .vf => dfltOr [tyF32, tyF16, tyBf16] td && dfltOr [tyF32, tyF16, tyBf16] ta &&
      dfltOr [tyF32, tyF16, tyBf16] tb && sameTypes td ta tb && rtag == 0 && !sat
  | .vfclass => td == 0 && dfltOr [tyF32] ta && tb == 0 && rtag == 0 && rnd == 0 && !sat
  | .vi =>
      let l := [tyI32, tyI16, tyI8, tyN32, tyN16, tyN8]
      dfltOr l td && dfltOr l ta && dfltOr l tb && sameTypes td ta tb && rtag == 0 && rnd == 0
  | .vsfu => dfltOr [tyF32] td && dfltOr [tyF32] ta && tb == 0 && rtag == 0 && rnd == 0 && !sat
  | .vfsum => td == 0 && dfltOr [tyF32] ta && tb == 0 && rtag == 0 && !sat
  | .vredF => td == 0 && dfltOr [tyF32] ta && tb == 0 && rtag == 0 && rnd == 0 && !sat
  | .vredI => td == 0 && dfltOr [tyI32] ta && tb == 0 && rtag == 0 && rnd == 0 && !sat
  | .vcvt => dfltOr cvtTypes td && dfltOr cvtTypes ta && tb == 0 && rtag == 0
  | .vpack => dfltOr cvt16 td && dfltOr cvtTypes ta && tb == 0 && rtag == 0
  | .vunpk => dfltOr cvt32 td && dfltOr cvt16 ta && tb == 0 && rtag == 0
  | .vscl => dfltOr codeTypes td && dfltOr [tyF32] ta && tb == 0 && rnd == 0 && !sat
  | .vqnt => dfltOr codeTypes td && dfltOr [tyF32] ta && tb == 0 && rnd == 0 &&
      (!sat || td == 0 || td == tyE4m3 || td == tyE5m2)
  | .vdqt => dfltOr [tyF32] td && dfltOr codeTypes ta && tb == 0 && rnd == 0 && !sat
  | .vrot => dfltOr [tyF32] td && dfltOr [tyF32] ta && tb == 0 && rnd == 0 && !sat
  | .mld acc => (if acc then dfltOr [tyF16, tyBf16] td && rtag == 0 else dfltOr mxTypes td && rnd == 0 && !sat) &&
      ta == 0 && tb == 0
  | .mmac => td == 0 && dfltOr mxTypes ta && tb == 0 && rnd == 0 && !sat

/-! ### Decode faults, in the order of R50 -/

/-- The instruction word as it stands (TVAL of the decode faults). -/
def instrWord (i : Instr) : Word := BitVec.ofNat 64 ((encode i).getD 0)

/-- A CSR's access in user mode, and in privileged mode (Table 12-2): readable, writable. A write-only CSR may
be read, and reads as 0. -/
def csrUser (n : Nat) : Bool × Bool :=
  if n = 0x000 then (true, false)
  else if n = 0x001 ∨ n = 0x002 then (false, false)
  else if n = 0x003 ∨ n = 0x004 then (true, true)
  else if 0x005 ≤ n ∧ n ≤ 0x007 then (true, false)
  else if n = 0x008 ∨ n = 0x00B then (false, false)
  else if n = 0x009 ∨ n = 0x00A then (true, false)
  else if n = 0x010 ∨ n = 0x011 then (true, true)
  else if 0x012 ≤ n ∧ n ≤ 0x017 then (true, false)
  else if n = 0x018 then (true, true)
  else if 0x020 ≤ n ∧ n ≤ 0x023 then (true, true)
  else if 0x030 ≤ n ∧ n ≤ 0x035 then (false, false)
  else if 0x100 ≤ n ∧ n ≤ 0x15F then (true, false)
  else if n = 0x200 ∨ n = 0x201 ∨ n = 0x202 ∨ n = 0x204 then (true, true)
  else (true, false)

def csrPriv (n : Nat) : Bool × Bool :=
  if csrReadOnly n then (true, false)
  else if n = 0x035 then (true, false)
  else (true, true)

/-- The access that a CSR instruction needs is lacking in the mode (R355). -/
def csrDenied (pm : Bool) (n : Nat) (write : Bool) : Bool :=
  let a := if pm then csrPriv n else csrUser n
  !(if write then a.2 else a.1)

/-- The privilege fault of an instruction in user mode (R62, R166, R355): its INFO0. -/
def privFault (i : Instr) (c : Ctx) : Option Word :=
  let pm := c.stat stPM
  match i with
  | .csrr _ n => if csrDenied pm n false then some (BitVec.ofNat 64 n) else none
  | .csrw _ n => if csrDenied pm n true then some (BitVec.ofNat 64 n) else none
  | .csrs _ n => if csrDenied pm n true then some (BitVec.ofNat 64 n) else none
  | .csrc _ n => if csrDenied pm n true then some (BitVec.ofNat 64 n) else none
  | .tntClr _ _ => if !pm && !c.stat stTCLRU then some 0 else none
  | _ => if (instrShape i).priv && !pm then some 0 else none

/-- A counted or modulo loop whose body, `len` words from `beg`, may not be activated (R82, R83). -/
def loopBad (c : Ctx) (beg len : Nat) : Bool :=
  2 ≤ c.loops.length ||
  c.loops.any (fun l => l.modulo || beg < l.beg.toNat || l.fin.toNat < beg + 4 * len)

/-- The instruction breaks a rule on loop state or on a return (R83, R91, R92, R357): its ILLOP subcode. -/
def loopFault (i : Instr) (c : Ctx) : Option (BitVec 8) :=
  let inModulo := match c.loops with
    | l :: _ => l.modulo && l.holds c.pc
    | [] => false
  match i with
  | .beq _ _ _ | .bne _ _ _ | .blt _ _ _ | .bge _ _ _ | .bltn _ _ _ | .bgen _ _ _ | .jal _ _ | .jalr _ _ _ =>
    if inModulo then some 1 else none
  | .loopC h _ l =>
    if loopBad c (c.pc.toNat + 4) (64 * h + l + 1) then some 1
    else if 2 ^ 50 ≤ c.pc.toNat + 4 then some 0 else none
  | .loopM ii _ _ =>
    let w := (ii + 16) / 16
    if loopBad c (c.pc.toNat + 4 + 4 * w) (ii + 1) then some 1
    else if 2 ^ 50 ≤ c.pc.toNat + 4 + 4 * w then some 0 else none
  | .lbrk _ => if c.loops.isEmpty then some 1 else none
  | .tret => if c.stat stPM && !c.stat stEXL then some 0 else none
  | .uret => if c.stat stPM || !c.stat stUEXL then some 0 else none
  | _ => none

/-- The first register field whose number its class does not admit. -/
def badReg (ops : List (OpClass × Nat)) : Option Nat := (ops.find? (fun o => !o.1.admits o.2)).map (·.2)

/-- The fold or mask combination is one of R56 or of the class chapters' own VLEN cases. -/
def vlenBad (sh : Shape) : Bool :=
  (sh.noMask && sh.msk != 0) ||
  (match sh.fold with
   | some n => n != 0 && sh.ops.any (fun o =>
      match o.1 with
      | .vd | .vmD => 32 ≤ o.2 && o.2 < 40
      | .vs | .vmS => sh.memV && 32 ≤ o.2 && o.2 ≤ 40
      | _ => false)
   | none => false)

/-- INFO2 of an FMTF at decode: n, and a free value for the block length, of which there is none (Table 12-8, R288, log
entry 15). -/
def State.fmtfCount (s : State) (sh : Shape) : Word :=
  BitVec.ofNat 64 (((sh.fold.map (fun k => 8 * (k + 1))).getD 0) * 2 ^ 16 + (s.drawn 1).toNat % 2 ^ 16)

/-- The first decode fault of the acting context's instruction, in the order of R50, and after them the rules on loop
state and on returns, which no entry of Table 2-5 names. -/
def decodeFault (i : Instr) (s : State) : Option Exc :=
  let c := s.ctx
  let sh := instrShape i
  match privFault i c with
  | some info => some (s.exc cPRIV (instrWord i) 0 info)
  | none =>
    if c.stat stPFXP && (sh.pfx.isNone || c.pfxLost || (match c.pfxNext with | some a => a != c.pc | none => false)) then
      some (s.exc cPFXSEQ (instrWord i))
    else match badReg sh.ops with
      | some n => some (s.exc cILLREG (instrWord i) 0 (BitVec.ofNat 64 n))
      | none =>
        if vlenBad sh then some (s.exc cVLEN (instrWord i))
        else if (match sh.pfx with | some u => c.stat stPFXP && !pfxOk u c.pfxpay | none => false) then
          some { s.exc cFMTF (instrWord i) 0 (BitVec.ofNat 64 (payRTAG c.pay)) (s.drawn 0) (s.fmtfCount sh) with
            infoT := if c.csrTaint.getLsbD 0x12 then 1 else 0 }
        else (loopFault i c).map (fun sub => s.exc cILLOP (instrWord i) sub)

/-! ### Registers of open windows (R52) and ports (R169) -/

/-- The register an operand names, as a window destination would be named: vector or not, and number. -/
def opReg (o : OpClass × Nat) : Option (Bool × Nat) :=
  match o.1 with
  | .xs | .xd | .xmS | .xmD => if o.2 < 32 && o.2 != 0 then some (false, o.2) else none
  | .vs | .vd | .vmS | .vmD => if o.2 < 40 then some (true, o.2) else none
  | _ => none

/-- The first operand that names the destination of an open window, with that window. -/
def windowHit (wins : List Window) : List (OpClass × Nat) → Option (Window × Nat)
  | [] => none
  | o :: r =>
    match opReg o with
    | some v =>
      match wins.find? (fun w => w.vec == v.1 && w.dst == v.2) with
      | some w => some (w, o.2)
      | none => windowHit wins r
    | none => windowHit wins r

/-- The operands that an instruction reads and writes: all of those in its fields, but that sendw of no bytes does not read B
(R220). -/
def liveOps (i : Instr) (s : State) : List (OpClass × Nat) :=
  match i with
  | .sendw a b => if Word.field (s.ctx.readX a).1 20 5 = 0 then [(.xmS, a)] else (instrShape (.sendw a b)).ops
  | i => (instrShape i).ops

/-- WINDOW, where an operand names the destination of an open window that was opened with WINCHK = 1 (R52, R355). -/
def windowFault (i : Instr) (s : State) : Option Exc :=
  (windowHit (s.ctx.wins.filter Window.chk) (liveOps i s)).map (fun p => s.exc cWINDOW p.1.ipc 0 (BitVec.ofNat 64 p.2))

/-- Flits that scalar operands read from in-queue d. -/
def portReads (ops : List (OpClass × Nat)) (d : Nat) : Nat :=
  (ops.filter (fun o => o.1 == .xs && o.2 == 41 + d)).length

/-- Some scalar operand writes out-queue d. -/
def portWrites (ops : List (OpClass × Nat)) (d : Nat) : Bool := ops.any (fun o => o.1 == .xd && o.2 == 45 + d)

/-- Every input port holds the flits that the scalar operands read, and every output port has room (R169). -/
def portsReady (ops : List (OpClass × Nat)) (t : Tile) : Bool :=
  [0, 1, 2, 3].all (fun d =>
    portReads ops d ≤ (t.inQ d).length && (!portWrites ops d || (t.outQ d).length < portDepth))

end Sys2Proof.Machine
end

