-- ==== Sys2Proof/Machine/Issue.lean ====
section
/-! DEFINITION. Issuing one instruction of the acting context: what holds it back, the decode faults, its
effect, and what follows its issue (windows, loop contexts, the prefix). Every Gomas instruction's meaning
is `issue` of its effect. -/

namespace Sys2Proof.Machine

/-- The outcome of a step. -/
abbrev Out := Host.Outcome State Fault Refusal

/-- What an instruction's effect comes to. -/
inductive Eff where
  /-- it has taken effect and is followed in sequence -/
  | ok (s : State)
  /-- it has taken effect and passes control to a target -/
  | jump (t : Word) (s : State)
  /-- it has taken effect and has set PC and the loop contexts itself -/
  | placed (s : State)
  /-- it has taken effect, has left its loop and set PC itself; two ticks follow (R73) -/
  | left (s : State)
  /-- it has restored the control state of a frame, PC, windows and progress among it (R362) -/
  | returned (s : State)
  /-- it makes no progress now and issues again later -/
  | wait (st : Stall) (s : State)
  /-- it has been sent and its context waits for an event; the event completes it -/
  | sent (s : State)
  /-- it raises a fault and has no effect -/
  | raise (e : Exc)
  /-- it raises a fault, keeping what the state holds by then -/
  | raiseIn (e : Exc) (s : State)
  /-- it completes and then raises a fault of kind after -/
  | after (e : Exc) (s : State)

/-- Marks the acting context as waiting for a cause. -/
def State.stall (s : State) (st : Stall) : State := s.onCtx (fun c => { c with stall := some st, waited := some st })

/-- What follows the issue of an instruction: the windows opened before it (below `upto`) count it, the
prefix is spent, the progress of a vector instruction ends (R51, R57, R250). -/
def Ctx.retire (c : Ctx) (isPfx : Bool) (upto : Nat) : Ctx :=
  let c := c.countWins upto
  let c := if isPfx then c else { c.setStat stPFXP false with pfxNext := none, pfxLost := false }
  { c with vbeat := 0, stall := none, waited := none, wait := .nothing }

/-- A tile one of whose contexts has issued: the context after f. -/
def Tile.issues (t : Tile) (c : Fin 4) (f : Ctx → Ctx) : Tile := { t.modCtx c f with issued := true, bubble := 0 }

/-- The core has issued an instruction that now waits for an event, or a beat of one that waits (R411). -/
def State.noteIssued (s : State) : State := s.onTile (fun t => { t with issued := true, bubble := 0 })

/-- Two more ticks are charged to ISSUE after a taken transfer (R73, R411). -/
def State.noteTaken (s : State) : State := s.onTile (fun t => { t with bubble := 2 })

/-- The state after the acting context's instruction has issued, its PC already moved on. -/
def State.retire (s : State) (isPfx : Bool) (upto : Nat) : State :=
  s.onTile (fun t => t.issues s.actor.ctx (fun c => c.retire isPfx upto))

/-- A context after a return from a frame: the windows that were open before it count it. -/
def Ctx.retireReturn (c : Ctx) (upto : Nat) : Ctx := { c.countWins upto with stall := none, waited := none, wait := .nothing }

/-- The state after a return from a frame. -/
def State.retireReturn (s : State) (upto : Nat) : State :=
  s.onTile (fun t => t.issues s.actor.ctx (fun c => c.retireReturn upto))

/-- The acting context's instruction, which waited for an event, has completed and is followed in sequence. It issued
before, so that the tick of its completion is not charged to ISSUE (R411). -/
def State.complete (s : State) : State :=
  (s.onCtx Ctx.fallThrough).onCtx (fun c => c.retire false s.ctx.nextWin)

/-- What a window that has not landed waits on: the multiplier or the divider, a timeline, the matrix unit, a load that
the tile itself has answered, or memory. -/
def Window.stallOf (w : Window) : Stall :=
  match w.kind with
  | .value => .muldiv
  | .tlwait => .engine
  | .mrd _ => .matrix
  | _ => match w.st with
    | .bound _ _ | .boundV _ _ => .near
    | _ => .mem

/-- What an undelivered fault waits on: the oldest window that is not settled. -/
def Ctx.settleStall (c : Ctx) : Stall :=
  match c.wins.find? (fun w => !w.settled) with
  | some w => w.stallOf
  | none => .mem

/-- Delivers a fault once every open window of the context has settled (R361); until then the context waits
and the instruction, which has no effect, issues again. -/
def State.deliver (s : State) (e : Exc) : State :=
  if s.ctx.settled then s.takeFault e else s.stall s.ctx.settleStall

/-- Delivers a fault with the state s' that it leaves, once every open window has settled; until then the context
waits in the state s. -/
def State.deliverIn (s s' : State) (e : Exc) : State :=
  if s.ctx.settled then s'.takeFault e else s.stall s.ctx.settleStall

/-- The operands of an instruction that an address, a target or a descriptor comes from. -/
def addrOps (i : Instr) : List (OpClass × Nat) :=
  match i with
  | .vscatter _ a b _ => [(.xmS, a), (.vmS, b)]
  | _ => (instrShape i).ops.filter (fun p => p.1 == .xmS || p.1 == .vmS)

/-- A fault code whose cause record holds a value taken from those operands (Table 12-8). -/
def addrCode (code : BitVec 8) : Bool :=
  [cALIGN, cSPANF, cPAGEF, cSYNONYM, cPLACE, cUNDECL, cRACE, cTAINTSINK, cTASKF, cENGF, cPAGEREQ, cMIGR].contains code

/-- The INFO words of a cause record that are taken from an address or a descriptor: the span that SPANF selects and the entry of
a TASKF (Table 12-8). -/
def addrInfo (code : BitVec 8) : BitVec 3 := if code = cSPANF then 1 else if code = cTASKF then 2 else 0

/-- A fault of instruction i of the acting context, with the taint of what its cause record takes from the operands
(R360). -/
def State.withTaint (s : State) (i : Instr) (e : Exc) : Exc :=
  if addrCode e.code && (addrOps i).any (fun p => if p.1 == .xmS then (s.ctx.readX p.2).2 else s.ctx.vTaint p.2) then
    { e with tnt := true, infoT := e.infoT ||| addrInfo e.code }
  else e

/-- The state that an effect of instruction i comes to, from the state s it issued in. -/
def settle (i : Instr) (s : State) (eff : Eff) : State :=
  let p := (instrShape i).isPfx
  match eff with
  | .ok s' => (s'.onCtx Ctx.fallThrough).retire p s.ctx.nextWin
  | .jump t s' => ((s'.onCtx (fun c => c.jumpTo t)).retire p s.ctx.nextWin).noteTaken
  | .placed s' => s'.retire p s.ctx.nextWin
  | .left s' => (s'.retire p s.ctx.nextWin).noteTaken
  | .returned s' => s'.retireReturn s.ctx.nextWin
  | .wait st s' => s'.stall st
  | .sent s' => s'.noteIssued
  | .raise e => s.deliver (s.withTaint i e)
  | .raiseIn e s' => s.deliverIn s' (s.withTaint i e)
  | .after e s' => s.deliverIn ((s'.onCtx Ctx.fallThrough).retire p s.ctx.nextWin) e

/-! ### What holds a context back -/

/-- The entry is faulted. -/
def SbEntry.isFaulted (e : SbEntry) : Bool :=
  match e.st with
  | .faulted _ => true
  | .pending | .confirmed => false

/-- The first of the tile's store-buffer entries of a context, in SEQ order, that is faulted. -/
def firstFaulted (sb : List SbEntry) (c : Fin 4) : Option SbEntry :=
  (sb.filter (fun e => e.ctx == c && e.isFaulted)).foldl
    (fun best e => match best with
      | none => some e
      | some b => if e.seq.toNat < b.seq.toNat then some e else some b) none

/-- Cause code of an entry. -/
def SbEntry.cause (e : SbEntry) : BitVec 8 := match e.st with | .faulted c => c | .pending | .confirmed => 0

/-- The address of the first byte that an entry writes (Table 4-17). -/
def SbEntry.firstByte (e : SbEntry) : Word := e.va + BitVec.ofNat 64 (ctzNat 32 e.mask.toNat)

/-- DSTORE for a faulted entry (R114, Table 12-8). The VA of the entry that TVAL holds is taken to be that of its first byte
written, not of its 32-byte chunk (log entry 39). The entry's one taint bit, that of data and address together, is TVAL's. -/
def SbEntry.dstore (e : SbEntry) : Exc :=
  { code := cDSTORE, kind := kCommit, tval := e.firstByte, tnt := e.taint, ipc := e.pc, step := e.step
    info0 := e.seq.setWidth 64, info1 := BitVec.ofNat 64 (e.idx * 256 + e.cause.toNat) }

/-- Every faulted entry of the acting context marked reported (R114). -/
def State.markReported (s : State) : State :=
  s.onTile (fun t => { t with sb := t.sb.map (fun e =>
    if e.ctx == s.actor.ctx && e.isFaulted
    then { e with reported := true } else e) })

/-- The acting context is the one that a command fault belongs to. -/
def State.owns (s : State) (f : CmdFault) : Bool :=
  f.tile == s.actor.tile && f.ctx == s.actor.ctx && f.gen == s.ctx.gen

/-- The faults left after one of the acting context is reported. -/
def dropExc (own : CmdFault → Bool) (l : List CmdFault) (e : Exc) : List CmdFault := l.filter (fun f => !(own f && f.exc == e))

/-- A fault of a closing window is reported. A load keeps its record, to be reissued after handling; a tlwait
stands to issue afresh, and the command fault that it found is not delivered again (R117, R163). -/
def State.windowReported (s : State) (w : Window) : State :=
  match w.kind, w.st with
  | .tlwait, .failed e =>
    let s := s.onCtx (fun c => { c with wins := c.wins.map (fun u => if u.id == w.id then { u with st := .waiting } else u) })
    match Word.field w.aux 14 2 with
    | 0 => s.onTile (fun t => { t with mx := { t.mx with faults := dropExc s.owns t.mx.faults e } })
    | 1 => s.onTile (fun t => { t with xch := { t.xch with faults := dropExc (fun _ => true) t.xch.faults e } })
    | _ => { s with engs := s.engs.map (fun x =>
        if x.eng == Word.field w.aux 3 6 && x.ctx == Word.field w.aux 0 3 then { x with faults := dropExc s.owns x.faults e } else x) }
  | _, _ => s

/-- A forme whose contexts may issue. -/
def FormePhase.runs : FormePhase → Bool
  | .compute | .exchange | .swapping => true
  | _ => false

/-- Whether the acting context issues now. -/
inductive Gate where
  | idle
  | closed (st : Stall)
  | fault (e : Exc) (s : State)
  | go
deriving DecidableEq, Repr

/-- The fault that a closed window delivers (R117, R145, R163): kind window. -/
def Window.fault (w : Window) : Option Exc :=
  match w.st with
  | .failed e => some { e with kind := kWindow, tnt := e.tnt || (addrCode e.code && w.tnt) }
  | _ => none

/-- The context may issue: it waits for no event, or its race check has passed (R145). -/
def Wait.open : Wait → Bool
  | .nothing | .raceOk => true
  | _ => false

/-- Whether the acting context issues: it runs a thread on a core that is not frozen in a forme that runs, waits
for no event and no FPX report (R255), and every window with no instruction left has landed (R51). -/
def gate (s : State) : Gate :=
  let c := s.ctx
  if c.st != .running || s.tile.frozen || !s.forme.phase.runs || !c.wait.open || (c.fpx.isSome && c.vbeat == 0) then .idle
  else
    match c.wins.find? (fun w => w.rem == 0) with
    | some w =>
      match w.fault with
      | some e => .fault e (s.windowReported w)
      | none => .closed w.stallOf
    | none => .go

/-- The effect that instruction i comes to: its decode faults, the window rule, its ports, and then f. A vector
instruction takes its ports beat by beat in f (R249). -/
def attempt (i : Instr) (f : State → Eff) (s : State) : Eff :=
  match decodeFault i s with
  | some e => if e.code == cFMTF then .raiseIn e (s.spend 2) else .raise e
  | none =>
    match windowFault i s with
    | some e => .raise e
    | none =>
      if (instrShape i).fold.isNone && !portsReady (instrShape i).ops s.tile then .wait .port s
      else f s

/-- The effect is a fault of the instruction itself. -/
def Eff.raises : Eff → Bool
  | .raise _ | .raiseIn _ _ => true
  | _ => false

/-- An interrupt of the acting context is to be taken at this instruction boundary (R358, R364): a line is set, IE = 1
and EXL = 0. A vector instruction in progress is saved with its progress (R250), unless an exception that it has
raised awaits its report. -/
def Ctx.intDue (c : Ctx) : Bool := c.intp.extractLsb' 0 16 != 0 && c.stat stIE && !c.stat stEXL && c.fpx.isNone

/-- Takes the acting context's interrupt: kind interrupt, TVAL = INTP, the saved PC that of the next
instruction not yet issued (Table 12-7). -/
def State.interrupt (s : State) : State := s.deliver { s.exc 0 s.ctx.intp with kind := kInterrupt, tnt := s.ctx.csrTaint.getLsbD 0x08 }

/-- What a context does that a window with no instruction left holds: it takes an interrupt that is due, once every
result that lands within a bounded time has landed (R358, R361), and waits otherwise, or where a DSTORE comes before it. -/
def State.held (s : State) (st : Stall) : State := if s.ctx.intDue && s.ctx.dstoreAt != some s.ctx.pc then s.interrupt else s.stall st

/-- The unreported DSTORE that was restored with the acting context and is due at the instruction at PC (R115), with the state
that it leaves. -/
def State.dueStore (s : State) : Option (Exc × State) :=
  if s.ctx.dstoreAt == some s.ctx.pc then
    (firstFaulted s.tile.sb s.actor.ctx).map (fun e => (e.dstore, s.markReported.onCtx (fun c => { c with dstoreAt := none })))
  else none

/-- The step of the acting context that issues instruction i with effect f. A fault of the instruction comes before a DSTORE
that was restored with the context, that before an interrupt, and an interrupt before the instruction (R115, R365). -/
def issueState (i : Instr) (f : State → Eff) (s : State) : State :=
  match gate s with
  | .idle => s
  | .closed st => s.held st
  | .fault e s' => s.deliverIn s' e
  | .go =>
    let eff := attempt i f s
    if eff.raises then settle i s eff
    else match s.dueStore with
      | some d => s.deliverIn d.2 d.1
      | none => if s.ctx.intDue then s.interrupt else settle i s eff

/-- The meaning of a Gomas instruction whose effect is f. -/
def issue (i : Instr) (f : State → Eff) (s : State) : Out := .next (issueState i f s)

/-! ### Results of scalar instructions -/

/-- Writes a scalar result. -/
def okXd (s : State) (d : Nat) (v : Word) (t : Bool) : Eff := .ok (s.writeXd d v t)

/-- An effect of one scalar source. -/
def eff1 (d a : Nat) (f : Word → Word) (s : State) : Eff :=
  let ra := s.readXs a
  okXd ra.2.2 d (f ra.1) ra.2.1

/-- An effect of two scalar sources: A is read first, so a port named twice yields its first flit to A (R46). -/
def eff2 (d a b : Nat) (f : Word → Word → Word) (s : State) : Eff :=
  let ra := s.readXs a
  let rb := ra.2.2.readXs b
  okXd rb.2.2 d (f ra.1 rb.1) (ra.2.1 || rb.2.1)

/-- Opens the window of a long-latency instruction issued at the acting context's PC. -/
def State.openWindow (s : State) (n dst : Nat) (vec : Bool) (kind : WinKind) (st : WinState) (tnt : Bool)
    (addr aux : Word := 0) (elems : Nat := 0) : State :=
  s.onCtx (fun c => c.openWin
    { id := 0, ipc := c.pc, step := BitVec.ofNat 64 s.forme.k, rem := n, dst, vec, n := elems, kind, st, addr, aux, tnt
      chk := c.stat stWINCHK })

end Sys2Proof.Machine
end

