-- ==== Sys2Proof/Machine/MemSys.lean ====
section
/-! DEFINITION. The memory system behind the cores: spans and their checks, routine sets, interleave domains and
homes, translation at the controllers, lines in their home slices, and what a slice does for each request. -/

namespace Sys2Proof.Machine

/-! ### Spans (Tables 4-4 to 4-7) -/

def Span.v (p : Span) : Bool := p.a.getLsbD 63
def Span.rd (p : Span) : Bool := p.a.getLsbD 62
def Span.wr (p : Span) : Bool := p.a.getLsbD 61
def Span.ex (p : Span) : Bool := p.a.getLsbD 60
def Span.home (p : Span) : Nat := Word.field p.a 58 2
def Span.chk (p : Span) : Bool := p.a.getLsbD 57
def Span.sink (p : Span) : Bool := p.a.getLsbD 56
def Span.nc (p : Span) : Bool := p.a.getLsbD 55
def Span.dom (p : Span) : Nat := Word.field p.a 12 4
def Span.named (p : Span) : Nat := Word.field p.a 0 12
def Span.base (p : Span) : Nat := Word.field p.b 12 45
def Span.limit (p : Span) : Nat := Word.field p.l 12 45

/-- The span covers an address, in a forme of n tiles (R102, R105). -/
def Span.covers (p : Span) (n : Nat) (a : Nat) : Bool :=
  p.v && p.home != 3 && (p.home != 1 || p.named < n) && p.base ≤ a / 4096 && a / 4096 ≤ p.limit

/-- The lowest-numbered span of the context that covers an address (R103). -/
def Ctx.select (c : Ctx) (n : Nat) (a : Nat) : Option (Nat × Span) :=
  ((List.range 32).find? (fun i => (vget c.spans i {}).covers n a)).map (fun i => (i, vget c.spans i {}))

/-- Kinds of access, by the rights they need (Table 4-7). -/
inductive AccKind where
  | read | write | atomic | upd | fetch
deriving DecidableEq, Repr

/-- Where an access goes once its checks are passed. -/
inductive Target where
  | loc (off : Nat)
  | remote (tile off : Nat)
  | span (n : Nat) (p : Span)
deriving DecidableEq, Repr

/-- Fields of an interleave-domain record (Table 4-8). -/
def domGen (r : Word) : Nat := Word.field r 60 4
def domMask (r : Word) : Nat := Word.field r 44 16
def domCnt (r : Word) : Nat := Word.field r 32 9
def domBase (r : Word) : Nat := Word.field r 0 8
def domEmpty (r : Word) : Bool := domCnt r == 0 || domMask r == 0 || 256 < domBase r + domCnt r

/-- The k-th set bit of a mask of n bits. -/
def nthBit : Nat → Nat → Nat → Nat → Nat
  | 0, _, _, i => i
  | n + 1, m, k, i =>
    if m % 2 = 1 then (if k = 0 then i else nthBit n (m / 2) (k - 1) (i + 1)) else nthBit n (m / 2) k (i + 1)

/-- The hash of R107. -/
def hashOf (va : Nat) : Nat :=
  (va / 2 ^ 6 % 2 ^ 16) ^^^ (va / 2 ^ 22 % 2 ^ 16) ^^^ (va / 2 ^ 38 % 2 ^ 16) ^^^ (va / 2 ^ 54 % 8)

/-- The home slice of a HASH line under a domain record, as a physical tile (R107). -/
def hashHome (r : Word) (va : Nat) : Nat :=
  let m := popNat 16 (domMask r)
  let k := hashOf va % (domCnt r * m)
  tileInCluster (domBase r + k / m) (nthBit 16 (domMask r) (k % m) 0)

/-- SPANF at the acting context. -/
def State.spanf (s : State) (a : Word) (sub : BitVec 8) (span : Nat := 0xFF) : Exc :=
  s.exc cSPANF a sub (BitVec.ofNat 64 span)

/-- The checks of R97 to R106 on n bytes at an address; a store, update or atomic through a REPL span raises
RIGHTS (R105). A fetch in the local region raises LOCAL: the spec gives no subcode for it (log entry 39). -/
def checkAccess (s : State) (k : AccKind) (a : Word) (n : Nat) : Except Exc Target :=
  let f := s.forme
  let v := a.toNat
  if 2 ^ 57 ≤ v then .error (s.spanf a 4)
  else if isLocal a then
    if k != .fetch && localOk f (v % 2 ^ 32) n then .ok (.loc (v % 2 ^ 32)) else .error (s.spanf a 5)
  else if isRemote a then
    if k != .write then .error (s.spanf a 6)
    else if v % 2 ^ 32 / 2 ^ 28 != 0 || f.count ≤ v / 2 ^ 16 % 2 ^ 12 || f.winSize < v % 2 ^ 16 + n then
      .error (s.spanf a 5)
    else .ok (.remote (v / 2 ^ 16 % 2 ^ 12) (v % 2 ^ 16))
  else match s.ctx.select f.count v with
    | none => .error (s.spanf a 1)
    | some (i, p) =>
      if p.limit < (v + n - 1) / 4096 then .error (s.spanf a 2 i)
      else
        let right := match k with
          | .read => p.rd
          | .write | .upd => p.wr && p.home != 2
          | .atomic => p.rd && p.wr && p.home != 2
          | .fetch => p.ex
        if !right then .error (s.spanf a 3 i)
        else if p.home == 0 && domEmpty (vget s.tile.doms p.dom 0) then .error (s.spanf a 7 i)
        else .ok (.span i p)

/-! ### Declared sets of a routine (R232) -/

/-- Fields of a galley's configuration (Table 7-1). -/
def galEN (c : Word) : Bool := c.getLsbD 63
def galOWNER (c : Word) : Nat := Word.field c 61 2
def galSIZE (c : Word) : Nat := Word.field c 52 4
def galBASE (c : Word) : Nat := Word.field c 12 7 * 4096

/-- The galley is enabled: EN, a size from 12 to 16, its base a multiple of its size, inside main store (R213). -/
def galEnabled (f : Forme) (c : Word) : Bool :=
  galEN c && 12 ≤ galSIZE c && galSIZE c ≤ 16 && galBASE c % 2 ^ galSIZE c == 0 && galBASE c + 2 ^ galSIZE c ≤ f.mainSize

/-- A read lies in a galley of the tile that the acting context owns: it is reached through the address of a recv, which names
a galley from 0 to 3, and is not checked (R213, R232, log entry 36). -/
def galleyRead (s : State) (t : Target) (n : Nat) : Bool :=
  match t with
  | .loc off => (s.tile.gal.toList.take 4).any (fun g =>
      galEnabled s.forme g.cfg && galOWNER g.cfg == s.actor.ctx.val && galBASE g.cfg ≤ off && off + n ≤ galBASE g.cfg + 2 ^ galSIZE g.cfg)
  | _ => false

/-- The routine that the acting context runs, with its number; contexts that run none are not checked. -/
def State.routine (s : State) : Option (Nat × Routine) :=
  match s.ctx.running with
  | some r => (s.forme.img.routines[r.routine]?).map (fun d => (r.routine, d))
  | none => none

/-- Some one range of the list holds all n bytes. Bytes that only two adjacent ranges hold together are not declared: R232
speaks of a range (log entry 39). -/
def inRanges (l : List (Nat × Nat)) (off n : Nat) : Bool := l.any (fun r => r.1 ≤ off && off + n ≤ r.1 + r.2)

/-- The target lies outside the declared sets: a read needs either set, a write the write set. -/
def Routine.undeclared (d : Routine) (t : Target) (n : Nat) (write : Bool) : Bool :=
  match t with
  | .loc off => !(inRanges d.wr off n || (!write && inRanges d.rd off n))
  | .span i _ => !(d.ws.contains i || (!write && d.rs.contains i))
  | .remote _ _ => false

/-- UNDECL for an access of the acting context, if its routine did not declare it. -/
def undeclFault (s : State) (t : Target) (a : Word) (n : Nat) (write : Bool) : Option Exc :=
  match s.routine with
  | some (i, d) => if d.undeclared t n write && !(!write && galleyRead s t n) then some (s.exc cUNDECL a 0 (BitVec.ofNat 64 i)) else none
  | none => none

/-- The span checks and then UNDECL, in the order of R119 and R232. -/
def checkDecl (s : State) (k : AccKind) (a : Word) (n : Nat) : Except Exc Target :=
  match checkAccess s k a n with
  | .error e => .error e
  | .ok t =>
    match undeclFault s t a n (k != .read) with
    | some e => .error e
    | none => .ok t

/-- The target is a span marked SINK. -/
def Target.sink : Target → Bool
  | .span _ p => p.sink
  | _ => false

/-! ### Homes -/

/-- Home of an address through a span, for a requesting tile and its copy of the domain records (R105). -/
def homeOf (s : State) (t : Tile) (p : Span) (va : Nat) : Nat :=
  match p.home with
  | 0 => hashHome (vget t.doms p.dom 0) va
  | 1 => ((s.logicalTile t.forme p.named).map Tile.phys).getD t.phys
  | _ => t.phys

/-- Domain index and generation that a request through the span names (R108). -/
def domOf (t : Tile) (p : Span) : Option (Nat × Nat) :=
  if p.home == 0 then some (p.dom, domGen (vget t.doms p.dom 0)) else none

/-- The tile whose array holds an L1D line (R101): the tile itself, or by VA[9:6] in a fused cluster that lies
wholly inside the forme. -/
def l1Tile (s : State) (t : Tile) (va : Nat) : Nat :=
  match s.formeAt t.forme with
  | some f =>
    let inside := (List.range 16).all (fun i =>
      match s.tileAt (tileInCluster (clusterOf t.phys) i) with
      | some u => u.forme == t.forme
      | none => false)
    if f.fuse && inside then tileInCluster (clusterOf t.phys) (va / 64 % 16) else t.phys
  | none => t.phys

/-! ### Memory behind the slices -/

/-- The key of a line of memory in the taint and poison sets. -/
def Loc.key : Loc → Nat
  | .hbm pa => pa / 64
  | .host a => 2 ^ 60 + a / 64
  | .remote p va => 2 ^ 61 + p * 2 ^ 56 + va / 64

/-- Memory of a remote package. -/
def State.remoteOf (s : State) (p : Nat) : Memory := ((s.remoteMem.find? (fun r => r.1 == p)).map (·.2)).getD []

/-- n bytes of memory from a location on. -/
def State.readLoc (s : State) (l : Loc) (n : Nat) : List Byte :=
  match l with
  | .hbm pa => Memory.read s.hbm pa n
  | .host a => Memory.read s.hostMem a n
  | .remote p va => Memory.read (s.remoteOf p) va n

/-- Bytes written to memory from a location on. -/
def State.writeLoc (s : State) (l : Loc) (bs : List Byte) : State :=
  match l with
  | .hbm pa => { s with hbm := Memory.write s.hbm pa bs }
  | .host a => { s with hostMem := Memory.write s.hostMem a bs }
  | .remote p va =>
    { s with remoteMem := (p, Memory.write (s.remoteOf p) va bs) :: s.remoteMem.filter (fun r => r.1 != p) }

/-- The line of memory that holds a location. -/
def Loc.base : Loc → Loc
  | .hbm a => .hbm (a / 64 * 64)
  | .host a => .host (a / 64 * 64)
  | .remote p a => .remote p (a / 64 * 64)

/-- The line of memory at a location: data, its taint on every granule, its poison (R148, R430). -/
def State.loadLine (s : State) (l : Loc) : Line × BitVec 8 × BitVec 8 :=
  (Line.ofBytes (s.readLoc l.base 64),
    if TaintSet.has s.hbmTaint l.key then 0xFF else 0,
    if TaintSet.has s.hbmPoison l.key then 0xFF else 0)

/-- Writes a line back to memory: its taint bit is the OR of the granules' (R148), and poison is carried (R430). -/
def State.storeLine (s : State) (l : Loc) (d : Line) (t p : BitVec 8) : State :=
  let s := s.writeLoc l.base (Line.bytes d 0 64)
  { s with hbmTaint := TaintSet.put s.hbmTaint l.key (t != 0), hbmPoison := TaintSet.put s.hbmPoison l.key (p != 0) }

/-! ### Translation (R321 to R337) -/

/-- Colour of an address (R321). -/
def colour (a : Nat) : Nat := a / 4096 % 512 % 12

/-- Fields of a table entry (Table 11-3). -/
def leafSZ (e : Word) : Nat := Word.field e 60 2
def leafST (e : Word) : Nat := Word.field e 57 3
def leafKIND (e : Word) : Nat := Word.field e 55 2
def leafUC (e : Word) : Bool := e.getLsbD 54
def leafPN (e : Word) : Nat := Word.field e 12 40
def leafPKG (e : Word) : Nat := Word.field e 8 4
def leafBADC (e : Word) : Nat := Word.field e 4 4

/-- Bytes of a page by its size code. -/
def pageBytes (sz : Nat) : Nat :=
  match sz with
  | 0 => 0x1000
  | 1 => 0x10000
  | 2 => 0x200000
  | _ => 0x40000000

/-- The controller of a number. -/
def State.ctl (s : State) (c : Nat) : Controller := vget s.ctls c {}
def State.modCtl (s : State) (c : Nat) (f : Controller → Controller) : State :=
  { s with ctls := vset s.ctls c (f (s.ctl c)) }

/-- The present leaf of an ASID that covers an address. -/
def Controller.leaf (k : Controller) (asid va : Nat) : Option Leaf :=
  k.leaves.find? (fun l => l.asid == asid && l.va ≤ va && va < l.va + pageBytes (leafSZ l.entry))

/-- A frame of a colour exists (R322). -/
def frameExists (f : Nat) : Bool :=
  let c := f % 512 % 12
  f / 512 * (if c < 8 then 43 else 42) + f % 512 / 12 < 2 ^ 24 && f * 4096 < 0xC400000000

/-- The frames of colour c among n from f on that decide a check: the whole of a short extent, both ends of a
long one (each colour occurs in every 24 frames, and existence falls monotonically). -/
def probeFrames (c f n : Nat) : List Nat :=
  let l := if n ≤ 48 then (List.range n).map (f + ·) else (List.range 24).map (f + ·) ++ (List.range 24).map (f + n - 24 + ·)
  l.filter (fun g => g % 512 % 12 == c)

/-- The extents overlap in a frame of colour c that they give to different pages. -/
def synonym (c : Nat) (x y : Nat × Nat × Nat × Nat) : Bool :=
  let lo := max x.1 y.1
  let hi := min (x.1 + x.2.1) (y.1 + y.2.1)
  lo < hi && (probeFrames c lo (hi - lo)).length != 0 &&
  !(x.2.2.1 == y.2.2.1 && x.2.2.2 + lo - x.1 == y.2.2.2 + lo - y.1)

/-- The record of a page of a leaf, as an extent of one frame. -/
def Leaf.piece (l : Leaf) (vp : Nat) : Nat × Nat × Nat × Nat := (leafPN l.entry + (vp - l.va / 4096), 1, l.asid, vp)

/-- The frame records that the pages of controller c of a leaf claim one by one: of each whose frame exists, is placed and
has no record. -/
def goodPieces (c : Nat) (k : Controller) (l : Leaf) (n : Nat) : List (Nat × Nat × Nat × Nat) :=
  (((List.range n).map (l.va / 4096 + ·)).filter (fun vp => vp % 512 % 12 == c)).filterMap (fun vp =>
    let x := l.piece vp
    if frameExists x.1 && x.1 % 512 % 12 == c && !k.frames.any (fun f => f.1 ≤ x.1 && x.1 < f.1 + f.2.1) then some x else none)

/-- First use of a leaf by controller c (R325, R332): the BADC that it earns, or 0, and the frames that it claims: all of its
pages, or those that pass. Where pages fail in several ways the leaf says so in the order of Table 11-3 from below. -/
def firstUse (c : Nat) (k : Controller) (l : Leaf) : Nat × List (Nat × Nat × Nat × Nat) :=
  let n := pageBytes (leafSZ l.entry) / 4096
  match leafKIND l.entry with
  | 0 =>
    let ext := (leafPN l.entry, n, l.asid, l.va / 4096)
    let vps := (probeFrames c (l.va / 4096) n)
    if vps.any (fun vp => !frameExists (leafPN l.entry + (vp - l.va / 4096))) then (3, goodPieces c k l n)
    else if vps.any (fun vp => (leafPN l.entry + (vp - l.va / 4096)) % 512 % 12 != c) then (2, goodPieces c k l n)
    else if k.frames.any (synonym c ext) then (1, goodPieces c k l n)
    else (0, [ext])
  | 2 => if colour (leafPN l.entry * 4096) == colour l.va then (0, []) else (2, [])
  | _ => (0, [])

/-- What a walk answers. -/
inductive WalkRes where
  | at (loc : Loc) (uc : Bool)
  | fail (code sub : BitVec 8) (req : Nat)
deriving DecidableEq, Repr

/-- The location of an address under a leaf: its frame, the host bus address or the remote target, and for a
page in migration the frame that the copied bitmap selects (R336). -/
def leafLoc (k : Controller) (l : Leaf) (va : Nat) : Loc :=
  let off := va - l.va
  match leafKIND l.entry with
  | 0 =>
    match k.migs.find? (fun m => m.asid == l.asid && m.va == l.va) with
    | some m => .hbm ((if va / 64 % 64 < m.next then m.new else m.old) * 4096 + va % 4096)
    | none => .hbm (leafPN l.entry * 4096 + off)
  | 1 => .host (leafPN l.entry * 4096 + off)
  | _ => .remote (leafPKG l.entry) (leafPN l.entry * 4096 + off)

/-- A waiter added to a page-request slot, at most 8 (R334). -/
def addWaiter (ws : List (Nat × Nat × Nat)) (w : Option (Nat × Nat × Nat)) : List (Nat × Nat × Nat) :=
  match w with
  | some x => if ws.contains x || 8 ≤ ws.length then ws else ws ++ [x]
  | none => ws

/-- Starts or joins a page request: its ID, or 0xFFFF where no slot is free (R334). access: 0 read, 1 write,
2 fetch. -/
def pageRequest (c : Nat) (k : Controller) (l : Leaf) (access : Nat) (w : Option (Nat × Nat × Nat)) : Nat × Controller :=
  match k.slots.find? (fun x => x.asid == l.asid && x.va == l.va) with
  | some x =>
    (64 * c + x.slot, { k with slots := k.slots.map (fun y =>
      if y.slot == x.slot then { y with waiters := addWaiter y.waiters w } else y) })
  | none =>
    match (List.range 64).find? (fun i => k.slots.all (fun x => x.slot != i)) with
    | some i =>
      (64 * c + i, { k with slots := k.slots ++
        [{ slot := i, asid := l.asid, va := l.va, access, size := leafSZ l.entry, waiters := addWaiter [] w, recorded := false }] })
    | none => (0xFFFF, k)

/-- ST of a BAD leaf as a failure (Table 11-3). -/
def badFail (badc : Nat) : WalkRes :=
  match badc with
  | 1 => .fail cSYNONYM 0 0xFFFF
  | 2 => .fail cPLACE 0 0xFFFF
  | _ => .fail cPLACE 1 0xFFFF

/-- The walk of R329 for one line. -/
def translate (s : State) (asid va access : Nat) (w : Option (Nat × Nat × Nat)) : WalkRes × State :=
  let c := colour va
  let k := s.ctl c
  if !k.roots.contains asid then (.fail cPAGEF 0 0xFFFF, s)
  else match k.leaf asid va with
    | none => (.fail cPAGEF 0 0xFFFF, s)
    | some l =>
      match leafST l.entry with
      | 1 =>
        let r := pageRequest c k l access w
        (.fail cPAGEF 0 r.1, s.modCtl c (fun _ => r.2))
      | 2 => (.fail cPAGEREQ 0 0xFFFF, s)
      | 4 => (.fail cMIGR 0 0xFFFF, s)
      | 5 => (badFail (leafBADC l.entry), s)
      | _ =>
        let fu := if l.used then (0, []) else firstUse c k l
        if fu.1 != 0 then
          let bad := Word.setField (Word.setField l.entry 57 3 5) 4 4 fu.1
          (badFail fu.1, s.modCtl c (fun k => { k with frames := k.frames ++ fu.2, leaves := k.leaves.map (fun x =>
            if x.asid == l.asid && x.va == l.va then { x with entry := bad, used := true } else x) }))
        else
          let s' := s.modCtl c (fun k => { k with
            frames := k.frames ++ fu.2
            leaves := k.leaves.map (fun x => if x.asid == l.asid && x.va == l.va then { x with used := true } else x) })
          (.at (leafLoc k l va) (leafUC l.entry), s')

/-- Why an access to another package's memory fails: its link is down (R432), or its own translation there fails (R332). -/
def State.remoteError (s : State) (loc : Loc) : Option (BitVec 8 × BitVec 8) :=
  match loc with
  | .remote p va =>
    if s.linkDown.getLsbD p then some (cPAGEF, 1)
    else (s.remoteFail.find? (fun x => x.1 == p && x.2.1 == va / 4096)).map (fun x => x.2.2)
  | _ => none

/-- The walk of R329 for an access to memory itself, and the failure of another package's memory (R332). -/
def State.reach (s : State) (asid va access : Nat) (w : Option (Nat × Nat × Nat) := none) : WalkRes × State :=
  let r := translate s asid va access w
  match r.1 with
  | .fail _ _ _ => r
  | .at loc uc =>
    (match r.2.remoteError loc with
      | some e => .fail e.1 e.2 0xFFFF
      | none => .at loc uc, r.2)

/-- A line whose location keeps no copy in any cache (R331). -/
def uncached (loc : Loc) (uc : Bool) : Bool := uc || (match loc with | .hbm _ => false | _ => true)

/-! ### Lines in their home slices -/

/-- The lookup of a slice: by ASID and VA[56:6]. The domain index that Table 4-1 puts in the tag beside them takes no part:
a line reached under two domain indices through one slice is one line; a line of a NAMED or REPL span carries the DOM bits
of the span that brought it in (log entry 34). -/
def L2Line.isAt (l : L2Line) (slice asid line : Nat) : Bool := l.slice == slice && l.asid == asid && l.line == line

/-- The line of an ASID that a slice holds or fills. -/
def State.l2At (s : State) (slice asid line : Nat) : Option L2Line := s.l2.find? (fun l => l.isAt slice asid line)

/-- The state with a line put into its slice, replacing the copy there. -/
def State.putL2 (s : State) (l : L2Line) : State :=
  if s.l2.any (fun m => m.isAt l.slice l.asid l.line) then
    { s with l2 := s.l2.map (fun m => if m.isAt l.slice l.asid l.line then l else m) }
  else { s with l2 := s.l2 ++ [l] }

/-- The state with a line gone from its slice. -/
def State.dropL2 (s : State) (l : L2Line) : State := { s with l2 := s.l2.filter (fun m => !m.isAt l.slice l.asid l.line) }

/-- An orphan record of a controller's ring, 16 words (R333). -/
def orphanWords (asid code kind fn : Nat) (wide : Bool) (valid va slice : Nat) (d : Line) : List Word :=
  [BitVec.ofNat 64 (asid * 2 ^ 48 + code * 2 ^ 40 + kind * 2 ^ 32 + fn * 2 ^ 28 + (if wide then 2 ^ 27 else 0) + valid),
   BitVec.ofNat 64 va, BitVec.ofNat 64 slice, 0, 0, 0, 0, 0] ++
  (List.range 8).map (fun i => d.extractLsb' (64 * i) 64)

/-- A record appended to the orphan ring where it has room, and discarded where it is full; the count always rises, and
ORPHAN is raised to the control complex, which reports it to the host (R333, Table 13-5). -/
def State.addOrphan (s : State) (asid va : Nat) (r : List Word) : State :=
  (s.modCtl (colour va) (fun k =>
    { k with
      orphans := if k.orphans.length < k.orphanRing then k.orphans ++ [r] else k.orphans
      orphanCount := k.orphanCount + 1 })).event
    [0x0600000000000000, 0x1500000000000000, 0, 0, 0, BitVec.ofNat 64 va, BitVec.ofNat 64 asid, 0]

/-- Writes a dirty line back to memory, or as an orphan where its translation fails (R333). -/
def State.writeBack (s : State) (l : L2Line) : State :=
  if !l.dirty then s
  else
    let r := translate s l.asid (l.line * 64) 1 none
    match r.1 with
    | .at loc _ => r.2.storeLine loc l.data l.taint l.poison
    | .fail code _ _ =>
      r.2.addOrphan l.asid (l.line * 64) (orphanWords l.asid code.toNat 0 0 false 0 (l.line * 64) l.slice l.data)

/-- Writes back, if dirty, the copy that a slice holds and marks it clean. -/
def State.cleanL2 (s : State) (l : L2Line) : State :=
  if l.dirty then (s.writeBack l).putL2 { l with dirty := false } else s

/-- Taint bits of the granules that n bytes from `off` touch. -/
def lineTaint (t : BitVec 8) (off n : Nat) : Bool :=
  (List.range 8).any (fun g => t.getLsbD g && off / 8 ≤ g && g ≤ (off + n - 1) / 8)

/-- Granule bits after n bytes from `off` are written with a bit: whole granules take it, others OR it (R148). -/
def lineTaintStore (t : BitVec 8) (off n : Nat) (b : Bool) : BitVec 8 :=
  (List.range 8).foldl (fun t g =>
    if off ≤ 8 * g && 8 * g + 8 ≤ off + n then bvSet t g b
    else if b && off / 8 ≤ g && g ≤ (off + n - 1) / 8 then bvSet t g true else t) t

/-- Granules wholly written are clean of poison. -/
def linePoisonStore (p : BitVec 8) (off n : Nat) : BitVec 8 :=
  (List.range 8).foldl (fun p g => if off ≤ 8 * g && 8 * g + 8 ≤ off + n then bvSet p g false else p) p

/-- The sets of an L2 slice, 256 of 16 ways, and of an L1, 64 of 8 ways (Table 4-1); the spec does not give the set of a
line (log entry 7). That of L1 takes every value both on 64 lines in sequence and on the lines of one array of a fused
cluster, whose low four bits are one number (R101). -/
def l2Set (line : Nat) : Nat := line % 256
def l1Set (line : Nat) : Nat := (line + line / 64) % 64

/-- A way for a line of a slice (R109): one free already, or that of the set's oldest line whose fill has ended, written
back where dirty; none where every way of the set waits for its fill. -/
def State.makeRoom (s : State) (slice asid line : Nat) : Option State :=
  let set := s.l2.filter (fun l => l.slice == slice && l2Set l.line == l2Set line)
  if (s.l2At slice asid line).isSome || set.length < 16 then some s
  else (set.find? (fun l => l.fill == .valid)).map (fun v => (s.cleanL2 v).dropL2 v)

/-- The runs of bytes that a 32-bit mask selects, as (offset, length). -/
def maskRuns (m : Nat) : List (Nat × Nat) :=
  ((List.range 32).foldl (fun (acc : List (Nat × Nat)) i =>
    if m.testBit i then
      match acc with
      | (o, n) :: r => if o + n = i then (o, n + 1) :: r else (i, 1) :: (o, n) :: r
      | [] => [(i, 1)]
    else acc) []).reverse

/-- A line with the masked bytes of a 32-byte chunk written. -/
def L2Line.putChunk (l : L2Line) (off : Nat) (mask : BitVec 32) (data : BitVec 256) (t : Bool) : L2Line :=
  (maskRuns mask.toNat).foldl (fun l r =>
    { l with
      data := Line.put l.data (off + r.1) (bytesOfNat r.2 (data.toNat / 2 ^ (8 * r.1)))
      taint := lineTaintStore l.taint (off + r.1) r.2 t
      poison := linePoisonStore l.poison (off + r.1) r.2
      dirty := true }) l

/-! ### Race shadow (R142, R143) -/

/-- The current record of a word names another tile: the other writer's logical tile. -/
def raceOther (sh : List Shadow) (words : List Nat) (tile phase : Nat) : Option Nat :=
  (sh.find? (fun r => words.contains r.word && r.phase == phase && r.writer != tile)).map (·.writer)

/-- The records of words set to a writer and phase. -/
def raceSet (sh : List Shadow) (words : List Nat) (tile phase : Nat) : List Shadow :=
  sh.filter (fun r => !words.contains r.word) ++ words.map (fun w => { word := w, writer := tile, phase := phase })

/-- The 4-byte words that n bytes from an offset touch. -/
def wordsOf (off n : Nat) : List Nat := (List.range ((off + n - 1) / 4 - off / 4 + 1)).map (off / 4 + ·)

/-! ### Exact ordered-float sums (R153) -/

/-- The fold of an exact sum into a word: one addition, rounded once to nearest even. -/
def ofuFold (o : OfuSum) (old : Lane) : Lane :=
  let v := fmtF32OfLane old
  match v with
  | 0 => if o.nan || (o.pinf && o.ninf) then 0x7FC00000
         else if o.pinf then 0x7F800000 else if o.ninf then 0xFF800000
         else roundSum old o.sum o.allNegZero
  | 1 => 0x7FC00000
  | 2 => if o.nan || o.ninf then 0x7FC00000 else 0x7F800000
  | _ => if o.nan || o.pinf then 0x7FC00000 else 0xFF800000
where
  /-- 0 finite, 1 NaN, 2 +∞, 3 −∞ -/
  fmtF32OfLane (x : Lane) : Nat :=
    match fmtF32Class x with
    | .nan _ => 1
    | .inf n => if n then 3 else 2
    | .fin _ _ _ => 0
  fmtF32Class (x : Lane) : FVal := fmtF32.decode x.toNat
  /-- location + sum, exactly, then rounded once -/
  roundSum (old : Lane) (sum : Int) (negz : Bool) : Lane :=
    match fmtF32.decode old.toNat with
    | .fin n m x =>
      let a : Int := (m * 2 ^ (x + 149).toNat : Nat)
      let t : Int := (if n then -a else a) + sum
      if t = 0 then (if n && m = 0 && negz then 0x80000000 else 0)
      else BitVec.ofNat 32 (fmtF32.round 0 0 (t < 0) t.natAbs (-149) false).1
    | _ => old

/-- Folds every pending sum of the words that n bytes of a line touch, before they are read (R153; a store reads no word and folds nothing, log entry 32). -/
def foldLine (s : State) (l : L2Line) (off n : Nat) : L2Line × State :=
  let hit := s.ofu.filter (fun o => o.slice == l.slice && o.asid == l.asid && o.va / 64 == l.line &&
    off / 4 ≤ o.va % 64 / 4 && o.va % 64 / 4 ≤ (off + n - 1) / 4)
  (hit.foldl (fun l o =>
      let w := o.va % 64
      let old : Lane := l.data.extractLsb' (8 * w) 32
      { l with
        data := Line.put l.data w (bytesOfNat 4 (ofuFold o old).toNat)
        taint := if o.taint then bvSet l.taint (w / 8) true else l.taint
        dirty := true }) l,
    { s with ofu := s.ofu.filter (fun o => !hit.contains o) })

/-! ### Requests at their home slice -/

def State.modReq (s : State) (id : Nat) (f : Req → Req) : State :=
  { s with reqs := s.reqs.map (fun r => if r.id == id then f r else r) }

def State.dropReq (s : State) (id : Nat) : State := { s with reqs := s.reqs.filter (fun r => r.id != id) }

def State.reqAt (s : State) (id : Nat) : Option Req := s.reqs.find? (fun r => r.id == id)

def Req.line (r : Req) : Nat := r.va.toNat / 64

/-- The access flag of a page request that a request starts (R334). -/
def Req.access (r : Req) : Nat :=
  match r.kind with
  | .store _ | .raceCheck _ | .atomic _ _ _ _ _ _ _ _ => 1
  | _ => 0

/-- The waiter that a faulting load or atomic records (R334). -/
def Req.waiter (r : Req) : Option (Nat × Nat × Nat) :=
  match r.kind with
  | .store _ | .raceCheck _ => none
  | _ => some (r.tile, r.ctx.val, r.gen.toNat)

/-- The buffered stores of a context that precede a request and touch its bytes, oldest first (R113, R120). -/
def forwards (t : Tile) (r : Req) : List SbEntry :=
  t.sb.filter (fun e => e.ctx == r.ctx && e.asid == r.asid && e.st == .pending &&
    e.va.toNat / 64 == r.va.toNat / 64 && 0 ≤ (r.seq - e.seq).toInt)

/-- A line with the bytes of entries written over it, in their order. -/
def L2Line.under (l : L2Line) (es : List SbEntry) : L2Line :=
  es.foldl (fun l e => l.putChunk (e.va.toNat % 64) e.mask e.data e.taint) l

/-- Entries in the order in which they were taken. -/
def insertEntry (e : SbEntry) : List SbEntry → List SbEntry
  | [] => [e]
  | x :: l => if e.ord < x.ord then e :: x :: l else x :: insertEntry e l

/-- The pending stores to a line that the L1D of tile t, or of its fused cluster, has shown to its tiles since they retired,
in their order (R101, R133). -/
def shownOn (s : State) (t : Tile) (asid line : Nat) : List SbEntry :=
  ((s.tiles.filter (fun u => u.forme == t.forme && l1Tile s u (line * 64) == l1Tile s t (line * 64))).flatMap (fun u =>
    u.sb.filter (fun e => e.shown && e.asid == asid && e.st == .pending && e.va.toNat / 64 == line))).foldr insertEntry []

/-- A line as a load of the context sees it: the home's bytes, under what the tile's L1D has shown of later stores, under
the context's own earlier stores (R113, R120, R133). An access that L1D takes no part in sees only the last. -/
def forwarded (s : State) (t : Tile) (r : Req) (l : L2Line) : L2Line :=
  (l.under (if r.nc || r.chk then [] else (shownOn s t r.asid r.line).filter (fun e => e.ord < r.id))).under (forwards t r)

/-! ### L1D copies (R100, R101, R133) -/

/-- Bytes, taint and poison of a 32-byte chunk written into an L1D copy. -/
def L1Line.putChunk (c : L1Line) (off : Nat) (mask : BitVec 32) (data : BitVec 256) (t : Bool) : L1Line :=
  (maskRuns mask.toNat).foldl (fun c r =>
    { c with
      data := Line.put c.data (off + r.1) (bytesOfNat r.2 (data.toNat / 2 ^ (8 * r.1)))
      taint := lineTaintStore c.taint (off + r.1) r.2 t
      poison := linePoisonStore c.poison (off + r.1) r.2 }) c

/-- An L1D copy with the bytes of entries written over it, in their order. -/
def L1Line.under (c : L1Line) (es : List SbEntry) : L1Line :=
  es.foldl (fun c e => c.putChunk (e.va.toNat % 64) e.mask e.data e.taint) c

def L1Line.isAt (c : L1Line) (asid line : Nat) : Bool := c.asid == asid && c.line == line

/-- L1D copy of a line for a tile, in its own or its cluster's array. -/
def l1Find (s : State) (t : Tile) (asid va : Nat) : Option L1Line :=
  (s.tileD (l1Tile s t va)).l1d.find? (fun c => c.isAt asid (va / 64))

/-- The state with an L1D copy of a line discarded. -/
def l1Drop (s : State) (t : Tile) (asid va : Nat) : State :=
  s.modTile (l1Tile s t va) (fun u => { u with l1d := u.l1d.filter (fun c => !c.isAt asid (va / 64)) })

/-- The clean L1D copy that a fill leaves: the home's line under the stores that the L1D has shown (R133). -/
def l1Copy (s : State) (t : Tile) (l : L2Line) : L1Line :=
  let m := l.under (shownOn s t l.asid l.line)
  { asid := l.asid, line := l.line, dom := l.dom, data := m.data, taint := m.taint, poison := m.poison }

/-- An L1 with a copy of a line: where the 8 ways of its set are taken, `taken` of them by update-only lines, the oldest
copy of the set gives its way, and with none the copy is not kept (Table 4-1; log entry 7). -/
def l1Put (l1 : List L1Line) (taken : Nat) (c : L1Line) : List L1Line :=
  let rest := l1.filter (fun d => !d.isAt c.asid c.line)
  let set := rest.filter (fun d => l1Set d.line == l1Set c.line)
  if set.length + taken < 8 then c :: rest
  else match set.getLast? with
    | some v => c :: rest.filter (fun d => !d.isAt v.asid v.line)
    | none => rest

/-- Puts an L1D copy into its array. -/
def Tile.putL1D (t : Tile) (c : L1Line) : Tile :=
  { t with l1d := l1Put t.l1d (t.upd.filter (fun u => l1Set u.line == l1Set c.line)).length c }

/-- A store that its home slice writes reaches the L1D copy of its line that was made since it retired, under the stores
that the L1D has shown (R100, R101, R120). -/
def State.landCopy (s : State) (t : Tile) (x : SbEntry) : State :=
  if x.shown then s
  else
    let line := x.va.toNat / 64
    s.modTile (l1Tile s t x.va.toNat) (fun u => { u with l1d := u.l1d.map (fun c =>
      if c.isAt x.asid line then (c.under [x]).under (shownOn s t x.asid line) else c) })

/-- The result of an atomic function on w bits (Table 5-10): what is written, if anything. -/
def amoNew (op w : Nat) (old b e : Nat) : Option Nat :=
  match op with
  | 1 => some b
  | 2 => some ((old + b) % 2 ^ w)
  | 3 => some (old &&& b)
  | 4 => some (old ||| b)
  | 5 => some (old ^^^ b)
  | 6 => some (if sextNat b w < sextNat old w then b else old)
  | 7 => some (if sextNat old w < sextNat b w then b else old)
  | 8 => some (min old b)
  | 9 => some (max old b)
  | _ => if old = e then some b else none

/-- The memory taint bit that an atomic leaves (Table 5-10). -/
def amoTaint (op : Nat) (old tb : Bool) : Bool := op == 1 || op == 10 || old || tb

/-- Superstep number modulo 16 of a tile's forme, the phase of R142. -/
def State.phaseOf (s : State) (tile : Nat) : Nat :=
  s.stepOf (s.tileD tile) % 16

/-- RACE for a request, naming the other writer (Table 12-8). -/
def Req.race (r : Req) (other : Nat) : Exc :=
  { code := cRACE, tval := r.va, ipc := r.pc, step := r.step, info0 := BitVec.ofNat 64 other, tnt := r.tnt }

/-- A read of a poisoned granule by a core freezes it (R430). -/
def readsPoison (l : L2Line) (off n : Nat) : Bool := lineTaint l.poison off n

/-- Exact sums of a line's words are pending at its slice: no copy of it is made in L1D (R153, log entry 32). -/
def sumsPending (s : State) (l : L2Line) : Bool :=
  s.ofu.any (fun o => o.slice == l.slice && o.asid == l.asid && o.va / 64 == l.line)

/-- The home slice serves one request on a valid line, indivisibly. `keep`: the line may be copied into L1D. A store is
confirmed; an L1D copy filled since an atomic was sent, which lacks its result, goes (R112, R156). -/
def serve (s : State) (r : Req) (l : L2Line) (keep : Bool) : State :=
  let off := r.va.toNat % 64
  let t := s.tileD r.tile
  let phase := s.phaseOf r.tile
  match r.kind with
  | .load _ | .vload _ _ =>
    let f := foldLine s l off r.size
    let l := f.1
    let s := f.2.putL2 l
    if readsPoison l off r.size then s.freezeCore r.tile 3 r.pc
    else match (if r.chk then raceOther l.shadow (wordsOf off r.size) t.logical phase else none) with
      | some o => s.modReq r.id (fun r => { r with st := .failed (r.race o) })
      | none =>
        let m := forwarded s t r l
        let v := wordOf (Line.bytes m.data off r.size)
        let s := s.modReq r.id (fun r => { r with st := .done v (lineTaint m.taint off r.size) })
        if r.nc || r.chk then s
        else if keep && !sumsPending s l && !t.upd.any (fun u => u.asid == l.asid && u.line == l.line) then
          s.modTile (l1Tile s t r.va.toNat) (fun u => u.putL1D (l1Copy s t l))
        else l1Drop s t r.asid r.va.toNat
  | .store e =>
    match t.sb.find? (fun x => x.idx == e && x.st == .pending) with
    | some x =>
      let s1 := s.putL2 (l.putChunk (x.va.toNat % 64) x.mask x.data x.taint)
      let s2 := s1.modTile r.tile (fun t => { t with sb := t.sb.map (fun y => if y.idx == e then { y with st := .confirmed } else y) })
      (s2.landCopy t x).modReq r.id (fun r => { r with st := .done 0 false })
    | none => s.modReq r.id (fun r => { r with st := .done 0 false })
  | .atomic op wide b e tb _ _ _ =>
    let w := if wide then 64 else 32
    let f := foldLine s l off (w / 8)
    let l := f.1
    let s := f.2.putL2 l
    if readsPoison l off (w / 8) then s.freezeCore r.tile 3 r.pc
    else
      let old := natOfBytes (Line.bytes l.data off (w / 8))
      let nt := amoTaint op (lineTaint l.taint off (w / 8)) tb
      let l' := match amoNew op w old (b.toNat % 2 ^ w) (e.toNat % 2 ^ w) with
        | some v => { l with data := Line.put l.data off (bytesOfNat (w / 8) v), dirty := true,
                             poison := linePoisonStore l.poison off (w / 8) }
        | none => l
      let l' := { l' with taint := bvSet l'.taint (off / 8) nt, dirty := true }
      (l1Drop (s.putL2 l') t r.asid r.va.toNat).modReq r.id (fun r => { r with st := .done (sext old w) true })
  | .raceCheck words =>
    match raceOther l.shadow words t.logical phase with
    | some o => s.modReq r.id (fun r => { r with st := .failed (r.race o) })
    | none =>
      (s.putL2 { l with shadow := raceSet l.shadow words t.logical phase }).modReq r.id
        (fun r => { r with st := .done 0 false })
  | .taintRead _ => s.modReq r.id (fun r => { r with st := .done (l.taint.setWidth 64) false })

/-- Requests that wait on a line in a slice. -/
def waitersOf (s : State) (slice asid line : Nat) : List Req :=
  s.reqs.filter (fun r => r.st == .waiting && r.home == slice && r.asid == asid && r.line == line)

/-- The place of a request in the order of its tile's requests and pushes: a store stands where its entry was
taken. -/
def State.ordOf (s : State) (r : Req) : Nat :=
  match r.kind with
  | .store e => ((s.tileD r.tile).sb.find? (fun x => x.idx == e)).elim r.id SbEntry.ord
  | _ => r.id

/-- An earlier push of the tile's update-only line holds a later request of the tile to it (R152). -/
def pushAhead (s : State) (r : Req) : Bool :=
  s.pushes.any (fun p => p.tile == r.tile && p.upd.asid == r.asid && p.upd.line == r.line && p.id < s.ordOf r)

/-- The request has been answered. -/
def Req.isDone (r : Req) : Bool :=
  match r.st with
  | .done _ _ | .failed _ => true
  | _ => false

/-- The request binds a value: a load or an atomic. -/
def Req.reads (r : Req) : Bool :=
  match r.kind with
  | .load _ | .vload _ _ | .atomic _ _ _ _ _ _ _ _ => true
  | .store _ | .raceCheck _ | .taintRead _ => false

/-- A load or atomic of a context on a line whose place there is not settled: it has not been answered (R131, R138). -/
def Req.openOn (r : Req) (tile : Nat) (c : Fin 4) (asid line : Nat) : Bool :=
  r.tile == tile && r.ctx == c && r.asid == asid && r.line == line && r.reads && !r.isDone

/-- An older load of the context on the line, not yet among the line's waiters, holds a later load or atomic to it: loads of
one location return writes in coherence order (R138), and an atomic takes its place after them (R131). -/
def loadAhead (s : State) (r : Req) : Bool :=
  r.reads && s.reqs.any (fun q => q.openOn r.tile r.ctx r.asid r.line && q.id < r.id && q.st != .waiting)

/-- What an atomic waits for at its line: the context's earlier stores, and those that its L1D has shown (R131, R133). -/
def storeAhead (s : State) (r : Req) : Bool :=
  (match r.kind with
    | .atomic _ _ _ _ _ _ _ _ => true
    | _ => false) &&
  let t := s.tileD r.tile
  !(forwards t r).isEmpty || (shownOn s t r.asid r.line).any (fun e => e.ord < r.id)

/-- A new line whose fill is pending. -/
def newLine (slice asid line dom : Nat) : L2Line :=
  { slice, asid, line, dom, fill := .walking, data := 0, taint := 0, dirty := false, poison := 0, shadow := [] }

/-- The count of a context's unacknowledged writes to homes on other packages rises by the writes among some requests, or
falls (R141, R332). -/
def State.countRemote (s : State) (rs : List Req) (up : Bool) : State :=
  rs.foldl (fun s r => match r.kind with
    | .store _ | .atomic _ _ _ _ _ _ _ _ => s.modCtx r.tile r.ctx (fun c => { c with remote := if up then c.remote + 1 else c.remote - 1 })
    | _ => s) s

/-- The line lies in the memory of another package. -/
def FillState.isRemote (f : FillState) : Bool :=
  match f with
  | .found (.remote _ _) _ => true
  | _ => false

/-- A sent request reaches its home slice (R108, R109): REHOME under another generation, service by a valid
line, a place among the waiters of a pending line or RETRY, or a miss where the slice may take one. -/
def arrive (s : State) (id : Nat) : State :=
  match s.reqAt id with
  | none => s
  | some r =>
    if r.st != .sent || pushAhead s r || loadAhead s r || storeAhead s r then s
    else
      let stale := match r.dom with
        | some (d, g) => domGen (vget s.hashdom d 0) != g
        | none => false
      if stale then s.modReq id (fun r => { r with st := .rehome (vget s.hashdom r.domIdx 0) })
      else match s.l2At r.home r.asid r.line with
        | some l =>
          match l.fill with
          | .valid => serve s r l true
          | _ =>
            if 16 ≤ (waitersOf s r.home r.asid r.line).length then s.modReq id (fun r => { r with st := .retry })
            else
              let s1 := if l.fill.isRemote then s.countRemote [r] true else s
              { s1 with reqs := s1.reqs.filter (fun q => q.id != id) ++ [{ r with st := .waiting }] }
        | none =>
          if 64 ≤ (s.l2.filter (fun l => l.slice == r.home && l.fill != .valid)).length then s
          else match s.makeRoom r.home r.asid r.line with
            | none => s
            | some s1 =>
              { (s1.putL2 (newLine r.home r.asid r.line r.domIdx)) with
                reqs := s1.reqs.filter (fun q => q.id != id) ++ [{ r with st := .waiting }] }

/-- INFO0 of a translation failure (Table 12-8): the request ID, or 0xFFFF; 0 for SYNONYM and PLACE. -/
def walkInfo (code : BitVec 8) (req : Nat) : Word :=
  if code == cSYNONYM || code == cPLACE then 0 else BitVec.ofNat 64 req

/-- A translation failure as the requester sees it (R330). -/
def walkExc (r : Req) (code sub : BitVec 8) (req : Nat) : Exc :=
  { code, sub, tval := r.va, ipc := r.pc, step := r.step, info0 := walkInfo code req, tnt := r.tnt }

/-- The controller walks for a pending line (R329): its location, or its failure for every waiter. -/
def walkLine (s : State) (l : L2Line) : State :=
  let ws := waitersOf s l.slice l.asid l.line
  let w0 := ws.head?
  let r := translate s l.asid (l.line * 64) ((w0.map Req.access).getD 0) (w0.bind Req.waiter)
  match r.1 with
  | .at loc uc =>
    let s1 := r.2.putL2 { l with fill := .found loc uc }
    if (FillState.found loc uc).isRemote then s1.countRemote ws true else s1
  | .fail code sub _ =>
    -- every further load or atomic that waits joins the same page request
    let step (acc : State) (q : Req) : State :=
      let t := translate acc q.asid (q.line * 64) q.access q.waiter
      match t.1 with
      | .fail c2 s2 rq => t.2.modReq q.id (fun x => { x with st := .failed (walkExc x c2 s2 rq) })
      | .at _ _ => acc.modReq q.id (fun x => { x with st := .failed (walkExc x code sub 0xFFFF) })
    (ws.foldl step r.2).dropL2 l

/-- A pending line whose access beyond the package fails (R332, R432): each of its waiters with it. -/
def failLine (s : State) (l : L2Line) (code sub : BitVec 8) : State :=
  let ws := waitersOf s l.slice l.asid l.line
  (ws.foldl (fun s q => s.modReq q.id (fun x => { x with st := .failed (walkExc x code sub 0xFFFF) })) (s.countRemote ws false)).dropL2 l

/-- The fill of a line arrives (R109): the waiters are answered in arrival order. A line of an uncached, host or
remote page is performed at its controller and not retained (R331). -/
def fillLine (s : State) (l : L2Line) : State :=
  match l.fill with
  | .found loc uc =>
    match s.remoteError loc with
    | some e => failLine s l e.1 e.2
    | none =>
    let d := s.loadLine loc
    let l1 := { l with fill := .valid, data := d.1, taint := d.2.1, poison := d.2.2 }
    let ws := waitersOf s l.slice l.asid l.line
    let keep := !uncached loc uc
    let s1 := ws.foldl (fun s r =>
      match s.l2At l.slice l.asid l.line with
      | some m => serve s r m keep
      | none => s) ((if l.fill.isRemote then s.countRemote ws false else s).putL2 l1)
    if keep then s1
    else match s1.l2At l.slice l.asid l.line with
      | some m => ((if m.dirty then s1.storeLine loc m.data m.taint m.poison else s1)).dropL2 m
      | none => s1
  | _ => s

/-! ### Accesses that walk and fill in one step

Fetches, engine commands, update merges and the control complex's own accesses reach a line of memory
through its home slice; the walk and the fill that a miss takes are part of their one step. -/

/-- A line made valid at a slice: the line, and the location it is to be written through to where no copy of it
is retained. -/
def lineNow (s : State) (slice asid va dom access : Nat) (w : Option (Nat × Nat × Nat) := none) :
    Except (BitVec 8 × BitVec 8 × Nat) (L2Line × Option Loc) × State :=
  match s.l2At slice asid (va / 64) with
  | some l =>
    match l.fill with
    | .valid => (.ok (l, none), s)
    | _ =>
      -- a fill under way is brought to its end first
      let s1 := match l.fill with
        | .walking => walkLine s l
        | _ => s
      let s2 := match s1.l2At slice asid (va / 64) with
        | some m => fillLine s1 m
        | none => s1
      fresh s2
  | none => fresh s
where
  fresh (s : State) : Except (BitVec 8 × BitVec 8 × Nat) (L2Line × Option Loc) × State :=
    match s.l2At slice asid (va / 64) with
    | some l => (.ok (l, none), s)
    | none =>
      let r := s.reach asid va access w
      match r.1 with
      | .fail c sub q => (.error (c, sub, q), r.2)
      | .at loc uc =>
        let room := if uncached loc uc then none else r.2.makeRoom slice asid (va / 64)
        let s1 := room.getD r.2
        let d := s1.loadLine loc
        let l := { newLine slice asid (va / 64) dom with fill := .valid, data := d.1, taint := d.2.1, poison := d.2.2 }
        -- with no way for it, the line is not retained
        if room.isNone then (.ok (l, some loc), s1) else (.ok (l, none), s1.putL2 l)

/-- The state with a line written as it now stands: into its slice, or through to memory. -/
def State.commitLine (s : State) (l : L2Line) (thru : Option Loc) : State :=
  match thru with
  | some loc => s.storeLine loc l.data l.taint l.poison
  | none => s.putL2 l

/-- A record of where an access of an agent other than a core is homed (R343): a span, or a slice by hash. -/
def homeBySpan (s : State) (tile : Nat) (p : Span) (va : Nat) : Nat := homeOf s (s.tileD tile) p va

/-- n bytes read through the home slices, line by line: bytes, taint, poison; or the failure and how many bytes
were read before it. -/
def readNow : Nat → State → Nat → Nat → Span → Nat → Nat → List Byte → Bool → Bool →
    Except (BitVec 8 × BitVec 8 × Nat × Nat) (List Byte × Bool × Bool) × State
  | 0, s, _, _, _, _, _, acc, t, p => (.ok (acc, t, p), s)
  | fuel + 1, s, tile, asid, sp, va, n, acc, t, p =>
    if n = 0 then (.ok (acc, t, p), s)
    else
      let k := min n (64 - va % 64)
      let r := lineNow s (homeBySpan s tile sp va) asid va sp.dom 0
      match r.1 with
      | .error e => (.error (e.1, e.2.1, e.2.2, acc.length), r.2)
      | .ok (l, thru) =>
        let f := foldLine r.2 l (va % 64) k
        let s := if l.data == f.1.data then f.2 else f.2.commitLine f.1 thru
        readNow fuel s tile asid sp (va + k) (n - k) (acc ++ Line.bytes f.1.data (va % 64) k)
          (t || lineTaint f.1.taint (va % 64) k) (p || readsPoison f.1 (va % 64) k)

/-- Bytes written through the home slices, line by line; or the failure and how many bytes were written. -/
def writeNow : Nat → State → Nat → Nat → Span → Nat → List Byte → Bool → Nat →
    Except (BitVec 8 × BitVec 8 × Nat × Nat) Unit × State
  | 0, s, _, _, _, _, _, _, _ => (.ok (), s)
  | fuel + 1, s, tile, asid, sp, va, bs, t, done =>
    match bs with
    | [] => (.ok (), s)
    | _ =>
      let k := min bs.length (64 - va % 64)
      let r := lineNow s (homeBySpan s tile sp va) asid va sp.dom 1
      match r.1 with
      | .error e => (.error (e.1, e.2.1, e.2.2, done), r.2)
      | .ok (l, thru) =>
        let l := { l with
          data := Line.put l.data (va % 64) (bs.take k)
          taint := lineTaintStore l.taint (va % 64) k t
          poison := linePoisonStore l.poison (va % 64) k
          dirty := true }
        writeNow fuel (r.2.commitLine l thru) tile asid sp (va + k) (bs.drop k) t (done + k)

/-! ### Update-only lines -/

/-- Sets the touched-cluster bit of a write's home (R141). -/
def State.touch (s : State) (home : Nat) : State :=
  s.onCtx (fun c => { c with touched := bvSet c.touched (clusterOf home) true })

/-- The home of an update-only line's words, by the tile's present domain records (R108). -/
def UpdLine.homeFor (u : UpdLine) (t : Tile) : Nat :=
  let r := vget t.doms u.dom 0
  if u.hash && !domEmpty r then hashHome r (u.line * 64) else u.home

/-- Sends an update-only line of a tile to its home slice (R152), under the generation of the tile's copy of its domain
(R108): the bit of the home's cluster is set for each context whose operands it holds (R141). -/
def State.sendUpd (s : State) (tile : Nat) (ofu : Bool) (u : UpdLine) : State :=
  let t := s.tileD tile
  let home := u.homeFor t
  let p : Push :=
    { id := s.nextReq, upd := { u with home }, dom := if u.hash then some (u.dom, domGen (vget t.doms u.dom 0)) else none
      tile, ofu, forme := t.forme }
  let s1 := s.modTile tile (fun t => { t with ctxs := t.ctxs.mapIdx (fun i c =>
    if u.ctxs.getLsbD i then { c with touched := bvSet c.touched (clusterOf home) true } else c) })
  { s1 with nextReq := s.nextReq + 1, pushes := s.pushes ++ [p] }

/-- Sends the update-only lines of a tile that satisfy a test to their home slices (R152). -/
def pushUpd (s : State) (tile : Nat) (p : UpdLine → Bool) : State :=
  ((s.tileD tile).upd.filter p).foldl (fun s u => s.sendUpd tile false u)
    (s.modTile tile (fun t => { t with upd := t.upd.filter (fun u => !p u) }))

/-- The acting context pushes the update-only lines of its tile that satisfy a test: their homes are among those it has
written to (R141, R152). -/
def State.pushSome (s : State) (p : UpdLine → Bool) : State :=
  (s.tile.upd.filter p).foldl (fun x u => x.touch (u.homeFor s.tile)) (pushUpd s s.actor.tile p)

/-- The acting tile's update-only line that holds an address is pushed (R152). -/
def State.pushLine (s : State) (asid va : Nat) : State := s.pushSome (fun u => u.asid == asid && u.line == va / 64)

/-- A push of the tile on a line is still to be merged (R152). -/
def pushOn (s : State) (tile asid line : Nat) : Bool :=
  s.pushes.any (fun p => p.tile == tile && p.upd.asid == asid && p.upd.line == line)

/-- A request of the acting context for a span access, sent to its home. `tnt`: the taint of its address. -/
def State.sendReq (s : State) (p : Span) (va : Word) (size : Nat) (kind : ReqKind) (tnt : Bool := false) : State :=
  let t := s.tile
  let c := s.ctx
  let r : Req :=
    { id := s.nextReq, tile := t.phys, ctx := s.actor.ctx, gen := c.gen, asid := s.forme.asid
      va, size, home := homeOf s t p va.toNat, dom := domOf t p, domIdx := p.dom, chk := p.chk, nc := p.nc
      pc := c.pc, step := BitVec.ofNat 64 s.forme.k, seq := c.seq, kind, st := .sent, tnt }
  { s with nextReq := s.nextReq + 1, reqs := s.reqs ++ [r] }

end Sys2Proof.Machine
end

