-- ==== Sys2Proof/Machine/Net.lean ====
section
/-! DEFINITION. The message network and what it waits for: injection queues and held writes (R209, R212, R235),
the first-barrier condition (R233), the waiting-task table (R224, R225), acknowledgements. -/

namespace Sys2Proof.Machine

/-! ### Barrier conditions -/

/-- The phase that a forme is in, or will take up again after a halt. -/
def Forme.phaseNow (f : Forme) : FormePhase :=
  match f.phase with
  | .halted | .stopped => f.resumeTo
  | p => p

/-- The forme is halted, mid-superstep or at a boundary. -/
def Forme.standsHalted (f : Forme) : Bool := f.phase == .halted || f.phase == .stopped

/-- No routine of the tile is pending or running and every context of BARMASK has executed sync (R233). -/
def Tile.quiet (t : Tile) : Bool :=
  t.ready.isEmpty && t.ctxs.toList.all (fun c => c.running.isNone) && (t.barMask &&& ~~~t.synced) == 0

/-- The first-barrier condition of a tile (R233). -/
def Tile.firstCond (t : Tile) : Bool := t.quiet && t.unacked == 0

/-- The tile holds its message-network writes (R235). -/
def State.holding (s : State) (t : Tile) : Bool :=
  match (s.formeOf t).phaseNow with
  | .compute => t.firstCond
  | .exchange | .swapping => true
  | _ => (s.formeOf t).stopping

/-- Records the time at which a tile meets its condition, for the imbalance record (R240). -/
def State.noteArrival (s : State) (p : Nat) : State :=
  s.modTile p (fun t =>
    { t with arrival := if t.firstCond then some (t.arrival.getD (s.die (physDie p)).p) else none })

/-! ### Injection -/

/-- A write enters the network: it counts for the barriers and for the releases of its context (R22, R141). -/
def State.enterNet (s : State) (k : Packet) : State :=
  { (s.modTile k.src (fun t =>
      { t.modCtx k.srcCtx (fun c => { c with touched := bvSet c.touched (clusterOf k.dst) true }) with
        unacked := t.unacked + 1 })) with
    net := s.net ++ [k] }

/-- A context of the acting tile issues a write: it is held (R235), or it enters the network. The spec gives no time for which
a write that R235 does not hold stays in the injection queue (R212); here it enters at once, so that only held writes fill
the queue (log entry 39). -/
def State.inject (s : State) (k : Packet) : State :=
  if s.holding s.tile then s.onTile (fun t => { t with injq := t.injq ++ [k] }) else s.enterNet k

/-- The injection queue has no room (R212). -/
def Tile.injFull (t : Tile) : Bool := 8 ≤ t.injq.length

/-- The held writes of a tile enter the network in issue order, in the tile's present superstep (R235). -/
def State.releaseHeld (s : State) (p : Nat) : State :=
  let step := BitVec.ofNat 64 (s.stepOf (s.tileD p))
  (s.tileD p).injq.foldl (fun s k => s.enterNet { k with step := step }) (s.modTile p (fun t => { t with injq := [] }))

/-- A packet of the acting context to a logical tile of its forme. -/
def State.packet (s : State) (dst : Nat) (taint : Bool) (kind : PktKind) : Packet :=
  { src := s.tile.phys, srcLog := s.tile.logical, srcCtx := s.actor.ctx, srcGen := s.ctx.gen
    dst := ((s.logicalTile s.tile.forme dst).map Tile.phys).getD s.tile.phys
    taint, step := BitVec.ofNat 64 s.forme.k, kind, byteTaint := [] }

/-! ### Waiting tasks (R224, R225) -/

/-- A task entry fires: CNT falls by THR, ARM becomes REARM, and its launch is pending. -/
def TaskE.fire (e : TaskE) : TaskE := { e with cnt := e.cnt - e.thr, arm := e.rearm, pend := true }

/-- The entry is to fire. -/
def TaskE.due (e : TaskE) : Bool := e.arm && !e.pend && e.thr ≤ e.cnt

/-- Launch requests that fire now are held for the next compute phase (R234), also while the forme stands at the
boundary of a stop. -/
def State.holdsLaunch (s : State) (t : Tile) : Bool :=
  match (s.formeOf t).phaseNow with
  | .exchange | .swapping => true
  | _ => (s.formeOf t).stopping

/-- Every entry of a tile that is due fires, in ascending entry order; the writes that the tile held enter the
network, since its condition has ceased to hold (R225, R235). -/
def State.fireDue (s : State) (p : Nat) : State :=
  let t := s.tileD p
  let due := (List.range 32).filter (fun n => (vget t.tasks n {}).due)
  if due.isEmpty then s
  else
    let req := due.map (fun n => ({ routine := (vget t.tasks n {}).routine, entry := some n } : Launch))
    let late := s.holdsLaunch t
    let s := s.modTile p (fun t =>
      { t with
        tasks := due.foldl (fun ts n => vset ts n (vget ts n {}).fire) t.tasks
        ready := if late then t.ready else t.ready ++ req
        held := if late then t.held ++ req else t.held })
    let s := req.foldl (fun s r => s.emit p 11 0 [BitVec.ofNat 8 (r.entry.getD 0), BitVec.ofNat 8 r.routine]) s
    if late then s else (s.releaseHeld p).noteArrival p

/-- CNTOVF of an entry (R225): TVAL 0; tile, entry and source. -/
def cntovf (tile entry src k : Nat) : Exc :=
  { code := cTASKF, sub := 9, info0 := BitVec.ofNat 64 tile, info1 := BitVec.ofNat 64 entry
    info2 := BitVec.ofNat 64 src, step := BitVec.ofNat 64 k }

/-- Raises the counter of an entry of a tile (R225). `src` names the source in a CNTOVF record. -/
def State.raiseCount (s : State) (p n inc src : Nat) : State :=
  let t := s.tileD p
  let e := vget t.tasks n {}
  if 65535 < e.cnt + inc then
    s.raiseForme t.forme (cntovf t.logical n src (s.stepOf t)) true
  else (s.modTile p (fun t => { t with tasks := vset t.tasks n { e with cnt := e.cnt + inc } })).fireDue p

/-! ### The start of a superstep (R231, R234, R235) -/

/-- The routines of a tile's list for the present superstep, where its cell is valid (R24, R27). -/
def Tile.listLaunches (t : Tile) (f : Forme) : List Launch :=
  if f.v.getLsbD t.stage then
    (t.list.filter (fun e => e.1 == f.k % t.period)).map (fun e => { routine := e.2, entry := none })
  else []

/-- A tile begins a compute phase: its list entries and then the launches held over are queued, and the writes held
enter the network. -/
def State.startSuperstep (s : State) (p : Nat) : State :=
  let s1 := s.modTile p (fun t => { t with ready := t.ready ++ t.listLaunches (s.formeOf t) ++ t.held, held := [] })
  (s1.releaseHeld p).noteArrival p

/-! ### Acknowledgements of the memory system to a context -/

/-- Every earlier write of the acting context has been acknowledged: no buffered store, packet or push of its
tile is outstanding (R141). -/
def State.writesAcked (s : State) : Bool :=
  let t := s.tile
  !t.sb.any (fun e => e.ctx == s.actor.ctx && e.st == .pending) &&
  !s.net.any (fun k => k.src == t.phys && k.srcCtx == s.actor.ctx && (match k.kind with
    | .xchg _ _ _ _ => false
    | _ => true)) &&
  !s.acks.any (fun a => a.dst == t.phys && a.ctx == s.actor.ctx && a.xnum.isNone) &&
  !s.pushes.any (fun u => u.tile == t.phys) && s.ctx.remote == 0

end Sys2Proof.Machine
end

