-- ==== Sys2Proof/Machine/Commit.lean ====
section
/-! DEFINITION. Commit points and the deferred faults that they deliver (R114, R365), and the parts of a fence:
closing windows, release and acquire (R141, R449, Table 5-4). -/

namespace Sys2Proof.Machine

/-! ### Deferred faults -/

/-- The handle of an engine context (Table 5-13). -/
def engHandle (eng ctx : Nat) : Nat := 2 ^ 15 + eng * 8 + ctx

/-- The fault of the lowest command number. -/
def lowest (l : List CmdFault) : Option CmdFault :=
  l.foldl (fun best f => match best with
    | none => some f
    | some b => if f.num < b.num then some f else some b) none

/-- The list without one fault. -/
def dropFault (l : List CmdFault) (f : CmdFault) : List CmdFault := l.filter (fun g => g != f)

/-- The first deferred engine fault of the acting context: lowest handle, then lowest command (R365). -/
def State.engineFault (s : State) : Option (Nat × Nat × CmdFault) :=
  (s.engs.foldl (fun best e =>
    match lowest (e.faults.filter s.owns) with
    | none => best
    | some f =>
      match best with
      | none => some (e.eng, e.ctx, f)
      | some b => if engHandle e.eng e.ctx < engHandle b.1 b.2.1 then some (e.eng, e.ctx, f) else some b) none)

/-- The state with a reported engine fault gone from its context's list. -/
def State.dropEngFault (s : State) (eng ctx : Nat) (f : CmdFault) : State :=
  { s with engs := s.engs.map (fun e => if e.eng == eng && e.ctx == ctx then { e with faults := dropFault e.faults f } else e) }

/-- The deferred fault that a commit point of the acting context delivers first, in the order of R365, and the
state in which it is reported. -/
def State.deferredFault (s : State) : Option (Exc × State) :=
  match firstFaulted s.tile.sb s.actor.ctx with
  | some e => some (e.dstore, s.markReported)
  | none =>
    match s.ctx.deferred.find? (fun e => e.code == cRACE), s.ctx.deferred.find? (fun e => e.code == cGALLEYOVF) with
    | some e, _ | none, some e =>
      some ({ e with kind := kCommit }, s.onCtx (fun c => { c with deferred := c.deferred.erase e }))
    | none, none =>
      match lowest (s.tile.mx.faults.filter s.owns) with
      | some f =>
        some ({ f.exc with kind := kCommit },
          s.onTile (fun t => { t with mx := { t.mx with faults := dropFault t.mx.faults f } }))
      | none =>
        match s.engineFault with
        | some (eng, ctx, f) => some ({ f.exc with kind := kCommit }, s.dropEngFault eng ctx f)
        | none => none

/-- Where a commit point stands (R114): entries still pending hold it; then one deferred fault; else it proceeds. -/
inductive Commit where
  | wait
  | fault (e : Exc) (s : State)
  | go
deriving DecidableEq, Repr

/-- The commit point of the acting context. -/
def commitCheck (s : State) : Commit :=
  if s.tile.sb.any (fun e => e.ctx == s.actor.ctx && e.st == .pending) then .wait
  else match s.deferredFault with
    | some (e, s') => .fault e s'
    | none => .go

/-- An instruction that is a commit point: f is its effect once the commit point is passed. -/
def atCommit (f : State → Eff) (s : State) : Eff :=
  match commitCheck s with
  | .wait => .wait .commit s
  | .fault e s' => .raiseIn e s'
  | .go => f s

/-! ### The parts of a fence -/

/-- The result of every open window is waited for, and its fault delivered, before f (R449). The caller closes
the windows when it proceeds. -/
def windowsLanded (f : State → Eff) (s : State) : Eff :=
  match s.ctx.wins.find? (fun w => w.fault.isSome) with
  | some w =>
    match w.fault with
    | some e => .raiseIn e (s.windowReported w)
    | none => .wait .mem s
  | none =>
    if s.ctx.wins.all Window.isLanded then f s else .wait .mem s

/-- Sends the update-only lines of the acting tile (R152): the bit of each home's cluster is set (R141). -/
def State.pushAll (s : State) : State := s.pushSome (fun _ => true)

/-- The release side at .clus or wider (Table 5-4): pushes, then waits for every acknowledgement, then clears
the mask. -/
def releasing (f : State → Eff) (s : State) : Eff :=
  let s1 := s.pushAll
  if s1.writesAcked then f (s1.onCtx (fun c => { c with touched := 0 })) else .wait .mem s1

/-- The tile's cluster shares a fused L1D (R101). -/
def State.fusedTile (s : State) (t : Tile) : Bool :=
  match s.formeAt t.forme with
  | some f => f.fuse && (List.range 16).all (fun i =>
      match s.tileAt (tileInCluster (clusterOf t.phys) i) with
      | some u => u.forme == t.forme
      | none => false)
  | none => false

/-- The acquire side at a scope (Table 5-4; 0 ctx, 1 tile, 2 clus, 3 die, 4 sys): clean L1D copies discarded. -/
def State.acquire (s : State) (scope : Nat) : State :=
  if scope < 2 then s
  else if s.fusedTile s.tile then
    if scope = 2 then s
    else { s with tiles := s.tiles.map (fun t =>
      if clusterOf t.phys == clusterOf s.actor.tile then { t with l1d := [] } else t) }
  else s.onTile (fun t => { t with l1d := [] })

/-! ### SC operations (R139, R140) -/

/-- Announces an SC operation of the acting context, an atomic of `size` bytes or a fence, in the present 32-tick window of
its die. -/
def State.announce (s : State) (va : Option Word) (size : Nat) : State :=
  let op : ScOp :=
    { id := s.nextSc, window := (s.die (physDie s.actor.tile)).p.toNat / 32, tile := s.actor.tile, ctx := s.actor.ctx
      va, size, resolved := false }
  { s with sc := s.sc ++ [op], nextSc := s.nextSc + 1 }

/-- One operation comes before another in the SC order: by window, tile, order of issue (R139). -/
def ScOp.before (a b : ScOp) : Bool :=
  a.window < b.window || (a.window == b.window && (a.tile < b.tile || (a.tile == b.tile && a.id < b.id)))

/-- The SC operation that the acting context has announced. -/
def State.ownSc (s : State) : Option ScOp := s.sc.find? (fun o => o.tile == s.actor.tile && o.ctx == s.actor.ctx)

/-- Two SC atomics touch a common byte. -/
def ScOp.meets (a b : ScOp) : Bool :=
  match a.va, b.va with
  | some x, some y => x.toNat < y.toNat + b.size && y.toNat < x.toNat + a.size
  | _, _ => false

/-- The operation may complete: its window is resolved and no earlier SC atomic to its location is outstanding
(R140). -/
def State.scReady (s : State) (o : ScOp) : Bool :=
  o.resolved && !s.sc.any (fun p => p.before o && p.meets o)

/-- The operation is over. -/
def State.dropSc (s : State) (o : ScOp) : State := { s with sc := s.sc.filter (fun p => p.id != o.id) }

/-- The work of an SC operation before its effect f: it is announced, and waits for its window (R140). f sees to
it that the operation leaves the order when it has been performed. -/
def inScOrder (va : Option Word) (size : Nat) (f : State → Eff) (s : State) : Eff :=
  match s.ownSc with
  | none => .wait .mem (s.announce va size)
  | some o => if s.scReady o then f s else .wait .mem s

end Sys2Proof.Machine
end

