-- ==== Sys2Proof/Machine/Vector.lean ====
section
/-! DEFINITION. The vector majors VFA to VSFU and VCVT (R242 to R265): beats and their progress, predicates, the
last-result latch, exceptions, and every element-wise, comparing, reducing and permuting instruction. -/

namespace Sys2Proof.Machine

/-! ### Progress (Tables 8-4 and 8-5) -/

def Ctx.vAct (c : Ctx) : Bool := c.vbeat.getLsbD 3
def Ctx.vBeatNo (c : Ctx) : Nat := Word.field c.vbeat 0 3
def Ctx.vTnt (c : Ctx) : Bool := c.vbeat.getLsbD 36

/-- The beat that the instruction at PC issues next. -/
def Ctx.vStart (c : Ctx) : Nat := if c.vAct then c.vBeatNo else 0

/-- Beat 0 is about to issue: nothing read yet, every lane EMPTY, RTNT = CTNT (R250). For an instruction that is not of VRED
the spec states neither EMPTY nor the partials that it does not keep; the model gives them the same values (log entry 39). -/
def Ctx.vInit (c : Ctx) : Ctx :=
  if c.vAct then c else { c with vbeat := BitVec.ofNat 64 (0xFF * 2 ^ 4 + (if c.ctnt then 2 ^ 36 else 0)), redacc := 0 }

/-- j beats have issued and the instruction is in progress. -/
def Ctx.vMark (c : Ctx) (j : Nat) : Ctx := { c with vbeat := Word.setBit (Word.setField c.vbeat 0 3 j) 3 true }

/-- An operand of taint t has been read. -/
def Ctx.vRead (c : Ctx) (t : Bool) : Ctx := { c with vbeat := Word.setBit c.vbeat 36 (c.vTnt || t) }

/-- Partial P_i of REDACC, read and written. -/
def Ctx.vPart (c : Ctx) (i : Nat) : Lane := c.redacc.extractLsb' (32 * i) 32
def Ctx.vSetPart (c : Ctx) (i : Nat) (v : Lane) : Ctx :=
  { c with redacc := BitVec.ofNat 256 <|
      (c.redacc.toNat % 2 ^ (32 * i) + v.toNat * 2 ^ (32 * i) + c.redacc.toNat / 2 ^ (32 * i + 32) * 2 ^ (32 * i + 32)) }

/-- Beats j to `last` of an instruction, as far as they issue: f performs one beat, or answers none where its ports
hold it back. The number is that of the beat that waits. -/
def beatsFrom (f : Nat → State → Option State) : Nat → Nat → State → State × Option Nat
  | 0, _, s => (s, none)
  | n + 1, j, s =>
    match f j s with
    | some s' => beatsFrom f n (j + 1) (if n = 0 then s' else s'.onCtx (fun c => c.vMark (j + 1)))
    | none => (s, some j)

/-- The window of an exception is that in which its instruction completes (R372). -/
def State.closeFpx (s : State) : State :=
  s.onCtx (fun c => { c with fpx := c.fpx.map (fun p =>
    { p with window := BitVec.ofNat 64 ((s.die (physDie s.actor.tile)).p.toNat / 64) }) })

/-- A beat-local instruction of fold + 1 beats; `fin` follows its last beat (R249 to R251). -/
def runBeats (fold : Nat) (f : Nat → State → Option State) (fin : State → State) (s : State) : Eff :=
  let j0 := s.ctx.vStart
  match beatsFrom f (fold + 1 - j0) j0 (s.onCtx Ctx.vInit) with
  | (s', none) => .ok (fin s').closeFpx
  | (s', some j) => if j = j0 then .wait .port s else .wait .port s'.noteIssued

/-! ### Operands of a beat -/

/-- Reads beat j of source n: a flit of a port, or a register's elements (R243, R245, R249). -/
def State.readBeat (s : State) (n j : Nat) : List Lane × Bool × State :=
  if 41 ≤ n then
    let f := s.headIn (n - 41)
    ((List.range 8).map (fun i => f.val.extractLsb' (32 * i) 32), f.taint, s.popIn (n - 41))
  else
    let c := s.ctx
    ((List.range 8).map (fun i => (c.readVElem n (8 * j + i)).1), (c.readVElem n 0).2, s)

/-- Every port that a beat reads holds a flit for each read, and the port that it writes has room (R249). -/
def vPorts (srcs : List Nat) (d : Option Nat) (t : Tile) : Bool :=
  [0, 1, 2, 3].all (fun p =>
    (srcs.filter (· == 41 + p)).length ≤ (t.inQ p).length && (d != some (45 + p) || (t.outQ p).length < portDepth))

/-- Element e participates (R55, R244), and the taint of the predicate. -/
def Ctx.participates (c : Ctx) (msk e : Nat) : Bool := msk == 0 || (c.readM msk).1.getLsbD e
def Ctx.predTaint (c : Ctx) (msk : Nat) : Bool := msk != 0 && (c.readM msk).2

/-- Flags raised by a participating element: accrued in FPCTL, and an enabled one awaits its report (R254, R255). -/
def Ctx.raiseFp (c : Ctx) (step : Word) (e : Nat) (f : FpFlags) : Ctx :=
  let en := enabled c.fpctl f
  { c with
    fpctl := accrue c.fpctl f
    fpx := if en = 0 then c.fpx
      else match c.fpx with
        | some p => some { p with flags := p.flags ||| en, elem := min p.elem e }
        | none => some { window := 0, elem := e, flags := en, pc := c.pc, step := step } }

/-! ### Results of a beat -/

/-- Beat j of lr. -/
def Ctx.writeLr (c : Ctx) (j : Nat) (vs : List Lane) : Ctx :=
  { c with lr := (vs.zipIdx).foldl (fun l p => vset l (8 * j + p.2) p.1) c.lr }

/-- Writes beat j of a vector destination, an element apiece where `on` holds; an output port is sent 0 elsewhere
(R243, R244). lr takes the beat as it was written (R245). -/
def State.writeBeat (s : State) (d j : Nat) (vs : List (Lane × Bool)) (t : Bool) : State :=
  if 45 ≤ d then
    let ls := vs.map (fun v => if v.2 then v.1 else 0)
    let val : FlitVal := BitVec.ofNat 256 (ls.foldr (fun l a => l.toNat + 2 ^ 32 * a) 0)
    (s.pushOut (d - 45) { val := val, taint := t || s.ctx.ctnt }).onCtx (fun c => c.writeLr j ls)
  else
    s.onCtx (fun c =>
      let c1 := (vs.zipIdx).foldl (fun c p => if p.1.2 then c.writeVElem d (8 * j + p.2) p.1.1 else c) c
      c1.writeLr j ((List.range 8).map (fun i => (c1.readVElem d (8 * j + i)).1)))

/-- Taint during the run of a vector instruction: the old bits of the destination and of lr ORed with what has been
read. -/
def Ctx.taintRun (c : Ctx) (d : Nat) : Ctx :=
  let t := c.vTnt || c.ctnt
  let c1 := if d < 40 then c.taintV d (c.vTaint d || t) else c
  { c1 with taint := { c1.taint with lr := c1.taint.lr || t } }

/-- The end of an instruction that writes lr: beats beyond it become 0, and the taint bits of destination and lr are
those of the result (R148, R245). `old` is the destination's bit before, `kept` says that an element of 0 to n − 1
keeps its old value. -/
def Ctx.endVec (c : Ctx) (d fold : Nat) (old kept : Bool) : Ctx :=
  let t := c.vTnt || c.ctnt
  let part := kept || (d < 32 && fold != 7)
  let c1 := if d < 40 then c.taintV d (t || (part && old)) else c
  { c1 with
    lr := (List.range 64).foldl (fun l e => if 8 * (fold + 1) ≤ e then vset l e 0 else l) c1.lr
    taint := { c1.taint with lr := t || (kept && d < 40 && old) } }

/-- Some element of 0 to n − 1 does not participate. -/
def Ctx.someOff (c : Ctx) (msk fold : Nat) : Bool := (List.range (8 * (fold + 1))).any (fun e => !c.participates msk e)

/-! ### Element-wise instructions -/

/-- An element-wise instruction: f takes the element number and the lanes of A, B and the old D. `sel`: MSK selects
and does not mask (vsel). -/
structure VecOp where
  d : Nat
  a : Nat
  b : Option Nat := none
  readD : Bool := false
  fold : Nat
  msk : Nat
  sel : Bool := false
  f : Bool → Lane → Lane → Lane → Lane × FpFlags

/-- Beat j of an element-wise instruction. -/
def VecOp.beat (o : VecOp) (j : Nat) (s : State) : Option State :=
  if !vPorts (o.a :: o.b.toList) (some o.d) s.tile then none
  else
    let ra := s.readBeat o.a j
    let rb := match o.b with
      | some b => ra.2.2.readBeat b j
      | none => ([], false, ra.2.2)
    let c := rb.2.2.ctx
    let t := ra.2.1 || rb.2.1 || c.predTaint o.msk || (o.readD && c.vTaint o.d)
    let res := (List.range 8).map (fun i =>
      let e := 8 * j + i
      let on := c.participates o.msk e
      let r := o.f on (ra.1.getD i 0) (rb.1.getD i 0) (if o.readD then (c.readVElem o.d e).1 else 0)
      (r.1, r.2, o.sel || on))
    let step := BitVec.ofNat 64 s.forme.k
    let s1 := rb.2.2.onCtx (fun c =>
      (res.zipIdx).foldl (fun c p => if p.1.2.2 then c.raiseFp step (8 * j + p.2) p.1.2.1 else c) (c.vRead t))
    some ((s1.writeBeat o.d j (res.map (fun r => (r.1, r.2.2))) t).onCtx (fun c => c.taintRun o.d))

/-- The effect of an element-wise instruction. -/
def VecOp.eff (o : VecOp) (s : State) : Eff :=
  let old := o.d < 40 && s.ctx.vTaint o.d
  let kept := !o.sel && s.ctx.someOff o.msk o.fold
  runBeats o.fold o.beat (fun s => s.onCtx (fun c => c.endVec o.d o.fold old kept)) s

/-- Each w-bit part of the lanes computed independently (R243). -/
def packed (w : Nat) (g : Nat → Nat → Nat → Nat × FpFlags) (a b d : Lane) : Lane × FpFlags :=
  let rs := (List.range (32 / w)).map (fun i =>
    g (a.toNat / 2 ^ (w * i) % 2 ^ w) (b.toNat / 2 ^ (w * i) % 2 ^ w) (d.toNat / 2 ^ (w * i) % 2 ^ w))
  (BitVec.ofNat 32 ((rs.zipIdx).foldl (fun v p => v + p.1.1 % 2 ^ w * 2 ^ (w * p.2)) 0),
    rs.foldl (fun f r => f ||| r.2) fNone)

/-- The type that a prefix names: its first nonzero type field, else the default (R252). -/
def payType (p : Word) (dflt : Nat) : Nat :=
  if payTD p ≠ 0 then payTD p else if payTA p ≠ 0 then payTA p else if payTB p ≠ 0 then payTB p else dflt

/-- A float type code as a format. -/
def fltFmt (t : Nat) : Fmt := if t = tyF16 then fmtF16 else if t = tyBf16 then fmtBf16 else fmtF32

/-- Width and signedness of an integer type code. -/
def intWidth (t : Nat) : Nat :=
  if t = tyI16 ∨ t = tyN16 then 16 else if t = tyI8 ∨ t = tyN8 then 8 else 32
def intSigned (t : Nat) : Bool := t == tyI32 || t == tyI16 || t == tyI8

/-- A float operation on the type that the prefix names, rounded by its RND. -/
def floatOp (pay : Word) (g : Fmt → Rnd → Nat → Nat → Nat → Nat × FpFlags) (a b d : Lane) : Lane × FpFlags :=
  let t := fltFmt (payType pay tyF32)
  packed t.width (g t (payRND pay)) a b d

/-- An integer operation on the type that the prefix names; the exact result is clamped under SAT where `sats`. -/
def intOp (pay : Word) (sats : Bool) (g : Nat → Bool → Nat → Nat → Int) (a b : Lane) : Lane × FpFlags :=
  let t := payType pay tyI32
  let w := intWidth t
  let sg := intSigned t
  packed w (fun x y _ => (intCode w (if sats && paySAT pay then intClamp w sg (g w sg x y) else g w sg x y), fNone)) a b 0

/-- Exact A × B + D and its kin, with the signs of product and addend. -/
def fmaOp (negP negD : Bool) (t : Fmt) (r : Rnd) (a b d : Nat) : Nat × FpFlags :=
  let x := t.decode a
  let z := t.decode d
  fFma t r (if negP then x.negate else x) (t.decode b) (if negD then z.negate else z)

/-- Floor of log2 of a width: the bits of a shift count (Table 8-11). -/
def shiftBits (w b : Nat) : Nat := b % w

/-! ### VFA and VFB (Table 8-8) -/

/-- vfadd: A + B. -/
def execVfadd (d a b n m : Nat) (s : State) : Out :=
  issue (.vfadd d a b n m) (fun s => VecOp.eff
    { d := d, a := a, b := some b, fold := n, msk := m, f := fun _ x y z => floatOp s.ctx.pay (fun t r a b _ => fAdd t r (t.decode a) (t.decode b)) x y z } s) s

/-- vfsub: A − B. -/
def execVfsub (d a b n m : Nat) (s : State) : Out :=
  issue (.vfsub d a b n m) (fun s => VecOp.eff
    { d := d, a := a, b := some b, fold := n, msk := m, f := fun _ x y z => floatOp s.ctx.pay (fun t r a b _ => fAdd t r (t.decode a) (t.decode b).negate) x y z } s) s

/-- vfmul: A × B. -/
def execVfmul (d a b n m : Nat) (s : State) : Out :=
  issue (.vfmul d a b n m) (fun s => VecOp.eff
    { d := d, a := a, b := some b, fold := n, msk := m, f := fun _ x y z => floatOp s.ctx.pay (fun t r a b _ => fMul t r (t.decode a) (t.decode b)) x y z } s) s

/-- vfmin: the smaller, −0 below +0. -/
def execVfmin (d a b n m : Nat) (s : State) : Out :=
  issue (.vfmin d a b n m) (fun s => VecOp.eff
    { d := d, a := a, b := some b, fold := n, msk := m, f := fun _ x y z => floatOp s.ctx.pay (fun t _ a b _ => fMin t a b) x y z } s) s

/-- vfmax: the larger, +0 above −0. -/
def execVfmax (d a b n m : Nat) (s : State) : Out :=
  issue (.vfmax d a b n m) (fun s => VecOp.eff
    { d := d, a := a, b := some b, fold := n, msk := m, f := fun _ x y z => floatOp s.ctx.pay (fun t _ a b _ => fMax t a b) x y z } s) s

/-- vfcsgn: A with the sign bit of B. -/
def execVfcsgn (d a b n m : Nat) (s : State) : Out :=
  issue (.vfcsgn d a b n m) (fun s => VecOp.eff
    { d := d, a := a, b := some b, fold := n, msk := m, f := fun _ x y z => floatOp s.ctx.pay (fun t _ a b _ => (a % 2 ^ (t.width - 1) + b / 2 ^ (t.width - 1) * 2 ^ (t.width - 1), fNone)) x y z } s) s

/-- vfabs: A with sign bit 0. -/
def execVfabs (d a n m : Nat) (s : State) : Out :=
  issue (.vfabs d a n m) (fun s => VecOp.eff
    { d := d, a := a, fold := n, msk := m, f := fun _ x y z => floatOp s.ctx.pay (fun t _ a _ _ => (a % 2 ^ (t.width - 1), fNone)) x y z } s) s

/-- vfneg: A with its sign bit inverted. -/
def execVfneg (d a n m : Nat) (s : State) : Out :=
  issue (.vfneg d a n m) (fun s => VecOp.eff
    { d := d, a := a, fold := n, msk := m, f := fun _ x y z => floatOp s.ctx.pay (fun t _ a _ _ => (a ^^^ 2 ^ (t.width - 1), fNone)) x y z } s) s

/-- vfma: A × B + D. -/
def execVfma (d a b n m : Nat) (s : State) : Out :=
  issue (.vfma d a b n m) (fun s => VecOp.eff
    { d := d, a := a, b := some b, readD := true, fold := n, msk := m, f := fun _ x y z => floatOp s.ctx.pay (fmaOp false false) x y z } s) s

/-- vfms: A × B − D. -/
def execVfms (d a b n m : Nat) (s : State) : Out :=
  issue (.vfms d a b n m) (fun s => VecOp.eff
    { d := d, a := a, b := some b, readD := true, fold := n, msk := m, f := fun _ x y z => floatOp s.ctx.pay (fmaOp false true) x y z } s) s

/-- vfnma: −(A × B) + D. -/
def execVfnma (d a b n m : Nat) (s : State) : Out :=
  issue (.vfnma d a b n m) (fun s => VecOp.eff
    { d := d, a := a, b := some b, readD := true, fold := n, msk := m, f := fun _ x y z => floatOp s.ctx.pay (fmaOp true false) x y z } s) s

/-- vfnms: −(A × B) − D. -/
def execVfnms (d a b n m : Nat) (s : State) : Out :=
  issue (.vfnms d a b n m) (fun s => VecOp.eff
    { d := d, a := a, b := some b, readD := true, fold := n, msk := m, f := fun _ x y z => floatOp s.ctx.pay (fmaOp true true) x y z } s) s

/-- vfdiv: A ÷ B. -/
def execVfdiv (d a b n m : Nat) (s : State) : Out :=
  issue (.vfdiv d a b n m) (fun s => VecOp.eff
    { d := d, a := a, b := some b, fold := n, msk := m, f := fun _ x y z => floatOp s.ctx.pay (fun t r a b _ => fDiv t r (t.decode a) (t.decode b)) x y z } s) s

/-- vfsqrt: √A. -/
def execVfsqrt (d a n m : Nat) (s : State) : Out :=
  issue (.vfsqrt d a n m) (fun s => VecOp.eff
    { d := d, a := a, fold := n, msk := m, f := fun _ x y z => floatOp s.ctx.pay (fun t r a _ _ => fSqrt t r (t.decode a)) x y z } s) s

/-- vfclass: the class word of f32 A (Table 8-9). -/
def execVfclass (d a n m : Nat) (s : State) : Out :=
  issue (.vfclass d a n m) (fun s => VecOp.eff
    { d := d, a := a, fold := n, msk := m, f := fun _ x _ _ => (BitVec.ofNat 32 (fClass x.toNat), fNone) } s) s

/-! ### VSFU (Table 8-10) -/

/-- vrcp: 1 / A, correctly rounded (log entry 6). -/
def execVrcp (d a n m : Nat) (s : State) : Out :=
  issue (.vrcp d a n m) (fun s => VecOp.eff
    { d := d, a := a, fold := n, msk := m, f := fun _ x _ _ => (BitVec.ofNat 32 (sfRcp (fmtF32.decode x.toNat)).1, (sfRcp (fmtF32.decode x.toNat)).2) } s) s

/-- vrsq: 1 / √A, correctly rounded (log entry 6). -/
def execVrsq (d a n m : Nat) (s : State) : Out :=
  issue (.vrsq d a n m) (fun s => VecOp.eff
    { d := d, a := a, fold := n, msk := m, f := fun _ x _ _ => (BitVec.ofNat 32 (sfRsq (fmtF32.decode x.toNat)).1, (sfRsq (fmtF32.decode x.toNat)).2) } s) s

/-- vex2: 2^A, correctly rounded (log entry 6). -/
def execVex2 (d a n m : Nat) (s : State) : Out :=
  issue (.vex2 d a n m) (fun s => VecOp.eff
    { d := d, a := a, fold := n, msk := m, f := fun _ x _ _ => (BitVec.ofNat 32 (sfEx2 (fmtF32.decode x.toNat)).1, (sfEx2 (fmtF32.decode x.toNat)).2) } s) s

/-- vlg2: log2 A, correctly rounded (log entry 6). -/
def execVlg2 (d a n m : Nat) (s : State) : Out :=
  issue (.vlg2 d a n m) (fun s => VecOp.eff
    { d := d, a := a, fold := n, msk := m, f := fun _ x _ _ => (BitVec.ofNat 32 (sfLg2 (fmtF32.decode x.toNat)).1, (sfLg2 (fmtF32.decode x.toNat)).2) } s) s

/-- vtanh: tanh A, correctly rounded (log entry 6). -/
def execVtanh (d a n m : Nat) (s : State) : Out :=
  issue (.vtanh d a n m) (fun s => VecOp.eff
    { d := d, a := a, fold := n, msk := m, f := fun _ x _ _ => (BitVec.ofNat 32 (sfTanh (fmtF32.decode x.toNat)).1, (sfTanh (fmtF32.decode x.toNat)).2) } s) s

/-! ### VIA and VIB (Table 8-11) -/

/-- vadd: A + B. -/
def execVadd (d a b n m : Nat) (s : State) : Out :=
  issue (.vadd d a b n m) (fun s => VecOp.eff
    { d := d, a := a, b := some b, fold := n, msk := m, f := fun _ x y _ => intOp s.ctx.pay true (fun w sg a b => intVal w sg a + intVal w sg b) x y } s) s

/-- vsub: A − B. -/
def execVsub (d a b n m : Nat) (s : State) : Out :=
  issue (.vsub d a b n m) (fun s => VecOp.eff
    { d := d, a := a, b := some b, fold := n, msk := m, f := fun _ x y _ => intOp s.ctx.pay true (fun w sg a b => intVal w sg a - intVal w sg b) x y } s) s

/-- vmul: A × B. -/
def execVmul (d a b n m : Nat) (s : State) : Out :=
  issue (.vmul d a b n m) (fun s => VecOp.eff
    { d := d, a := a, b := some b, fold := n, msk := m, f := fun _ x y _ => intOp s.ctx.pay true (fun w sg a b => intVal w sg a * intVal w sg b) x y } s) s

/-- vmulh: the high half of the exact product. -/
def execVmulh (d a b n m : Nat) (s : State) : Out :=
  issue (.vmulh d a b n m) (fun s => VecOp.eff
    { d := d, a := a, b := some b, fold := n, msk := m, f := fun _ x y _ => intOp s.ctx.pay false (fun w sg a b => intVal w sg a * intVal w sg b / (2 ^ w : Nat)) x y } s) s

/-- vmin: the smaller, signed. -/
def execVmin (d a b n m : Nat) (s : State) : Out :=
  issue (.vmin d a b n m) (fun s => VecOp.eff
    { d := d, a := a, b := some b, fold := n, msk := m, f := fun _ x y _ => intOp s.ctx.pay false (fun w _ a b => min (intVal w true a) (intVal w true b)) x y } s) s

/-- vmax: the larger, signed. -/
def execVmax (d a b n m : Nat) (s : State) : Out :=
  issue (.vmax d a b n m) (fun s => VecOp.eff
    { d := d, a := a, b := some b, fold := n, msk := m, f := fun _ x y _ => intOp s.ctx.pay false (fun w _ a b => max (intVal w true a) (intVal w true b)) x y } s) s

/-- vminn: the smaller, unsigned. -/
def execVminn (d a b n m : Nat) (s : State) : Out :=
  issue (.vminn d a b n m) (fun s => VecOp.eff
    { d := d, a := a, b := some b, fold := n, msk := m, f := fun _ x y _ => intOp s.ctx.pay false (fun _ _ a b => (min a b : Nat)) x y } s) s

/-- vmaxn: the larger, unsigned. -/
def execVmaxn (d a b n m : Nat) (s : State) : Out :=
  issue (.vmaxn d a b n m) (fun s => VecOp.eff
    { d := d, a := a, b := some b, fold := n, msk := m, f := fun _ x y _ => intOp s.ctx.pay false (fun _ _ a b => (max a b : Nat)) x y } s) s

/-- vand: A & B. -/
def execVand (d a b n m : Nat) (s : State) : Out :=
  issue (.vand d a b n m) (fun s => VecOp.eff
    { d := d, a := a, b := some b, fold := n, msk := m, f := fun _ x y _ => intOp s.ctx.pay false (fun _ _ a b => ((a &&& b : Nat) : Int)) x y } s) s

/-- vor: A | B. -/
def execVor (d a b n m : Nat) (s : State) : Out :=
  issue (.vor d a b n m) (fun s => VecOp.eff
    { d := d, a := a, b := some b, fold := n, msk := m, f := fun _ x y _ => intOp s.ctx.pay false (fun _ _ a b => ((a ||| b : Nat) : Int)) x y } s) s

/-- vxor: A ^ B. -/
def execVxor (d a b n m : Nat) (s : State) : Out :=
  issue (.vxor d a b n m) (fun s => VecOp.eff
    { d := d, a := a, b := some b, fold := n, msk := m, f := fun _ x y _ => intOp s.ctx.pay false (fun _ _ a b => ((a ^^^ b : Nat) : Int)) x y } s) s

/-- vsll: A << B, its count modulo w. -/
def execVsll (d a b n m : Nat) (s : State) : Out :=
  issue (.vsll d a b n m) (fun s => VecOp.eff
    { d := d, a := a, b := some b, fold := n, msk := m, f := fun _ x y _ => intOp s.ctx.pay false (fun w _ a b => ((a * 2 ^ shiftBits w b : Nat) : Int)) x y } s) s

/-- vsrl: A >> B, zero fill. -/
def execVsrl (d a b n m : Nat) (s : State) : Out :=
  issue (.vsrl d a b n m) (fun s => VecOp.eff
    { d := d, a := a, b := some b, fold := n, msk := m, f := fun _ x y _ => intOp s.ctx.pay false (fun w _ a b => ((a / 2 ^ shiftBits w b : Nat) : Int)) x y } s) s

/-- vsra: A >> B, sign fill. -/
def execVsra (d a b n m : Nat) (s : State) : Out :=
  issue (.vsra d a b n m) (fun s => VecOp.eff
    { d := d, a := a, b := some b, fold := n, msk := m, f := fun _ x y _ => intOp s.ctx.pay false (fun w _ a b => intVal w true a / (2 ^ shiftBits w b : Nat)) x y } s) s

/-- vabs: |A| read signed. -/
def execVabs (d a n m : Nat) (s : State) : Out :=
  issue (.vabs d a n m) (fun s => VecOp.eff
    { d := d, a := a, fold := n, msk := m, f := fun _ x _ _ => intOp s.ctx.pay true (fun w _ a _ => ((intVal w true a).natAbs : Int)) x 0 } s) s

/-- vsel: A where the mask bit is 1, else B; MSK selects and does not mask. -/
def execVsel (d a b n m : Nat) (s : State) : Out :=
  issue (.vsel d a b n m) (fun s => VecOp.eff
    { d := d, a := a, b := some b, fold := n, msk := m, sel := true, f := fun on x y _ => (if on then x else y, fNone) } s) s

/-! ### VCMP (Table 8-12) and VMSK (Table 8-13) -/

/-- Taint during the run of a comparison: the old bit of the mask ORed with what has been read. -/
def Ctx.taintMask (c : Ctx) (d : Nat) : Ctx :=
  { c with taint := { c.taint with m := bvSet c.taint.m d (c.taint.m.getLsbD d || c.vTnt || c.ctnt) } }

/-- Beat j of a comparison: the bits of mask D of the participating elements. -/
def cmpBeat (d a b msk : Nat) (f : Lane → Lane → Bool × FpFlags) (j : Nat) (s : State) : Option State :=
  if !vPorts [a, b] none s.tile then none
  else
    let ra := s.readBeat a j
    let rb := ra.2.2.readBeat b j
    let c := rb.2.2.ctx
    let t := ra.2.1 || rb.2.1 || c.predTaint msk
    let step := BitVec.ofNat 64 s.forme.k
    some (rb.2.2.onCtx (fun c0 =>
      (List.range 8).foldl (fun x i =>
        let e := 8 * j + i
        if c.participates msk e then
          let r := f (ra.1.getD i 0) (rb.1.getD i 0)
          let x1 := x.raiseFp step e r.2
          { x1 with m := vset x1.m d (Word.setBit (vget x1.m d 0) e r.1) }
        else x) ((c0.vRead t).taintMask d)))

/-- The taint of a mask that an instruction of n elements has written (R148). -/
def Ctx.endMask (c : Ctx) (d fold : Nat) (kept : Bool) : Ctx :=
  { c with taint := { c.taint with
      m := bvSet c.taint.m d (c.vTnt || c.ctnt || ((kept || fold != 7) && c.taint.m.getLsbD d)) } }

/-- The effect of a comparison (R259). -/
def cmpEff (d a b n m : Nat) (f : Lane → Lane → Bool × FpFlags) (s : State) : Eff :=
  let kept := s.ctx.someOff m n
  runBeats n (cmpBeat d a b m f) (fun s => s.onCtx (fun c => c.endMask d n kept)) s

/-- A comparison of f32 values: false on NaN; NV on a signalling NaN, or on any where `quiet` is false. -/
def fcmp (quiet : Bool) (rel : FVal → FVal → Bool) (a b : Lane) : Bool × FpFlags :=
  let x := fmtF32.decode a.toNat
  let y := fmtF32.decode b.toNat
  if x.isNan || y.isNan then (false, if !quiet || x.sig || y.sig then fNV else fNone) else (rel x y, fNone)

def funord (a b : Lane) : Bool × FpFlags :=
  let x := fmtF32.decode a.toNat
  let y := fmtF32.decode b.toNat
  (x.isNan || y.isNan, if x.sig || y.sig then fNV else fNone)

/-- vfeq: A = B. -/
def execVfeq (d a b n m : Nat) (s : State) : Out :=
  issue (.vfeq d a b n m) (cmpEff d a b n m (fcmp true (fun x y => !FVal.lt false x y && !FVal.lt false y x))) s

/-- vflt: A < B. -/
def execVflt (d a b n m : Nat) (s : State) : Out :=
  issue (.vflt d a b n m) (cmpEff d a b n m (fcmp false (FVal.lt false))) s

/-- vfle: A ≤ B. -/
def execVfle (d a b n m : Nat) (s : State) : Out :=
  issue (.vfle d a b n m) (cmpEff d a b n m (fcmp false (fun x y => !FVal.lt false y x))) s

/-- vfun: A or B is NaN. -/
def execVfun (d a b n m : Nat) (s : State) : Out :=
  issue (.vfun d a b n m) (cmpEff d a b n m funord) s

/-- veq: A = B, as 32 bits. -/
def execVeq (d a b n m : Nat) (s : State) : Out :=
  issue (.veq d a b n m) (cmpEff d a b n m (fun x y => (x == y, fNone))) s

/-- vlt: s(A) < s(B). -/
def execVlt (d a b n m : Nat) (s : State) : Out :=
  issue (.vlt d a b n m) (cmpEff d a b n m (fun x y => (decide (x.toInt < y.toInt), fNone))) s

/-- vltn: n(A) < n(B). -/
def execVltn (d a b n m : Nat) (s : State) : Out :=
  issue (.vltn d a b n m) (cmpEff d a b n m (fun x y => (decide (x.toNat < y.toNat), fNone))) s

/-- vle: s(A) ≤ s(B). -/
def execVle (d a b n m : Nat) (s : State) : Out :=
  issue (.vle d a b n m) (cmpEff d a b n m (fun x y => (decide (x.toInt ≤ y.toInt), fNone))) s

/-- Bits lo to hi − 1 of a word taken from v, the others from old. -/
def mergeBits (old v : Word) (lo hi : Nat) : Word :=
  let k := BitVec.ofNat 64 (2 ^ hi - 2 ^ lo)
  (old &&& ~~~ k) ||| (v &&& k)

/-- A mask destination written by an instruction of n = 8 (fold + 1) bits, from the beat that issues next on (R250,
R260). -/
def State.writeMask (s : State) (d fold : Nat) (v : Word) (t : Bool) : State :=
  s.onCtx (fun c =>
    let c1 := if c.vAct then c.vRead t else { c.vInit with vbeat := Word.setBit c.vInit.vbeat 36 (t || c.ctnt) }
    let c2 := { c1 with m := vset c1.m d (mergeBits (vget c1.m d 0) v (8 * c.vStart) (8 * (fold + 1))) }
    c2.endMask d fold false)

/-- A mask function of two masks. -/
def maskEff (d a b fold : Nat) (f : Word → Word → Word) (s : State) : Eff :=
  let x := s.ctx.readM a
  let y := s.ctx.readM b
  .ok (s.writeMask d fold (f x.1 y.1) (x.2 || y.2))

/-- mand: D := A & B. -/
def execMand (d a b n m : Nat) (s : State) : Out := issue (.mand d a b n m) (maskEff d a b n (· &&& ·)) s

/-- mor: D := A | B. -/
def execMor (d a b n m : Nat) (s : State) : Out := issue (.mor d a b n m) (maskEff d a b n (· ||| ·)) s

/-- mxor: D := A ^ B. -/
def execMxor (d a b n m : Nat) (s : State) : Out := issue (.mxor d a b n m) (maskEff d a b n (· ^^^ ·)) s

/-- mnot: D := ~A. -/
def execMnot (d a n m : Nat) (s : State) : Out := issue (.mnot d a n m) (maskEff d a a n (fun x _ => ~~~ x)) s

/-- Bits 0 to n − 1 of a mask, n = 8 (fold + 1). -/
def lowBits (v : Word) (fold : Nat) : Word := mergeBits 0 v 0 (8 * (fold + 1))

/-- A scalar function of a mask's n bits; an output port of D needs room (R249). -/
def maskToX (d a : Nat) (f : Word → Word) (s : State) : Eff :=
  if !vPorts [] (some d) s.tile then .wait .port s
  else okXd s d (f (s.ctx.readM a).1) (s.ctx.readM a).2

/-- mpop: the number of 1 bits. -/
def execMpop (d a n m : Nat) (s : State) : Out :=
  issue (.mpop d a n m) (maskToX d a (fun v => BitVec.ofNat 64 (popNat 64 (lowBits v n).toNat))) s

/-- mfirst: the index of the lowest 1 bit, or 64. -/
def execMfirst (d a n m : Nat) (s : State) : Out :=
  issue (.mfirst d a n m) (maskToX d a (fun v => BitVec.ofNat 64 (ctzNat 64 (lowBits v n).toNat))) s

/-- A scalar operand of a vector instruction: read before beat 0, and kept in REDACC after that (R250). `keep` lays
it out there. -/
def State.vScalar (s : State) (a : Nat) (kept : Ctx → Word) : Word × Bool × State :=
  if s.ctx.vAct then (kept s.ctx, s.ctx.vTnt, s) else s.readXs a

/-- P1 and P0 as a word. -/
def Ctx.vKept (c : Ctx) : Word := c.redacc.extractLsb' 0 64

/-- Keeps a scalar operand in P0, and a second one in P1. -/
def Ctx.vKeep (c : Ctx) (p0 p1 : Lane) (t : Bool) : Ctx := (((c.vInit).vSetPart 0 p0).vSetPart 1 p1).vRead t

/-- A mask function of one scalar, taken from a port at most once; REDACC keeps what `keep` makes of it (R250). -/
def xToMask (d a fold : Nat) (keep : Word → Word) (kept : Ctx → Word) (f : Word → Word) (s : State) : Eff :=
  if !s.ctx.vAct && !vPorts [a] none s.tile then .wait .port s
  else
    let r := s.vScalar a kept
    let k := keep r.1
    .ok ((r.2.2.writeMask d fold (f k) r.2.1).onCtx (fun c => (c.vSetPart 0 (lo32 k)).vSetPart 1 (lo32 (k >>> 32))))

/-- msetl: bit e is 1 where e < n(A). -/
def execMsetl (d a n m : Nat) (s : State) : Out :=
  issue (.msetl d a n m) (xToMask d a n (fun v => BitVec.ofNat 64 (min v.toNat 64))
    (fun c => (c.vPart 0).setWidth 64) (fun v => BitVec.ofNat 64 (2 ^ min v.toNat 64 - 1))) s

/-- mmov of mask to mask (R261). -/
def execMmovMm (d a n m : Nat) (s : State) : Out := issue (.mmovMm d a n m) (maskEff d a a n (fun x _ => x)) s

/-- mmov of a scalar to a mask (R261). -/
def execMmovXm (d a n m : Nat) (s : State) : Out := issue (.mmovXm d a n m) (xToMask d a n id Ctx.vKept id) s

/-- mmov of a mask to a scalar (R261). -/
def execMmovMx (d a n m : Nat) (s : State) : Out := issue (.mmovMx d a n m) (maskToX d a (fun v => lowBits v n)) s

/-! ### VRED (R262) -/

/-- A reduction: the step on one lane, exact sums apart; its flags; how D is formed; what an empty one gives. -/
structure RedOp where
  op : Int → Int → Int × FpFlags
  read : Lane → Int × FpFlags
  fin : Int → Word
  empty : Word
  wide : Bool := false

/-- The partial of lane i as an integer: 35 bits signed for an exact sum, else the lane's code (R250). -/
def Ctx.vPartial (c : Ctx) (wide : Bool) (i : Nat) : Int :=
  if wide then sextNat ((c.vPart i).toNat + Word.field c.vbeat (12 + 3 * i) 3 * 2 ^ 32) 35 else ((c.vPart i).toNat : Int)

def Ctx.vSetPartial (c : Ctx) (wide : Bool) (i : Nat) (v : Int) : Ctx :=
  let c1 := c.vSetPart i (BitVec.ofInt 32 v)
  if wide then { c1 with vbeat := Word.setField c1.vbeat (12 + 3 * i) 3 ((v / 2 ^ 32) % 8).toNat } else c1

def Ctx.vEmpty (c : Ctx) (i : Nat) : Bool := c.vbeat.getLsbD (4 + i)

/-- Beat j of a reduction into the lane partials. -/
def redBeat (o : RedOp) (d a msk fold j : Nat) (s : State) : Option State :=
  if !vPorts [a] (if j = fold then some d else none) s.tile then none
  else
    let ra := s.readBeat a j
    let c := ra.2.2.ctx
    let step := BitVec.ofNat 64 s.forme.k
    some (ra.2.2.onCtx (fun c0 =>
      (List.range 8).foldl (fun x i =>
        let e := 8 * j + i
        if c.participates msk e then
          let v := o.read (ra.1.getD i 0)
          let r := if x.vEmpty i then (v.1, fNone) else o.op (x.vPartial o.wide i) v.1
          let x1 := (x.vSetPartial o.wide i r.1).raiseFp step e (v.2 ||| r.2)
          { x1 with vbeat := Word.setBit x1.vbeat (4 + i) false }
        else x) (c0.vRead (ra.2.1 || c0.predTaint msk))))

/-- Two partials combined; an empty one yields the other. -/
def redPair (o : RedOp) (p q : Option Int × FpFlags) : Option Int × FpFlags :=
  match p.1, q.1 with
  | some x, some y => (some (o.op x y).1, (o.op x y).2 ||| p.2 ||| q.2)
  | some x, none => (some x, p.2 ||| q.2)
  | none, y => (y, p.2 ||| q.2)

/-- The tree ((0+1)+(2+3))+((4+5)+(6+7)). -/
def redTree (o : RedOp) (c : Ctx) : Option Int × FpFlags :=
  let p (i : Nat) : Option Int × FpFlags := (if c.vEmpty i then none else some (c.vPartial o.wide i), fNone)
  redPair o (redPair o (redPair o (p 0) (p 1)) (redPair o (p 2) (p 3)))
    (redPair o (redPair o (p 4) (p 5)) (redPair o (p 6) (p 7)))

/-- The last step of a reduction writes D. An exception of the tree is no element's: where an element has raised an enabled
one, FPX names the lowest such element (R255), and else the element that it names is free (log entry 15). -/
def redFin (o : RedOp) (d : Nat) (s : State) : State :=
  let r := redTree o s.ctx
  let elem := match s.ctx.fpx with
    | some p => p.elem
    | none => (s.drawn 0).toNat % 64
  let s1 := (s.onCtx (fun c => c.raiseFp (BitVec.ofNat 64 s.forme.k) elem r.2)).spend 1
  s1.writeXd d (match r.1 with
    | some v => o.fin v
    | none => o.empty) (s1.ctx.vTnt || s1.ctx.ctnt)

/-- Beat 0 of a reduction is about to issue: every lane partial stands at the identity (R262). -/
def Ctx.redInit (c : Ctx) (o : RedOp) : Ctx :=
  if c.vAct then c
  else (List.range 8).foldl (fun c i => c.vSetPart i (o.empty.setWidth 32)) c.vInit

def redEff (o : RedOp) (d a n m : Nat) (s : State) : Eff :=
  let j0 := s.ctx.vStart
  match beatsFrom (redBeat o d a m n) (n + 1 - j0) j0 (s.onCtx (fun c => c.redInit o)) with
  | (s', none) => .ok (redFin o d s').closeFpx
  | (s', some j) => if j = j0 then .wait .port s else .wait .port s'.noteIssued

/-- A code as the integer it stands for in REDACC. -/
def redCode (l : Lane) : Int × FpFlags := ((l.toNat : Int), fNone)

/-- A signalling NaN raises NV where it is read. -/
def redSig (l : Lane) : Int × FpFlags := ((l.toNat : Int), if (fmtF32.decode l.toNat).sig then fNV else fNone)

/-- An f32 result, a NaN in its canonical form (R253). -/
def redF32 (v : Int) : Word := BitVec.ofNat 64 (if (fmtF32.decode v.toNat).isNan then fmtF32.qnan else v.toNat)

def intPair (p : Nat × FpFlags) : Int × FpFlags := ((p.1 : Int), p.2)

/-- vfsum: every step rounded by RND. -/
def execVfsum (d a n m : Nat) (s : State) : Out :=
  issue (.vfsum d a n m) (fun s => redEff
    { op := fun x y => intPair (fAdd fmtF32 (payRND s.ctx.pay) (fmtF32.decode x.toNat) (fmtF32.decode y.toNat))
      read := redCode, fin := redF32, empty := 0 } d a n m s) s

/-- vfrmax. -/
def execVfrmax (d a n m : Nat) (s : State) : Out :=
  issue (.vfrmax d a n m) (redEff
    { op := fun x y => intPair (fMax fmtF32 x.toNat y.toNat), read := redSig, fin := redF32, empty := 0xFF800000 } d a n m) s

/-- vfrmin. -/
def execVfrmin (d a n m : Nat) (s : State) : Out :=
  issue (.vfrmin d a n m) (redEff
    { op := fun x y => intPair (fMin fmtF32 x.toNat y.toNat), read := redSig, fin := redF32, empty := 0x7F800000 } d a n m) s

/-- vrsum: the exact sum, 64 bits. -/
def execVrsum (d a n m : Nat) (s : State) : Out :=
  issue (.vrsum d a n m) (redEff
    { op := fun x y => (x + y, fNone), read := fun l => (l.toInt, fNone), fin := fun v => BitVec.ofInt 64 v
      empty := 0, wide := true } d a n m) s

/-- vrmax: signed. -/
def execVrmax (d a n m : Nat) (s : State) : Out :=
  issue (.vrmax d a n m) (redEff
    { op := fun x y => (if sextNat x.toNat 32 < sextNat y.toNat 32 then y else x, fNone), read := redCode
      fin := fun v => sext v.toNat 32, empty := sext 0x80000000 32 } d a n m) s

/-- vrmin: signed. -/
def execVrmin (d a n m : Nat) (s : State) : Out :=
  issue (.vrmin d a n m) (redEff
    { op := fun x y => (if sextNat y.toNat 32 < sextNat x.toNat 32 then y else x, fNone), read := redCode
      fin := fun v => sext v.toNat 32, empty := 0x7FFFFFFF } d a n m) s

/-- vrand. -/
def execVrand (d a n m : Nat) (s : State) : Out :=
  issue (.vrand d a n m) (redEff
    { op := fun x y => (((x.toNat &&& y.toNat : Nat) : Int), fNone), read := redCode, fin := fun v => BitVec.ofNat 64 v.toNat
      empty := 0xFFFFFFFF } d a n m) s

/-- vror. -/
def execVror (d a n m : Nat) (s : State) : Out :=
  issue (.vror d a n m) (redEff
    { op := fun x y => (((x.toNat ||| y.toNat : Nat) : Int), fNone), read := redCode, fin := fun v => BitVec.ofNat 64 v.toNat
      empty := 0 } d a n m) s

/-! ### VPERM (R263) -/

/-- Elements of a vector register, e from 0 to 63. -/
def Ctx.velems (c : Ctx) (n : Nat) : List Lane := (List.range 64).map (fun e => (c.readVElem n e).1)

/-- A cross-beat permutation: every source beat is read before a result is written, so it starts afresh at beat 0;
f gives element e. -/
def permEff (d fold msk : Nat) (t : Bool) (f : Nat → Lane) (s : State) : Eff :=
  let c := s.ctx
  let old := c.vTaint d
  let kept := c.someOff msk fold
  let tt := t || c.predTaint msk
  let s0 := s.onCtx (fun c => { c with vbeat := BitVec.ofNat 64 (if tt || c.ctnt then 2 ^ 36 else 0) })
  let s1 := (List.range (fold + 1)).foldl (fun s j =>
    s.writeBeat d j ((List.range 8).map (fun i => (f (8 * j + i), c.participates msk (8 * j + i)))) tt) s0
  .ok (s1.onCtx (fun c => c.endVec d fold old kept))

/-- vslu: D[e] := A[e − s], else 0. -/
def execVslu (d a b n m : Nat) (s : State) : Out :=
  issue (.vslu d a b n m) (fun s =>
    let xs := s.ctx.velems a
    let k := min (s.ctx.readX b).1.toNat 64
    permEff d n m ((s.ctx.readVElem a 0).2 || (s.ctx.readX b).2) (fun e => if k ≤ e then xs.getD (e - k) 0 else 0) s) s

/-- vsld: D[e] := A[e + s] where e + s < n, else 0. -/
def execVsld (d a b n m : Nat) (s : State) : Out :=
  issue (.vsld d a b n m) (fun s =>
    let xs := s.ctx.velems a
    let k := min (s.ctx.readX b).1.toNat 64
    permEff d n m ((s.ctx.readVElem a 0).2 || (s.ctx.readX b).2)
      (fun e => if e + k < 8 * (n + 1) then xs.getD (e + k) 0 else 0) s) s

/-- vperm: D[e] := A[B[e][5:0]] where that is below n, else 0. -/
def execVperm (d a b n m : Nat) (s : State) : Out :=
  issue (.vperm d a b n m) (fun s =>
    let xs := s.ctx.velems a
    let ks := s.ctx.velems b
    permEff d n m ((s.ctx.readVElem a 0).2 || (s.ctx.readVElem b 0).2)
      (fun e => let k := (ks.getD e 0).toNat % 64
        if k < 8 * (n + 1) then xs.getD k 0 else 0) s) s

/-- vzip: A and B interleaved. -/
def execVzip (d a b n m : Nat) (s : State) : Out :=
  issue (.vzip d a b n m) (fun s =>
    let xs := s.ctx.velems a
    let ys := s.ctx.velems b
    permEff d n m ((s.ctx.readVElem a 0).2 || (s.ctx.readVElem b 0).2)
      (fun e => (if e % 2 = 0 then xs else ys).getD (e / 2) 0) s) s

/-- vunzip: the even elements of A then B. -/
def execVunzip (d a b n m : Nat) (s : State) : Out :=
  issue (.vunzip d a b n m) (fun s =>
    let cs := (s.ctx.velems a).take (8 * (n + 1)) ++ (s.ctx.velems b).take (8 * (n + 1))
    permEff d n m ((s.ctx.readVElem a 0).2 || (s.ctx.readVElem b 0).2) (fun e => cs.getD (2 * e) 0) s) s

/-- vext: one element as a scalar; lr is not written. -/
def execVext (d a b n m : Nat) (s : State) : Out :=
  issue (.vext d a b n m) (fun s =>
    if !vPorts [] (some d) s.tile then .wait .port s
    else
      let k := (s.ctx.readX b).1.toNat % 64
      let v := s.ctx.readVElem a k
      okXd s d (if k < 8 * (n + 1) then v.1.setWidth 64 else 0) (v.2 || (s.ctx.readX b).2)) s

/-- Beat j of vsplat, its scalar in P0. -/
def splatBeat (d msk j : Nat) (s : State) : Option State :=
  if !vPorts [] (some d) s.tile then none
  else
    let c := s.ctx
    let t := c.vTnt || c.predTaint msk
    some (((s.onCtx (fun c => c.vRead t)).writeBeat d j
      ((List.range 8).map (fun i => (c.vPart 0, c.participates msk (8 * j + i)))) t).onCtx (fun c => c.taintRun d))

/-- vsplat: D[e] := A[31:0]. Beat 0 reads A and issues together with it (R249, R250). -/
def execVsplat (d a n m : Nat) (s : State) : Out :=
  issue (.vsplat d a n m) (fun s =>
    let old := d < 40 && s.ctx.vTaint d
    let kept := s.ctx.someOff m n
    let fin (s : State) : State := s.onCtx (fun c => c.endVec d n old kept)
    if s.ctx.vAct then runBeats n (splatBeat d m) fin s
    else if !vPorts [a] (some d) s.tile then .wait .port s
    else
      let r := s.readXs a
      let s1 := r.2.2.onCtx (fun c => c.vKeep (lo32 r.1) 0 r.2.1)
      match beatsFrom (splatBeat d m) (n + 1) 0 s1 with
      | (s', none) => .ok (fin s')
      | (s', some _) => .wait .port s'.noteIssued) s

/-- vins: D[B[5:0]] := A[31:0]; no other element changes. -/
def execVins (d a b n m : Nat) (s : State) : Out :=
  issue (.vins d a b n m) (fun s =>
    if !s.ctx.vAct && !vPorts [a] none s.tile then .wait .port s
    else
      let j0 := s.ctx.vStart
      let act := s.ctx.vAct
      let r := s.vScalar a Ctx.vKept
      let k := (if act then (s.ctx.vPart 1).toNat else (s.ctx.readX b).1.toNat) % 64
      let t := r.2.1 || (!act && (s.ctx.readX b).2)
      let s1 := r.2.2.onCtx (fun c => c.vKeep (lo32 r.1) (BitVec.ofNat 32 k) (t || c.predTaint m))
      let old := s1.ctx.vTaint d
      let c := s1.ctx
      let s2 := (List.range (n + 1 - j0)).foldl (fun s i =>
        let j := j0 + i
        s.writeBeat d j ((List.range 8).map (fun i =>
          (lo32 r.1, 8 * j + i == k && c.participates m (8 * j + i)))) t) s1
      .ok (s2.onCtx (fun c => c.endVec d n old true))) s

/-! ### VCVT (R264, R265) -/

/-- A VCVT type code as a type of Table 8-16. -/
def vty (t : Nat) : VTy :=
  if t = tyF32 ∨ t = tyF16 ∨ t = tyBf16 then .flt (fltFmt t) else .int (intWidth t) (intSigned t)

/-- A type field of the payload, or its default. -/
def orTy (t dflt : Nat) : Nat := if t = 0 then dflt else t

/-- The conversion of a prefix's types on one source value. -/
def cvtBy (pay : Word) (dta dtd : Nat) (v : Nat) : Nat × FpFlags :=
  convert (vty (orTy (payTA pay) dta)) (vty (orTy (payTD pay) dtd)) (payRND pay) (paySAT pay) v

/-- vcvt: from TA (default i32) to TD (default f32). -/
def execVcvt (d a n m : Nat) (s : State) : Out :=
  issue (.vcvt d a n m) (fun s => VecOp.eff
    { d := d, a := a, fold := n, msk := m, f := fun _ x _ _ => (BitVec.ofNat 32 (cvtBy s.ctx.pay tyI32 tyF32 x.toNat).1, (cvtBy s.ctx.pay tyI32 tyF32 x.toNat).2) } s) s

/-- vpack: the conversions of A and B in one element. -/
def execVpack (d a b n m : Nat) (s : State) : Out :=
  issue (.vpack d a b n m) (fun s => VecOp.eff
    { d := d, a := a, b := some b, fold := n, msk := m, f := fun _ x y _ =>
        let p := cvtBy s.ctx.pay tyF32 tyBf16 x.toNat
        let q := cvtBy s.ctx.pay tyF32 tyBf16 y.toNat
        (BitVec.ofNat 32 (p.1 + q.1 * 2 ^ 16), p.2 ||| q.2) } s) s

/-- vunpk: converts half h of each element. -/
def execVunpk (d a h n m : Nat) (s : State) : Out :=
  issue (.vunpk d a h n m) (fun s => VecOp.eff
    { d := d, a := a, fold := n, msk := m, f := fun _ x _ _ =>
        let p := cvtBy s.ctx.pay tyBf16 tyF32 (x.toNat / 2 ^ (16 * h) % 2 ^ 16)
        (BitVec.ofNat 32 p.1, p.2) } s) s

end Sys2Proof.Machine
end

