-- ==== Sys2Proof/Machine/Narrow.lean ====
section
/-! DEFINITION. Narrow formats and the signed block Hadamard rotation (R270 to R293): code sets, scale words, the
forward and the inverse rotation, pfx and the four instructions of major VQNT. -/

namespace Sys2Proof.Machine

/-! ### Code sets (Tables 9-1, 9-2, 9-9, 9-16) -/

/-- A code set: 8-bit floats, 8-bit integers, or a k4 meaning. -/
inductive Codes where
  | e4m3 | e5m2 | i8 | uni | e2m1 | pow | hyb
deriving DecidableEq, Repr

/-- The code set of a type code, with the KTYPE of the scale word for k4. -/
def codesOf (t ktype : Nat) : Codes :=
  if t = tyE4m3 then .e4m3 else if t = tyE5m2 then .e5m2 else if t = tyI8 then .i8
  else match ktype with
    | 0 => .uni
    | 1 => .e2m1
    | 2 => .pow
    | _ => .hyb

def Codes.width : Codes → Nat
  | .e4m3 | .e5m2 | .i8 => 8
  | _ => 4

/-- Exponent of the finest step u (Table 9-9). -/
def Codes.step : Codes → Int
  | .e4m3 => -9
  | .e5m2 => -16
  | .e2m1 => -1
  | .pow => -6
  | _ => 0

/-- The codes are two's complement. -/
def Codes.twos : Codes → Bool
  | .i8 | .uni => true
  | _ => false

/-- Magnitude number i of the set in steps of u; the number past the largest is the continued value. -/
def Codes.mag (c : Codes) (i : Nat) : Nat :=
  match c with
  | .e4m3 => if i < 8 then i else (8 + i % 8) * 2 ^ (i / 8 - 1)
  | .e5m2 => if i < 4 then i else (4 + i % 4) * 2 ^ (i / 4 - 1)
  | .i8 | .uni => i
  | .e2m1 => [0, 1, 2, 3, 4, 6, 8, 12, 16].getD i 0
  | .pow => if i = 0 then 0 else 2 ^ (i - 1)
  | .hyb => [0, 1, 2, 3, 4, 6, 8, 12, 16].getD i 0

/-- Number of the largest magnitude of a sign. -/
def Codes.top (c : Codes) (neg : Bool) : Nat :=
  match c with
  | .e4m3 => 126
  | .e5m2 => 123
  | .i8 => if neg then 128 else 127
  | .uni => if neg then 8 else 7
  | _ => 7

/-- QMAX (Table 9-12), in steps of u. -/
def Codes.qmax (c : Codes) : Nat := c.mag (c.top false)

/-- The code of magnitude number i; −0 is never produced (R273). -/
def Codes.code (c : Codes) (neg : Bool) (i : Nat) : Nat :=
  if c.twos then (if neg then 2 ^ c.width - i else i) % 2 ^ c.width
  else if neg && i != 0 then 2 ^ (c.width - 1) + i else i

/-- The canonical NaN code, or 0 for a set that has none. -/
def Codes.nan : Codes → Nat
  | .e4m3 => 0x7F
  | .e5m2 => 0x7E
  | _ => 0

/-- The nonnegative quantity num / den, in steps of u, converted (R273): code and flags. -/
def Codes.convert (c : Codes) (sat neg : Bool) (num den : Nat) : Nat × FpFlags :=
  let top := c.top neg
  let i := (List.range (top + 1)).foldl (fun b k => if c.mag k * den ≤ num then k else b) 0
  let lo := c.mag i * den
  let hi := c.mag (i + 1) * den
  let k := if num = lo then i
    else if 2 * num < lo + hi then i
    else if lo + hi < 2 * num then i + 1
    else if i % 2 = 0 then i else i + 1
  if top < k then
    (if sat && (c == .e4m3 || c == .e5m2) then c.nan else c.code neg top, fOF ||| fNX)
  else (c.code neg k, if num = c.mag k * den then fNone else fNX)

/-- A decoded code: NaN, infinity, or an integer of steps of u. -/
inductive CVal where
  | nan
  | inf (neg : Bool)
  | int (v : Int)
deriving DecidableEq, Repr

/-- Decodes a code. -/
def Codes.decode (c : Codes) (v : Nat) : CVal :=
  let w := c.width
  let neg := v / 2 ^ (w - 1) % 2 == 1
  let m := v % 2 ^ (w - 1)
  if c.twos then .int (sextNat v w)
  else if c == .e4m3 && m == 0x7F then .nan
  else if c == .e5m2 && 0x7C < m then .nan
  else if c == .e5m2 && m == 0x7C then .inf neg
  else .int (if neg then -((c.mag m : Nat) : Int) else ((c.mag m : Nat) : Int))

/-! ### Scale words (Table 9-3) -/

def swKtype (w : Nat) : Nat := w / 2 ^ 14 % 4
def swTag (w : Nat) : Nat := w / 2 ^ 10 % 16
def swE (w : Nat) : Nat := w / 2 ^ 3 % 128
def swM (w : Nat) : Nat := w % 8
def swZero (w : Nat) : Bool := swE w == 0 && swM w == 0
def swBad (w : Nat) : Bool := swE w == 0 && swM w != 0
def swNan (w : Nat) : Bool := swE w == 127 && swM w == 7

/-- The scale is (8 + M) × 2^(E − 66) (R274). -/
def swMant (w : Nat) : Nat := 8 + swM w
def swExp (w : Nat) : Int := (swE w : Int) - 66

def scaleWord (ktype tag e m : Nat) : Nat := ktype * 2 ^ 14 + tag * 2 ^ 10 + e * 8 + m

/-! ### Seeds (R278) -/

/-- Mask and length of a seed entry of a forme; none where it is unloaded. Entry 0 is the identity. -/
def Forme.seed (f : Forme) (t : Nat) : Option (Word × Nat) :=
  if t = 0 then some (0, 1)
  else (f.img.seeds.find? (fun x => x.1 == t)).map (fun x => (x.2.1, if x.2.2 then 64 else 16))

/-- The block length of a tag (R281). -/
def blockLen (qctl : Word) (t r : Nat) : Nat := if t = 0 then (if qctl.getLsbD 2 then 64 else 16) else r

/-! ### The rotation (R281 to R284) -/

/-- One butterfly stage of half-width h. -/
def stage (h : Nat) (q : List Int) : List Int :=
  (List.range q.length).map (fun i =>
    if i / h % 2 = 0 then q.getD i 0 + q.getD (i + h) 0 else q.getD (i - h) 0 - q.getD i 0)

/-- Every stage of a block of 16 or 64. -/
def butterfly (q : List Int) : List Int :=
  let p := stage 8 (stage 4 (stage 2 (stage 1 q)))
  if q.length = 64 then stage 32 (stage 16 p) else p

/-- Half the log2 of the rotation length. -/
def halfLog (l : Nat) : Nat := if l = 64 then 3 else 2

/-- The elements that the mask of a seed negates. -/
def signed (mask : Word) (q : List Int) : List Int :=
  (q.zipIdx).map (fun p => if mask.getLsbD p.2 then -p.1 else p.1)

/-- The outcome of a forward rotation: a NaN input block, or exact values q × 2^x with the alignment's inexact marks. -/
inductive Fwd where
  | nan
  | vals (ys : List (Int × Int)) (inexact : List Bool)
deriving DecidableEq, Repr

/-- A finite f32 value as signed mantissa and exponent. -/
def f32Exact (v : Lane) : Option (Int × Int) :=
  match fmtF32.decode v.toNat with
  | .fin n m x => some (if n then -((m : Nat) : Int) else ((m : Nat) : Int), x)
  | _ => none

/-- The forward rotation of a block under tag t (R281). -/
def forward (t : Nat) (mask : Word) (xs : List Lane) : Fwd :=
  let vs := xs.map f32Exact
  if vs.any Option.isNone then .nan
  else
    let vs := vs.map (fun v => v.getD (0, 0))
    if t = 0 then .vals vs (vs.map (fun _ => false))
    else
      if vs.all (fun v => v.1 == 0) then .vals (vs.map (fun _ => (0, 0))) (vs.map (fun _ => false))
      else
        -- exp(v) = x + 23, for a subnormal too
        let emax : Int := (vs.filter (fun v => v.1 != 0)).foldl (fun m v => max m (v.2 + 23)) (-126)
        let qs := vs.map (fun v =>
          let k : Int := emax - 25 - v.2
          let r := if k ≤ 0 then (v.1.natAbs * 2 ^ (-k).toNat, false) else rshiftRound 0 false v.1.natAbs k.toNat false
          ((if v.1 < 0 then -((r.1 : Nat) : Int) else ((r.1 : Nat) : Int)), r.2))
        let l := xs.length
        .vals ((butterfly (signed mask (qs.map (·.1)))).map (fun q => (q, emax - 25 - halfLog l))) (qs.map (·.2))

/-- An exact value q × 2^x rounded to f32 (RNE); an exact zero is +0. -/
def roundF32 (q x : Int) : Lane × FpFlags :=
  let r := fmtF32.ofExact 0 0 q x false
  (BitVec.ofNat 32 r.1, r.2)

def nanF32 : Lane := 0x7FC00000

/-- The inverse rotation of the decoded codes of a block whose scale is mant × 2^x (R283, R284): values and flags. -/
def inverse (t : Nat) (mask : Word) (c : Codes) (mant : Nat) (x : Int) (zs : List CVal) : List (Lane × FpFlags) :=
  if t = 0 then
    zs.map (fun z => match z with
      | .nan => (nanF32, fNone)
      | .inf n => (BitVec.ofNat 32 (fmtF32.infCode n), fNone)
      | .int v => roundF32 (v * mant) (c.step + x))
  else if zs.any (fun z => match z with
      | .int _ => false
      | _ => true) then zs.map (fun _ => (nanF32, fNone))
  else
    let q := zs.map (fun z => match z with
      | .int v => v
      | _ => 0)
    (signed mask (butterfly q)).map (fun v => roundF32 (v * mant) (c.step + x - halfLog zs.length))

/-! ### Packing (R287) -/

/-- Code i, of width w, of a code register. -/
def Ctx.codeAt (c : Ctx) (r w i : Nat) : Nat := (c.readVElem r (i * w / 32)).1.toNat / 2 ^ (i * w % 32) % 2 ^ w

/-- Scale word j of a register. -/
def Ctx.scaleAt (c : Ctx) (r j : Nat) : Nat := (c.readVElem r (j / 2)).1.toNat / 2 ^ (16 * (j % 2)) % 2 ^ 16

/-- Codes of width w packed into elements; an element that the codes fill in part keeps its other bits. -/
def packCodes (w : Nat) (old : Nat → Lane) (cs : List Nat) : List Lane :=
  let per := 32 / w
  (List.range ((cs.length + per - 1) / per)).map (fun e =>
    (List.range per).foldl (fun v k =>
      match cs[e * per + k]? with
      | some c => BitVec.ofNat 32 (v.toNat % 2 ^ (w * k) + c % 2 ^ w * 2 ^ (w * k) + v.toNat / 2 ^ (w * (k + 1)) * 2 ^ (w * (k + 1)))
      | none => v) (old e))

/-- Writes elements 0 on of D with the flags that their elements raise, and lr (R293). `flags` pairs an element number
with what it raises. -/
def vqWrite (d : Nat) (vs : List Lane) (whole : Bool) (flags : List (Nat × FpFlags)) (t : Bool) (s : State) : Eff :=
  let old := s.ctx.vTaint d
  let step := BitVec.ofNat 64 s.forme.k
  let s1 := s.onCtx (fun c =>
    let c1 := flags.foldl (fun c p => c.raiseFp step p.1 p.2) c
    let c2 := (vs.zipIdx).foldl (fun c p => c.writeVElem d p.2 p.1) c1
    let tt := t || c.ctnt
    let kept := !(whole && (vs.length == 64 || (32 ≤ d && vs.length == 8)))
    let c3 := c2.taintV d (tt || (kept && old))
    let beats := (vs.length + 7) / 8
    { c3 with
      lr := (List.range 64).foldl (fun l e => vset l e (if e < 8 * beats then (c3.readVElem d e).1 else 0)) c3.lr
      taint := { c3.taint with lr := tt || ((!whole || vs.length % 8 != 0) && old) } })
  .ok s1.closeFpx

/-! ### The instructions -/

/-- A pfx at PC has no instruction to stand before: it is the last word of an active loop's body, or the slot behind it in a
modulo loop does not run in this pass (R86, R91). -/
def Ctx.pfxAlone (c : Ctx) : Bool :=
  c.loops.any (fun l => l.atLast c.pc) || c.loops.head?.any (fun l => l.modulo && nextSlot l (l.j + 1) != some (l.j + 1))

/-- pfx (R275): PFXP and PFXPAY; the pending prefix is for the next instruction, and for none where the pfx has none to stand
before. -/
def execPfx (d a b t r s : Nat) (st : State) : Out :=
  issue (.pfx d a b t r s) (fun st => .ok (st.onCtx (fun c =>
    { (c.setStat stPFXP true) with
      pfxpay := BitVec.ofNat 64 (d * 2 ^ 15 + a * 2 ^ 11 + b * 2 ^ 7 + t * 2 ^ 3 + r * 2 + s)
      csrTaint := bvSet c.csrTaint 0x12 false
      pfxNext := some (c.pc + 4)
      pfxLost := c.pfxAlone }))) st

/-- Taint of the tag of a VQNT instruction, and of what its fault tells of its scale words. -/
def State.tagTaint (s : State) (i : Instr) : BitVec 3 :=
  let b := match i with
    | .vqnt _ _ b _ _ | .vdqt _ _ b _ _ => s.ctx.vTaint b
    | _ => false
  (if s.ctx.csrTaint.getLsbD 0x12 || (payRTAG s.ctx.pay == 0 && b) then 1 else 0) ||| (if b then 2 else 0)

/-- A fault of R288: TVAL the word, INFO0 the tag, then the block, and n with the length; what the case does not concern is
free (log entry 15). -/
def vqFault (i : Instr) (code : BitVec 8) (t : Nat) (j : Option Nat) (n : Nat) (l : Option Nat) (s : State) : Eff :=
  .raiseIn
    { s.exc code (instrWord i) 0 (BitVec.ofNat 64 t) ((j.map (BitVec.ofNat 64)).getD (s.drawn 0))
        (BitVec.ofNat 64 (n * 2 ^ 16 + (l.getD ((s.drawn 1).toNat % 2 ^ 16)))) with
      infoT := s.tagTaint i }
    (s.spend 2)

/-- The tag and lengths of a VQNT instruction of n elements (R288): SEEDF, then BLKF. `byR` says that the lengths go by
the rotation length. f takes the mask, R and L. -/
def withTag (i : Instr) (t n : Nat) (byR : Bool) (f : Word → Nat → Nat → State → Eff) (s : State) : Eff :=
  match s.forme.seed t with
  | none => vqFault i cSEEDF t none n none s
  | some (mask, r) =>
    let l := blockLen s.ctx.qctl t r
    let k := if byR then r else l
    if n % k ≠ 0 then vqFault i cBLKF t none n (some k) s else f mask r l s

/-- The checks of the scale words of vqnt and vdqt (R288), block after block. -/
def checkScales (i : Instr) (ws : List Nat) (t n l w : Nat) (f : State → Eff) (s : State) : Eff :=
  match (ws.zipIdx).find? (fun p => swTag p.1 != t || swBad p.1 || (w == 8 && swKtype p.1 != 0)) with
  | some p => vqFault i (if swTag p.1 ≠ t then cTAGMM else cFMTF) t (some p.2) n (some l) s
  | none => f s

/-- Elements jl to jl + l − 1 of a source. -/
def Ctx.block (c : Ctx) (a j l : Nat) : List Lane := (List.range l).map (fun i => (c.readVElem a (j * l + i)).1)

/-- a1 × 2^x1 ≤ a2 × 2^x2. -/
def leExp (a1 : Nat) (x1 : Int) (a2 : Nat) (x2 : Int) : Bool :=
  let x := min x1 x2
  a1 * 2 ^ (x1 - x).toNat ≤ a2 * 2 ^ (x2 - x).toNat

/-- The scale word of one block (R289) and its flags. -/
def chooseScale (ktype t : Nat) (c : Codes) (y : Fwd) : Nat × FpFlags :=
  match y with
  | .nan => (scaleWord ktype t 127 7, fNV)
  | .vals ys _ =>
    let m := ys.foldl (fun (b : Nat × Int) v => if leExp v.1.natAbs v.2 b.1 b.2 then b else (v.1.natAbs, v.2)) (0, 0)
    if m.1 = 0 then (scaleWord ktype t 0 0, fNone)
    else
      match (List.range 1023).find? (fun k => 8 ≤ k && leExp m.1 m.2 ((8 + k % 8) * c.qmax) ((k / 8 : Nat) - 66 + c.step)) with
      | some k => (scaleWord ktype t (k / 8) (k % 8), fNone)
      | none => (scaleWord ktype t 127 6, fOF)

/-- vscl (R289). -/
def execVscl (d a n m : Nat) (s : State) : Out :=
  issue (.vscl d a n m) (fun s =>
    let t := payRTAG s.ctx.pay
    let n8 := 8 * (n + 1)
    withTag (.vscl d a n m) t n8 false (fun mask _ l s =>
      let ty := orTy (payTD s.ctx.pay) tyE4m3
      let k := if ty = tyK4 then Word.field s.ctx.qctl 0 2 else 0
      let ws := (List.range (n8 / l)).map (fun j => chooseScale k t (codesOf ty k) (forward t mask (s.ctx.block a j l)))
      vqWrite d (packCodes 16 (fun e => (s.ctx.readVElem d e).1) (ws.map (·.1))) false
        ((ws.zipIdx).map (fun p => (p.2 * l, p.1.2))) (s.ctx.readVElem a 0).2 s) s) s

/-- The codes of one block (R290): each with the flags of its element. An exception of the block as a whole is put on its first
element, and one of the alignment of an element on that element (log entry 39). -/
def quantBlock (c : Codes) (sat : Bool) (sw : Nat) (xs : List Lane) (y : Fwd) : List (Nat × FpFlags) :=
  let nans := (xs.zipIdx).map (fun p => (c.nan, if p.2 = 0 then fNV else fNone))
  match y with
  | .nan => nans
  | .vals ys inx =>
    if swNan sw then nans
    else if swZero sw then xs.map (fun x => (0, if x.toNat % 2 ^ 31 = 0 then fNone else fNX))
    else
      (ys.zip inx).map (fun p =>
        -- y / s in steps of u: q × 2^(x − E + 66 − u) / (8 + M)
        let e := p.1.2 - swExp sw - c.step
        let num := if 0 ≤ e then p.1.1.natAbs * 2 ^ e.toNat else p.1.1.natAbs
        let den := if 0 ≤ e then swMant sw else swMant sw * 2 ^ (-e).toNat
        let r := c.convert sat (p.1.1 < 0) num den
        (r.1, if p.2 then r.2 ||| fNX else r.2))

/-- vqnt (R290). -/
def execVqnt (d a b n m : Nat) (s : State) : Out :=
  issue (.vqnt d a b n m) (fun s =>
    let pay := s.ctx.pay
    let t := if payRTAG pay ≠ 0 then payRTAG pay else swTag (s.ctx.scaleAt b 0)
    let n8 := 8 * (n + 1)
    withTag (.vqnt d a b n m) t n8 false (fun mask _ l s =>
      let ty := orTy (payTD pay) tyE4m3
      let w := if ty = tyK4 then 4 else 8
      let ws := (List.range (n8 / l)).map (s.ctx.scaleAt b)
      checkScales (.vqnt d a b n m) ws t n8 l w (fun s =>
        let cs := (ws.zipIdx).flatMap (fun p =>
          let xs := s.ctx.block a p.2 l
          quantBlock (codesOf ty (swKtype p.1)) (paySAT pay) p.1 xs (forward t mask xs))
        vqWrite d (packCodes w (fun e => (s.ctx.readVElem d e).1) (cs.map (·.1))) true
          ((cs.zipIdx).map (fun p => (p.2, p.1.2))) ((s.ctx.readVElem a 0).2 || (s.ctx.readVElem b 0).2) s) s) s) s

/-- The values of one block (R291). -/
def dequantBlock (c : Codes) (t : Nat) (mask : Word) (sw : Nat) (codes : List Nat) : List (Lane × FpFlags) :=
  if swZero sw then codes.map (fun _ => (0, fNone))
  else if swNan sw then codes.map (fun _ => (nanF32, fNone))
  else inverse t mask c (swMant sw) (swExp sw) (codes.map c.decode)

/-- vdqt (R291). -/
def execVdqt (d a b n m : Nat) (s : State) : Out :=
  issue (.vdqt d a b n m) (fun s =>
    let pay := s.ctx.pay
    let t := if payRTAG pay ≠ 0 then payRTAG pay else swTag (s.ctx.scaleAt b 0)
    let n8 := 8 * (n + 1)
    withTag (.vdqt d a b n m) t n8 false (fun mask _ l s =>
      let ty := orTy (payTA pay) tyE4m3
      let w := if ty = tyK4 then 4 else 8
      let ws := (List.range (n8 / l)).map (s.ctx.scaleAt b)
      checkScales (.vdqt d a b n m) ws t n8 l w (fun s =>
        let vs := (ws.zipIdx).flatMap (fun p =>
          dequantBlock (codesOf ty (swKtype p.1)) t mask p.1 ((List.range l).map (fun i => s.ctx.codeAt a w (p.2 * l + i))))
        vqWrite d (vs.map (·.1)) true ((vs.zipIdx).map (fun p => (p.2, p.1.2)))
          ((s.ctx.readVElem a 0).2 || (s.ctx.readVElem b 0).2) s) s) s) s

/-- One group of vrot (R292): values and flags. -/
def rotGroup (inv : Bool) (t : Nat) (mask : Word) (xs : List Lane) : List (Lane × FpFlags) :=
  if t = 0 then
    xs.map (fun x => match fmtF32.decode x.toNat with
      | .nan sig => (nanF32, if sig then fNV else fNone)
      | _ => (x, fNone))
  else
    let nans := (xs.zipIdx).map (fun p => (nanF32, if p.2 = 0 then fNV else fNone))
    if inv then
      if (xs.map f32Exact).any Option.isNone then nans
      else
        let vs := xs.map (fun x => (f32Exact x).getD (0, 0))
        let e := vs.foldl (fun m v => min m v.2) 104
        let q := vs.map (fun v => v.1 * (2 : Int) ^ (v.2 - e).toNat)
        (signed mask (butterfly q)).map (fun v => roundF32 v (e - halfLog xs.length))
    else match forward t mask xs with
      | .nan => nans
      | .vals ys inx => (ys.zip inx).map (fun p =>
          let r := roundF32 p.1.1 p.1.2
          (r.1, if p.2 then r.2 ||| fNX else r.2))

/-- The effect of vrot in a direction. -/
def rotEff (i : Instr) (inv : Bool) (d a n : Nat) (s : State) : Eff :=
  let t := payRTAG s.ctx.pay
  let n8 := 8 * (n + 1)
  withTag i t n8 true (fun mask r _ s =>
    let vs := (List.range (n8 / r)).flatMap (fun j => rotGroup inv t mask (s.ctx.block a j r))
    vqWrite d (vs.map (·.1)) true ((vs.zipIdx).map (fun p => (p.2, p.1.2))) (s.ctx.readVElem a 0).2 s) s

/-- vrot, forward (R292). -/
def execVrotFwd (d a n m : Nat) (s : State) : Out :=
  issue (.vrotFwd d a n m) (rotEff (.vrotFwd d a n m) false d a n) s

/-- vrot, inverse (R292). -/
def execVrotInv (d a n m : Nat) (s : State) : Out :=
  issue (.vrotInv d a n m) (rotEff (.vrotInv d a n m) true d a n) s

end Sys2Proof.Machine
end

