-- ==== Sys2Proof/Machine/MatrixQueue.lean ====
section
/-! DEFINITION. Commands of the matrix unit (R294 to R302, R315): their layout, the checks that they take at issue,
the queue, and the queue window that turns ordinary stores into commands. -/

namespace Sys2Proof.Machine

/-! ### Commands (Table 10-2) -/

def mxLD : Nat := 1
def mxSWAP : Nat := 2
def mxMAC : Nat := 3
def mxMACZ : Nat := 4
def mxST : Nat := 5
def mxRD : Nat := 6
def mxWR : Nat := 7
def mxZERO : Nat := 8

def mxOpc (w : Word) : Nat := Word.field w 60 4
def mxT (w : Word) : Bool := w.getLsbD 59
def mxAsrc (w : Word) : Bool := w.getLsbD 58
def mxAcc (w : Word) : Nat := Word.field w 55 3
/-- The type of a command, its default where it names none. -/
def mxType (w : Word) : Nat := orTy (Word.field w 51 4) tyBf16
def mxRtag (w : Word) : Nat := Word.field w 47 4
def mxBlk0 (w : Word) : Bool := w.getLsbD 46
def mxRnd (w : Word) : Nat := Word.field w 44 2
def mxSat (w : Word) : Bool := w.getLsbD 43

/-- Code width and depth of a type (R295). -/
def mxWidth (t : Nat) : Nat := if t = tyK4 then 4 else if t = tyF16 ∨ t = tyBf16 then 16 else 8
def mxDepth (t : Nat) : Nat := 256 / mxWidth t

/-- The row, column and depth bits of a mask (R301). -/
def rowBit (m : Word) (i : Nat) : Bool := m.getLsbD i
def colBit (m : Word) (n : Nat) : Bool := m.getLsbD (16 + n)
def depthBit (m : Word) (t k : Nat) : Bool := m.getLsbD (32 + if t = tyK4 then k / 2 else k)

/-- Rows 0 to 15. -/
def rows16 : List Nat := List.range 16

/-- The element addresses of mst and mwr under the row and column masks (R300), with element numbers. -/
def accCells (addr stride mask : Word) : List (Nat × Word) :=
  rows16.flatMap (fun m => if rowBit mask m then
    rows16.filterMap (fun n => if colBit mask n then
      some (16 * m + n, addr + BitVec.ofNat 64 m * stride + BitVec.ofNat 64 (4 * n)) else none) else [])

/-- Address of a scale strip (R302). -/
def stripAddr (off : Word) : Word := BitVec.ofNat 64 (localBase + Word.field off 0 20)

/-- Stride of a command. -/
def strideOf (w : Word) : Word := BitVec.ofNat 64 (Word.field w 0 20)

/-- The 16-bit value at a local address of the acting tile. -/
def State.localHalf (s : State) (a : Word) : Nat := natOfBytes (s.tile.readLocal (a.toNat % 2 ^ 32) 2)

/-- Block length of a tag, and the words of a strip for each row or column (R315): J = K / L, 1 where L exceeds K. -/
def mxBlock (blk0 : Bool) (t r : Nat) : Nat := if t = 0 then (if blk0 then 64 else 16) else r
def mxWords (k l : Nat) : Nat := max 1 (k / l)

/-- The command reads a scale strip. -/
def mxScaled (w : Word) : Bool :=
  mxWidth (mxType w) != 16 && (mxOpc w == mxMAC || mxOpc w == mxMACZ || (mxOpc w == mxLD && !mxAsrc w))

/-- The tag T0 fixed at issue (R315). -/
def State.mxTag0 (s : State) (w scale : Word) : Nat :=
  if mxRtag w ≠ 0 || !mxScaled w then mxRtag w else swTag (s.localHalf (stripAddr scale))

/-- Taint of the scale word that gives T0: it is read whatever the row mask (R309, R315). -/
def State.mxTag0Taint (s : State) (w scale : Word) : Bool :=
  mxRtag w == 0 && mxScaled w && s.tile.localTaint (Word.field scale 0 20) 2

/-- The scale word that gives T0 is poisoned, so that its read freezes the core (R430). -/
def State.tag0Poison (s : State) (w scale : Word) : Bool :=
  mxRtag w == 0 && mxScaled w && s.tile.poisoned (Word.field scale 0 20) 2

/-- The rows that a strip is read for: every column of a plane, or the rows under the mask. -/
def mxLines (w mask : Word) : List Nat := if mxOpc w = mxLD then rows16 else rows16.filter (rowBit mask)

/-- Alignment of a command's addresses (R300): the first that is misaligned. -/
def mxAlign (w addr stride scale : Word) : Option Word :=
  let o := mxOpc w
  let bad := if o = mxMAC ∨ o = mxMACZ then addr.toNat % 2 ≠ 0 ∨ (strideOf stride).toNat % 2 ≠ 0
    else if o = mxLD ∧ !mxAsrc w then addr.toNat % 32 ≠ 0
    else if o = mxST ∨ o = mxWR then addr.toNat % 4 ≠ 0 ∨ (strideOf stride).toNat % 4 ≠ 0
    else False
  if bad then some addr
  else if mxScaled w && (stripAddr scale).toNat % 2 != 0 then some (stripAddr scale) else none

/-- The ranges of local store that a command touches, strips apart: address, length, written. -/
def mxRanges (w addr mask stride : Word) : List (Word × Nat × Bool) :=
  let o := mxOpc w
  if o = mxMAC ∨ o = mxMACZ then
    (rows16.filter (rowBit mask)).map (fun m => (addr + BitVec.ofNat 64 m * strideOf stride, 32, false))
  else if o = mxLD ∧ !mxAsrc w then [(addr, 512, false)]
  else if o = mxST then (accCells addr (strideOf stride) mask).map (fun p => (p.2, 4, true))
  else if o = mxWR then (accCells addr (strideOf stride) mask).map (fun p => (p.2, 4, false))
  else []

/-- The ranges of a command's scale strip (R300, R315). -/
def State.mxStrip (s : State) (w scale mask : Word) : List (Word × Nat × Bool) :=
  if !mxScaled w then []
  else
    let first := (stripAddr scale, 2, false)
    if mxRtag w = 0 && !localOk s.forme (Word.field scale 0 20) 2 then [first]
    else
      let t := s.mxTag0 w scale
      match s.forme.seed t with
      | none => [first]
      | some (_, r) =>
        let j := mxWords (mxDepth (mxType w)) (mxBlock (mxBlk0 w) t r)
        (if mxRtag w = 0 then [first] else []) ++
          (mxLines w mask).map (fun m => (stripAddr scale + BitVec.ofNat 64 (2 * m * j), 2 * j, false))

/-- The checks of R315 on a command: ALIGN, SPANF LOCAL, UNDECL. -/
def mxCheck (s : State) (w addr mask stride scale : Word) : Option Exc :=
  match mxAlign w addr stride scale with
  | some a => some (s.exc cALIGN a)
  | none =>
    let rs := mxRanges w addr mask stride ++ s.mxStrip w scale mask
    match rs.find? (fun r => !(isLocal r.1 && localOk s.forme (r.1.toNat % 2 ^ 32) r.2.1)) with
    | some r => some (s.spanf r.1 5)
    | none => rs.findSome? (fun r => undeclFault s (.loc (r.1.toNat % 2 ^ 32)) r.1 r.2.1 r.2.2)

/-- The queue has no free slot. -/
def Tile.mxFull (t : Tile) : Bool := 32 ≤ t.mx.queue.length

/-- A command of the acting context enters the queue: its number is the new MXENQ (R296). -/
def State.enqueueMx (s : State) (w addr mask stride scale user : Word) (taint : Bool) (userT : Bool := false) : State :=
  let t0 := s.mxTag0 w scale
  -- a 16-bit mmac has no T0: only a plane's tag must be loaded (R307, R309)
  let seedOk := (s.forme.seed t0).isSome || (mxWidth (mxType w) == 16 && mxOpc w != mxLD)
  let cmd : MxCmd :=
    { num := s.tile.mx.enq + 1, word0 := w, addr, mask, stride, scale, pc := s.ctx.pc, user, tag0 := t0, seedOk
      taint := taint || s.ctx.ctnt || s.mxTag0Taint w scale, ctx := s.actor.ctx, step := BitVec.ofNat 64 s.forme.k, userT }
  s.onTile (fun t => { t with mx := { t.mx with queue := t.mx.queue ++ [cmd], enq := t.mx.enq + 1 } })

/-! ### The queue window (R298, R299) -/

/-- A store to n bytes of main store at an offset falls into the enabled queue window: its place there. -/
def Tile.windowAt (t : Tile) (off : Nat) : Option Nat :=
  if t.mqwin.getLsbD 63 && off / 64 == Word.field t.mqwin 6 13 then some (off % 64) else none

/-- Bytes written into the assembly buffer. -/
def Tile.putWindow (t : Tile) (at_ : Nat) (bs : List Byte) (tnt : Bool) : Tile :=
  { t with mx := { t.mx with
      win := (bs.zipIdx).foldl (fun w b => vset w (at_ + b.2) b.1) t.mx.win
      winTaint := (List.range bs.length).foldl (fun w i => bvSet w (at_ + i) tnt) t.mx.winTaint } }

/-- Word i of the buffer. -/
def Tile.windowWord (t : Tile) (i : Nat) : Word := wordOf ((List.range 8).map (fun k => vget t.mx.win (8 * i + k) 0))

/-- Some byte of word i of the buffer is tainted. -/
def Tile.windowTaint (t : Tile) (i : Nat) : Bool := Word.field t.mx.winTaint (8 * i) 8 != 0

/-- What a command from the window breaks of Table 10-2 (R299): a reserved OPC, mrd, a field that is zero, or a
transpose of an accumulator. -/
def mxFormBad (w w5 : Word) : Bool :=
  mxOpc w == 0 || 8 < mxOpc w || mxOpc w == mxRD || w.getLsbD 42 || Word.field w 6 26 != 0 || w5 != 0 ||
  (mxOpc w == mxLD && mxAsrc w && mxT w)

/-- The prefix check of the command's instruction form (Table 10-7). -/
def mxFmtBad (w : Word) : Bool :=
  let o := mxOpc w
  let ty := Word.field w 51 4
  if o = mxSWAP then ty != 0 || mxRtag w != 0 || mxRnd w != 0 || mxSat w
  else if o = mxMAC ∨ o = mxMACZ then !dfltOr mxTypes ty || mxRnd w != 0 || mxSat w
  else if o = mxLD then
    (if mxAsrc w then !dfltOr [tyF16, tyBf16] ty || mxRtag w != 0 else !dfltOr mxTypes ty || mxRnd w != 0 || mxSat w)
  else false

/-- MCMD FORM at a completing store: no command has a number yet, so the one recorded is free (log entry 15). -/
def State.mxForm (s : State) (w user : Word) : Exc :=
  { s.exc cMCMD 0 1 (s.drawn 0) (BitVec.ofNat 64 (mxOpc w * 2 ^ 60)) user with
    infoT := (if s.tile.windowTaint 0 then 2 else 0) ||| (if s.tile.windowTaint 7 then 4 else 0) }

/-- What a store into the window comes to: the state that holds its bytes, or the fault of the command that it
completes (R299). `s` holds the bytes already. -/
def completeWindow (s : State) (word : Word) : Except (Exc × Nat) State :=
  let t := s.tile
  let w0 := t.windowWord 0
  let w := Word.setField (Word.setField (Word.setField w0 40 2 s.actor.ctx.val) 32 8 s.ctx.gen.toNat) 0 6 0
  let user := t.windowWord 7
  if mxFormBad w (t.windowWord 5) then .error (s.mxForm w user, 1)
  else if mxFmtBad w then 
    .error ({ s.exc cFMTF word 0 (BitVec.ofNat 64 (mxRtag w)) with infoT := if t.windowTaint 0 then 1 else 0 }, 0)
  else match mxCheck s w (t.windowWord 1) (t.windowWord 2) (t.windowWord 3) (t.windowWord 4) with
    | some e => .error (e, 0)
    | none =>
      if s.tag0Poison w (t.windowWord 4) then .ok (s.freezeCore s.actor.tile 3 s.ctx.pc)
      else if t.mxFull then .error (s.exc cMQOVF 0, 0)
      else .ok (s.enqueueMx w (t.windowWord 1) (t.windowWord 2) (t.windowWord 3) (t.windowWord 4) user (t.mx.winTaint != 0)
        (t.windowTaint 7))

/-- The granules that the four-byte pieces of one instruction or beat cover between them, outside the queue window
(R148, log entry 33). -/
def coveredBy (u : Tile) (cells : List (Nat × List Byte)) : List Nat :=
  (cells.filter (fun c => c.1 % 8 == 0 && c.2.length == 4 && u.windowAt c.1 == none &&
    cells.any (fun d => d.1 == c.1 + 4 && d.2.length == 4))).map (·.1)

/-- A store of the acting context to local store, at offsets of one instruction or beat in turn, each with its bytes:
main store, the active bank, or the queue window, whose command is taken once the last of them is written. The
error pairs a fault with the free values that it uses; `word` is the store's own word. -/
def State.storeLocal (s : State) (word : Word) (cells : List (Nat × List Byte)) (t : Bool) : Except (Exc × Nat) State :=
  let s1 := s.onTile (fun u => cells.foldl (fun u c =>
    match u.windowAt c.1 with
    | some a => u.putWindow a c.2 t
    | none => u.writeLocal c.1 c.2 t) u)
  let s1 := s1.onTile (fun u => (coveredBy s.tile cells).foldl (fun u off => u.coverLocal off t) u)
  if cells.any (fun c => match s.tile.windowAt c.1 with
      | some a => 56 < a + c.2.length
      | none => false)
  then completeWindow s1 word else .ok s1

/-- A store to local store as an effect: precise faults leave the state as it was. -/
def storeLocalEff (s0 s : State) (word : Word) (cells : List (Nat × List Byte)) (t : Bool) : Eff :=
  match s.storeLocal word cells t with
  | .ok s' => .ok s'
  | .error (e, n) => .raiseIn e (s0.spend n)

end Sys2Proof.Machine
end

