-- ==== Sys2Proof/Machine/LoadStore.lean ====
section
/-! DEFINITION. Scalar loads and stores (R116 to R120), the late-fault store buffer and its instructions
(R112 to R115, R125 to R127), and the events that serve them: landing, confirmation, faults, race checks,
walks, fills and reissues. -/

namespace Sys2Proof.Machine

/-! ### Loads -/

/-- A byte that a context has buffered and not yet confirmed, with its taint: the latest entry's (R113, R120). -/
def sbByte (t : Tile) (c : Fin 4) (asid a : Nat) : Option (Byte × Bool) :=
  (t.sb.reverse.find? (fun e => e.ctx == c && e.asid == asid && e.st == .pending &&
    e.va.toNat ≤ a && a < e.va.toNat + 32 && e.mask.getLsbD (a - e.va.toNat))).map
    (fun e => (e.data.extractLsb' (8 * (a - e.va.toNat)) 8, e.taint))

/-- The taint of a granule after the context's pending entries, where one of them covers all of it: that entry's, and
that of every later entry that covers part of it (R148). -/
def sbGranule (t : Tile) (c : Fin 4) (asid g : Nat) : Option Bool :=
  (t.sb.filter (fun e => e.ctx == c && e.asid == asid && e.st == .pending && e.va.toNat / 32 == g / 4)).foldl
    (fun acc e =>
      let part := e.mask.toNat / 2 ^ (8 * (g % 4)) % 256
      if part = 255 then some e.taint else if part = 0 then acc else acc.map (fun x => x || e.taint)) none

/-- All n bytes of an access, if the context's pending entries cover every granule it touches (R113). Where they cover
only part of a granule its taint depends on what the home slice holds, and the request that is sent takes the buffered
bytes there (log entry 9). -/
def sbCover (t : Tile) (c : Fin 4) (asid a n : Nat) : Option (List Byte × Bool) :=
  let gs := (List.range ((a + n + 7) / 8 - a / 8)).map (fun i => sbGranule t c asid (a / 8 + i))
  if gs.all Option.isSome then
    some ((List.range n).map (fun i => ((sbByte t c asid (a + i)).getD (0, false)).1), gs.any (fun x => x.getD false))
  else none

/-- What a read comes to when it issues: a value bound at once, a request sent, or a core frozen by a poisoned
granule (R430). -/
inductive ReadRes where
  | bound (v : Word) (t : Bool)
  | asked
  | poison
deriving DecidableEq, Repr

/-- The pending stores of a context to a line, oldest first. -/
def ownPending (t : Tile) (c : Fin 4) (asid line : Nat) : List SbEntry :=
  t.sb.filter (fun e => e.ctx == c && e.asid == asid && e.st == .pending && e.va.toNat / 64 == line)

/-- A read of `size` bytes by the acting context, its checks passed (R98, R100, R113, R120, R138, R152): bound at once from local
store, from the buffer, or from an L1D copy under the context's own pending stores; else asked of the home slice. -/
def beginRead (s : State) (tgt : Target) (ea : Word) (size : Nat) (kind : ReqKind) : ReadRes × State :=
  match tgt with
  | .loc off =>
    if s.tile.poisoned off size then (.poison, s.freezeCore s.actor.tile 3 s.ctx.pc)
    else (.bound (wordOf (s.tile.readLocal off size)) (s.tile.localTaint off size), s)
  | .remote _ _ => (.poison, s)
  | .span _ p =>
    let asid := s.forme.asid
    let s := s.pushLine asid ea.toNat
    -- L1D and the buffer answer where nothing of the tile's is on its way to the line that the answer must follow
    let plain := !p.chk && !p.nc && !pushOn s s.actor.tile asid (ea.toNat / 64) &&
      !s.reqs.any (fun r => r.openOn s.actor.tile s.actor.ctx asid (ea.toNat / 64))
    match (if plain then sbCover s.tile s.actor.ctx asid ea.toNat size else none) with
    | some b => (.bound (wordOf b.1) b.2, s)
    | none =>
      match (if plain then l1Find s s.tile asid ea.toNat else none) with
      | some c =>
        let v := c.under (ownPending s.tile s.actor.ctx asid (ea.toNat / 64))
        if lineTaint v.poison (ea.toNat % 64) size then (.poison, s.freezeCore s.actor.tile 3 s.ctx.pc)
        else (.bound (wordOf (Line.bytes v.data (ea.toNat % 64) size)) (lineTaint v.taint (ea.toNat % 64) size), s)
      | none => (.asked, s.sendReq p ea size kind)

/-- The register value of a loaded number (R116). -/
def extended (size : Nat) (signed : Bool) (v : Word) : Word := if signed then sext v.toNat (8 * size) else v

/-- A scalar load begins and its window opens; none where a poisoned granule freezes the core instead (R430). -/
def loadOpen (d l size : Nat) (signed : Bool) (ea : Word) (tgt : Target) (t : Bool) (s : State) : Bool × State :=
  let r := beginRead s tgt ea size (.load s.ctx.nextWin)
  match r.1 with
  | .bound v tv => (true, r.2.openWindow l d false (.load size signed) (.bound (extended size signed v) (tv || t)) t ea)
  | .asked => (true, r.2.openWindow l d false (.load size signed) .waiting t ea)
  | .poison => (false, r.2)

/-- A scalar load of the acting context whose address is known: ALIGN, SPANF, UNDECL, then a window (R116, R119,
R232). -/
def loadEff (d l z : Nat) (ea : Word) (t : Bool) (s : State) : Eff :=
  let size := 2 ^ (z / 2)
  if ea.toNat % size ≠ 0 then .raise (s.exc cALIGN ea)
  else match checkDecl s .read ea size with
    | .error e => .raise e
    | .ok tgt =>
      let r := loadOpen d l size (z % 2 == 0) ea tgt (t || s.ctx.ctnt) s
      if r.1 then .ok r.2 else .sent r.2

/-- ld (R116): the address is A + sext(IMM7, 7) × size. -/
def ldEff (d a l z i : Nat) (s : State) : Eff :=
  let ra := s.readXs a
  loadEff d l z (ra.1 + sext i 7 * BitVec.ofNat 64 (2 ^ (z / 2))) ra.2.1 ra.2.2

def execLd (d a l z i : Nat) (s : State) : Out := issue (.ld d a l z i) (ldEff d a l z i) s

/-- ldx (R116): the address is A + B × size. -/
def ldxEff (d a b l z : Nat) (s : State) : Eff :=
  let ra := s.readXs a
  let rb := ra.2.2.readXs b
  loadEff d l z (ra.1 + rb.1 * BitVec.ofNat 64 (2 ^ (z / 2))) (ra.2.1 || rb.2.1) rb.2.2

def execLdx (d a b l z h : Nat) (s : State) : Out := issue (.ldx d a b l z h) (ldxEff d a b l z) s

/-! ### The store buffer -/

/-- The lowest index that no entry of the buffer holds. -/
def freeEntry (sb : List SbEntry) : Nat :=
  ((List.range 32).find? (fun i => sb.all (fun e => e.idx != i))).getD 32

/-- A faulted entry of a context on a line. -/
def faultedOn (sb : List SbEntry) (c : Fin 4) (asid line : Nat) : Option SbEntry :=
  sb.find? (fun e => e.ctx == c && e.asid == asid && e.va.toNat / 64 == line && e.isFaulted)

/-- The acting context's store of masked bytes of one 32-byte chunk takes an entry (R112, R113): the tile's
update-only line is pushed (R152), an L1D copy is updated (R100), and behind a faulted entry of the line the
new one is faulted too, and the L1D copy discarded. The entry holds SEQ as the raise by 1 that it causes leaves it, so that the
first of a context has 1 (log entry 39). -/
def State.addEntry (s : State) (p : Span) (cva : Word) (mask : BitVec 32) (data : BitVec 256) (t : Bool) : State :=
  let asid := s.forme.asid
  let s := s.pushLine asid cva.toNat
  let tl := s.tile
  let c := s.ctx
  let home := homeOf s tl p cva.toNat
  let behind := faultedOn tl.sb s.actor.ctx asid (cva.toNat / 64)
  let e : SbEntry :=
    { idx := freeEntry tl.sb, ctx := s.actor.ctx, gen := c.gen, asid, va := cva, mask, data, taint := t
      pc := c.pc, step := BitVec.ofNat 64 s.forme.k, seq := c.seq + 1, home, dom := p.dom, hash := p.home == 0
      st := match behind with
        | some b => .faulted b.cause
        | none => .pending
      reported := false, shown := behind.isNone && (l1Find s tl asid cva.toNat).isSome, ord := s.nextReq }
  let s := { s with nextReq := s.nextReq + 1 }
  let s := (s.onCtx (fun c => { c with seq := c.seq + 1 })).onTile (fun t => { t with sb := t.sb ++ [e] })
  let s := s.touch home
  match behind with
  | some _ => l1Drop s tl asid cva.toNat
  | none =>
    s.modTile (l1Tile s tl cva.toNat) (fun u => { u with l1d := u.l1d.map (fun l =>
      if l.isAt asid (cva.toNat / 64) then l.putChunk (cva.toNat % 64) mask data t else l) })

/-- A scalar store through a span takes one entry, since it crosses no 32-byte boundary. -/
def State.storeSpan (s : State) (p : Span) (ea : Word) (bs : List Byte) (t : Bool) : State :=
  let off := ea.toNat % 32
  s.addEntry p (ea - BitVec.ofNat 64 off) (BitVec.ofNat 32 ((2 ^ bs.length - 1) * 2 ^ off))
    (BitVec.ofNat 256 (natOfBytes bs * 2 ^ (8 * off))) t

/-- The buffer has fewer than n free entries (R115). -/
def Tile.sbFull (t : Tile) (n : Nat) : Bool := 32 < t.sb.length + n

/-! ### Stores -/

/-- Taint of the next flit that an XS operand reads, or of the register, without consuming it (R119). -/
def State.peekTaint (s : State) (n : Nat) : Bool :=
  if n < 32 then (s.ctx.readX n).2 else if n < 45 then (s.headIn (n - 41)).taint else true

/-- The words of a CHECKED line that n bytes touch. -/
def chkWords (ea : Word) (n : Nat) : List Nat := wordsOf (ea.toNat % 64) n

/-- A store to a CHECKED span has its race check before it reads its operands: the check is sent and the context
waits; f is the store once the check has passed (R145). -/
def afterRace (p : Span) (ea : Word) (ta : Bool) (n : Nat) (f : State → Eff) (s : State) : Eff :=
  if p.chk && s.ctx.wait != .raceOk then
    .sent ((s.sendReq p ea n (.raceCheck (chkWords ea n)) ta).onCtx (fun c => { c with wait := .race s.nextReq }))
  else f s

/-- A scalar store whose address is known (R118): ALIGN, SPANF, UNDECL, TAINTSINK and RACE, in this order, before
the stored value is read (R119, R232). -/
def storeEff (word : Word) (src z : Nat) (ea : Word) (ta : Bool) (s : State) : Eff :=
  let size := 2 ^ z
  if ea.toNat % size ≠ 0 then .raise (s.exc cALIGN ea)
  else match checkDecl s .write ea size with
    | .error e => .raise e
    | .ok tgt =>
      let t := s.peekTaint src || ta || s.ctx.ctnt
      match tgt with
      | .loc off =>
        let r := s.readXs src
        storeLocalEff s r.2.2 word [(off, bytesOf size r.1)] t
      | .remote dst off =>
        if s.tile.injFull then .wait .msg s
        else
          let r := s.readXs src
          .ok (r.2.2.inject (r.2.2.packet dst t (.remoteStore off (bytesOf size r.1) s.actor.ctx s.ctx.pc)))
      | .span _ p =>
        if t && p.sink then .raise (s.exc cTAINTSINK ea)
        else if s.tile.sbFull 1 then .wait .mem s
        else afterRace p ea ta size (fun s =>
          let r := s.readXs src
          .ok (r.2.2.storeSpan p ea (bytesOf size r.1) t)) s

/-- st (R118): the address is A + sext(IMM12, 12) × size. -/
def stEff (word : Word) (src a z i : Nat) (s : State) : Eff :=
  let ra := s.readXs a
  storeEff word src z (ra.1 + sext i 12 * BitVec.ofNat 64 (2 ^ z)) ra.2.1 ra.2.2

def execSt (s a z i : Nat) (st : State) : Out := issue (.st s a z i) (stEff (instrWord (.st s a z i)) s a z i) st

/-- stx (R118): the address is A + B × size. -/
def stxEff (word : Word) (src a b z : Nat) (s : State) : Eff :=
  let ra := s.readXs a
  let rb := ra.2.2.readXs b
  storeEff word src z (ra.1 + rb.1 * BitVec.ofNat 64 (2 ^ z)) (ra.2.1 || rb.2.1) rb.2.2

def execStx (s a b z h : Nat) (st : State) : Out := issue (.stx s a b z h) (stxEff (instrWord (.stx s a b z h)) s a b z) st

/-! ### sbreplay, sbdrop, sbstat -/

/-- A faulted entry of the acting context that a mask selects (R125). -/
def State.selected (s : State) (mask : Word) (e : SbEntry) : Bool :=
  e.ctx == s.actor.ctx && e.isFaulted && mask.getLsbD e.idx && e.idx < 32

/-- A selected entry sent again (R126): its span is selected afresh, with the WR right; an entry that no span
accepts is faulted again with SPANF, and tainted data for a SINK span with TAINTSINK. -/
def State.replayed (s : State) (e : SbEntry) : SbEntry :=
  match checkAccess s .write e.firstByte 1 with
  | .ok (.span _ p) =>
    if e.taint && p.sink then { e with st := .faulted cTAINTSINK, reported := false }
    else { e with st := .pending, reported := false, shown := false, home := homeOf s s.tile p e.va.toNat, dom := p.dom, hash := p.home == 0 }
  | _ => { e with st := .faulted cSPANF, reported := false }

/-- The entries of a buffer after the selected ones are sent again, in SEQ order, which the order of the buffer keeps. One
behind an entry of its line that is still faulted, or is faulted again, is faulted with it and not sent (R113, R120, log
entry 9). -/
def State.replay (s : State) (mask : Word) : List SbEntry → List SbEntry → List SbEntry
  | [], done => done
  | e :: r, done =>
    s.replay mask r (done ++ [
      if s.selected mask e then
        match faultedOn done e.ctx e.asid (e.va.toNat / 64) with
        | some b => { e with st := .faulted b.cause, reported := false }
        | none => s.replayed e
      else e])

/-- The acting context writes to the homes of the entries of its own that are pending now and were not before (R141). -/
def State.touchNew (s : State) (old : List SbEntry) : State :=
  (s.tile.sb.filter (fun e => e.ctx == s.actor.ctx && e.st == .pending && !old.contains e)).foldl (fun s e => s.touch e.home) s

/-- sbreplay (R126). -/
def execSbreplay (a : Nat) (s : State) : Out :=
  issue (.sbreplay a) (fun s =>
    let r := s.readXs a
    .ok ((r.2.2.onTile (fun t => { t with sb := s.replay r.1 t.sb [] })).touchNew s.tile.sb)) s

/-- sbdrop (R126): the selected faulted entries are freed. -/
def execSbdrop (a : Nat) (s : State) : Out :=
  issue (.sbdrop a) (fun s =>
    let r := s.readXs a
    .ok (r.2.2.onTile (fun t => { t with sb := t.sb.filter (fun e => !s.selected r.1 e) }))) s

/-- The value that sbstat reads (Table 4-17). -/
def State.sbValue (s : State) (q : Word) : Word :=
  let sb := s.tile.sb
  let own := sb.filter (fun e => e.ctx == s.actor.ctx)
  match Word.field q 5 3 with
  | 7 =>
    BitVec.ofNat 64
      ((own.filter SbEntry.isFaulted).foldl (fun m e => m ||| 2 ^ e.idx) 0 + own.length * 2 ^ 32 + (32 - sb.length) * 2 ^ 40)
  | k =>
    match own.find? (fun e => e.idx == Word.field q 0 5) with
    | none => 0
    | some e =>
      match k with
      | 0 => BitVec.ofNat 64 (2 ^ 63 + (if e.isFaulted then 2 ^ 62 else 0) + (if e.reported then 2 ^ 61 else 0) +
          e.ctx.val * 2 ^ 59 + e.gen.toNat * 2 ^ 51 + e.cause.toNat * 2 ^ 40 + popNat 32 e.mask.toNat * 2 ^ 32 + e.asid)
      | 1 => e.firstByte
      | 2 => e.pc
      | 3 => e.step
      | 4 => e.seq.setWidth 64
      | _ => 0

/-- sbstat (R127): long-latency, untainted; the value is that at issue. -/
def execSbstat (d a l : Nat) (s : State) : Out :=
  issue (.sbstat d a l) (fun s =>
    let r := s.readXs a
    .ok (r.2.2.openWindow l d false .value (.bound (s.sbValue r.1) false) false)) s

/-! ### Landing of long-latency results (R51, R117, R145) -/

/-- The requests of a window of a context. -/
def State.winReqs (s : State) (tile : Nat) (c : Fin 4) (win : Nat) : List Req :=
  s.reqs.filter (fun r => r.tile == tile && r.ctx == c && (match r.kind with
    | .load w => w == win
    | .vload w _ => w == win
    | _ => false))

/-- The failure of a request. -/
def Req.fault (r : Req) : Option Exc :=
  match r.st with
  | .failed e => some e
  | _ => none

/-- Value and taint that answer a request. -/
def Req.value (r : Req) : Word × Bool :=
  match r.st with
  | .done v t => (v, t)
  | _ => (0, false)

/-- Element number of a vector request. -/
def Req.elem (r : Req) : Nat :=
  match r.kind with
  | .vload _ e => e
  | _ => 0

/-- The element requests in ascending element order. -/
def insertReq (r : Req) : List Req → List Req
  | [] => [r]
  | x :: l => if r.elem < x.elem then r :: x :: l else x :: insertReq r l

def sortReqs (l : List Req) : List Req := l.foldr insertReq []

/-- How a window of a load stands once all its requests are answered: the first failed element's fault, or its
result. -/
def landWith (w : Window) (rs : List Req) : WinState :=
  match rs.findSome? Req.fault with
  | some e => .failed e
  | none =>
    match w.kind with
    | .load size signed =>
      match rs with
      | r :: _ => .landed (extended size signed r.value.1) (r.value.2 || w.tnt)
      | [] => .waiting
    | _ => .landedV (rs.map (fun r => r.value.1.setWidth 32)) (w.tnt || rs.any (fun r => r.value.2))

/-- The divider of a tile is free again once the result of its divide lands (R73). -/
def divDone (w : Window) (t : Tile) : Tile :=
  if w.kind == .value && w.aux == 1 then { t with divBusy := false } else t

/-- Counter of a timeline handle of the acting context's tile and forme, with the unreported faults of its
commands (R162); none where the handle is reserved or names an engine context that is not bound to the forme. -/
def State.timeline (s : State) (h : Word) : Option (Nat × List CmdFault) :=
  match Word.field h 14 2 with
  | 0 => if h == 0 then some (s.tile.mx.tl, s.tile.mx.faults) else none
  | 1 => if h == 0x4000 then some (s.tile.xch.tl, s.tile.xch.faults) else none
  | 2 =>
    if Word.field h 16 48 == 0 && Word.field h 9 5 == 0 then
      (s.engs.find? (fun e => e.eng == Word.field h 3 6 && e.ctx == Word.field h 0 3 && e.forme == s.forme.id)).map
        (fun e => (e.tl, e.faults))
    else none
  | _ => none

/-- The faults that a tlwait of the acting context finds: of the matrix unit and of a copy engine those of its own commands
(R317, R348); the exchange engine's belong to no context (R237). -/
def State.tlFaults (s : State) (h : Word) (fs : List CmdFault) : List CmdFault :=
  if Word.field h 14 2 = 1 then fs else fs.filter s.owns

/-- A tlwait whose counter has reached its threshold (R163): the lowest unreported fault of a command that it covers,
or else the counter, tainted, after the acquire. -/
def tlwaitLand (s : State) (w : Window) : Option (WinState × State) :=
  match s.timeline w.aux with
  | none => none
  | some (n, fs) =>
    if n < w.addr.toNat then none
    else match lowest ((s.tlFaults w.aux fs).filter (fun f => f.num ≤ w.addr.toNat)) with
      | some f => some (.failed f.exc, s)
      | none => some (.landed (BitVec.ofNat 64 n) true, if Word.field w.aux 14 2 = 2 then s.acquire 4 else s)

/-- LONG_LATENCY_LANDING: what an open window waits for moves on. A value already bound lands; a request that is
on its way arrives at its home slice; when every request of the window is answered the result lands, or its
fault is kept for the window's close. A tlwait of a frozen core waits no longer (R163, R376). -/
def landing (tile : Nat) (c : Fin 4) (win : Nat) (s : State) : State :=
  match (s.tileD tile).ctxs[c].wins.find? (fun w => w.id == win) with
  | none => s
  | some w =>
    let setW (s : State) (st : WinState) : State :=
      s.modCtx tile c (fun x => Ctx.closeReady { x with
        wins := x.wins.map (fun u => if u.id == win then { u with st := st } else u) })
    match w.st with
    | .bound v t => (setW s (.landed v t)).modTile tile (divDone w)
    | .boundV vs t => setW s (.landedV vs t)
    | .waiting =>
      let rs := s.winReqs tile c win
      if w.kind == .tlwait then
        if (s.tileD tile).frozen then s
        else match tlwaitLand (s.as tile c) w with
        | some r => setW r.2 r.1
        | none => s
      else if rs.isEmpty then s
      else if rs.all Req.isDone then
        { (setW s (landWith w (sortReqs rs))) with reqs := s.reqs.filter (fun r => !rs.contains r) }
      else (rs.filter (fun r => r.st == .sent)).foldl (fun s r => arrive s r.id) s
    | _ => s

def execLongLatencyLanding (tile ctx win : Nat) (s : State) : Out := .next (landing tile (ctxNum ctx) win s)

/-! ### Events of the store buffer -/

/-- Bytes that the L1D has shown to the tile's contexts reach the home slice in the order in which it showed them, and before
a later entry of the line (R133, R138). -/
def shownAhead (s : State) (t : Tile) (e : SbEntry) : Bool :=
  (shownOn s t e.asid (e.va.toNat / 64)).any (fun x => x.ord < e.ord)

/-- An entry is the earliest pending one of its context on its line (R113). -/
def firstPending (sb : List SbEntry) (e : SbEntry) : Bool :=
  match sb.find? (fun x => x.ctx == e.ctx && x.asid == e.asid && x.va.toNat / 64 == e.va.toNat / 64 && x.st == .pending) with
  | some x => x.idx == e.idx
  | none => false

/-- An older load of the entry's context on its line has not been served (R120). -/
def olderLoad (s : State) (tile : Nat) (e : SbEntry) : Bool :=
  s.reqs.any (fun r => r.tile == tile && r.ctx == e.ctx && r.asid == e.asid && r.line == e.va.toNat / 64 && !r.isDone &&
    (r.seq - e.seq).toInt < 0 &&
    (match r.kind with
      | .store _ | .raceCheck _ => false
      | _ => true))

/-- The request that carries an entry, if it is in flight. -/
def State.entryReq (s : State) (tile entry : Nat) : Option Req :=
  s.reqs.find? (fun r => r.tile == tile && r.kind == .store entry)

/-- The home of an entry by the tile's present domain records (R108). -/
def SbEntry.homeFor (e : SbEntry) (t : Tile) : Nat :=
  let r := vget t.doms e.dom 0
  if e.hash && !domEmpty r then hashHome r e.va.toNat else e.home

/-- Sends a pending entry to its home slice, under the generation of the tile's copy of its domain (R108): the bit of the
home's cluster is set (R141). -/
def State.sendEntry (s : State) (t : Tile) (e : SbEntry) : State :=
  let home := e.homeFor t
  let s := s.modTile t.phys (fun t =>
    { t.modCtx e.ctx (fun c => { c with touched := bvSet c.touched (clusterOf home) true }) with
      sb := t.sb.map (fun x => if x.idx == e.idx then { x with home } else x) })
  let r : Req :=
    { id := s.nextReq, tile := t.phys, ctx := e.ctx, gen := e.gen, asid := e.asid, va := e.va, size := 32, home
      dom := if e.hash then some (e.dom, domGen (vget t.doms e.dom 0)) else none, domIdx := e.dom, chk := false, nc := false
      pc := e.pc, step := e.step, seq := e.seq, kind := .store e.idx, st := .sent }
  { s with nextReq := s.nextReq + 1, reqs := s.reqs ++ [r] }

/-- STORE_CONFIRM: a pending entry is sent once it is the earliest of its context on its line and no older load of
the line is outstanding; it arrives at its home slice; when the slice has written its bytes it is freed
(R112, R113, R120). -/
def confirm (tile entry : Nat) (s : State) : State :=
  let t := s.tileD tile
  match t.sb.find? (fun e => e.idx == entry) with
  | none => s
  | some e =>
    match e.st, s.entryReq tile entry with
    | .pending, none =>
      if firstPending t.sb e && !shownAhead s t e && !olderLoad s tile e then arrive (s.sendEntry t e) s.nextReq else s
    | .pending, some r => if r.st == .sent then arrive s r.id else s
    | .confirmed, r =>
      let s1 := match r with
        | some q => s.dropReq q.id
        | none => s
      s1.modTile tile (fun t => { t with sb := t.sb.filter (fun x => x.idx != entry) })
    | .faulted _, _ => s

def execStoreConfirm (tile entry : Nat) (s : State) : Out := .next (confirm tile entry s)

/-- STORE_ENTRY_FAULT (R113): the entry's line failed translation. It is faulted, every later entry of its context
on the line with it, with the same cause, and the L1D copy of the line is discarded. -/
def entryFault (tile entry : Nat) (s : State) : State :=
  let t := s.tileD tile
  match t.sb.find? (fun e => e.idx == entry && e.st == .pending), s.entryReq tile entry with
  | some e, some r =>
    match r.st with
    | .failed x =>
      let s := (s.dropReq r.id).modTile tile (fun t => { t with sb := t.sb.map (fun y =>
        if y.ctx == e.ctx && y.asid == e.asid && y.va.toNat / 64 == e.va.toNat / 64 && y.st == .pending &&
            0 ≤ (y.seq - e.seq).toInt
        then { y with st := .faulted x.code, reported := false } else y) })
      l1Drop s t e.asid e.va.toNat
    | _ => s
  | _, _ => s

def execStoreEntryFault (tile entry : Nat) (s : State) : Out := .next (entryFault tile entry s)

/-- RACE_CHECK_REPLY (R145): the check of a store arrives at the home slice, and its answer at the context. A race
is raised precisely at the store; a check that found no line, because its translation failed, passes, and the
store's entry meets the failure (log entry 12). -/
def raceReply (tile : Nat) (c : Fin 4) (s : State) : State :=
  match (s.tileD tile).ctxs[c].wait with
  | .race id =>
    match s.reqAt id with
    | none => s
    | some r =>
      let pass (s : State) : State := (s.dropReq id).modCtx tile c (fun x => { x with wait := .raceOk, stall := none })
      match r.st with
      | .sent => arrive s id
      | .done _ _ => pass s
      | .failed e =>
        if e.code == cRACE then
          let s1 := s.as tile c
          if s1.ctx.settled then ((s1.dropReq id).onCtx (fun x => { x with wait := .nothing })).takeFault e else s
        else pass s
      | _ => s
  | _ => s

def execRaceCheckReply (tile ctx : Nat) (s : State) : Out := .next (raceReply tile (ctxNum ctx) s)

/-! ### Events of the slices and controllers -/

/-- WALK (R329): the controller walks for pending line i. -/
def execWalk (i : Nat) (s : State) : Out :=
  .next (match s.l2[i]? with
    | some l => (match l.fill with
      | .walking => walkLine s l
      | _ => s)
    | none => s)

/-- L2_FILL (R109): the bytes of pending line i arrive and answer its waiters in arrival order. -/
def execL2Fill (i : Nat) (s : State) : Out :=
  .next (match s.l2[i]? with
    | some l => fillLine s l
    | none => s)

/-- RETRY_REISSUE (R109): request i, answered RETRY, is sent again. -/
def execRetryReissue (i : Nat) (s : State) : Out :=
  .next (match s.reqs[i]? with
    | some r => if r.st == .retry then s.modReq r.id (fun r => { r with st := .sent }) else s
    | none => s)

/-- REHOME_REPLY (R108): the requester of request i installs the record that the reply carries and sends the
request to the home that it now computes; under an empty record it sends it to the home it had (log entry 34). The cluster
of a write's new home is marked (R141). -/
def rehome (i : Nat) (s : State) : State :=
  match s.reqs[i]? with
  | some r =>
    match r.st with
    | .rehome rec =>
      let s := s.modTile r.tile (fun t => { t with doms := vset t.doms r.domIdx rec })
      let home := if domEmpty rec then r.home else hashHome rec r.va.toNat
      let s := s.modReq r.id (fun r => { r with st := .sent, home := home, dom := some (r.domIdx, domGen rec) })
      let touch (s : State) : State :=
        s.modCtx r.tile r.ctx (fun c => { c with touched := bvSet c.touched (clusterOf home) true })
      match r.kind with
      | .store e =>
        touch (s.modTile r.tile (fun t => { t with sb := t.sb.map (fun x => if x.idx == e then { x with home := home } else x) }))
      | .atomic _ _ _ _ _ _ _ _ => touch s
      | _ => s
    | _ => s
  | none => s

def execRehomeReply (i : Nat) (s : State) : Out := .next (rehome i s)

end Sys2Proof.Machine
end

