-- ==== Sys2Proof/Machine/Range.lean ====
section
/-! DEFINITION. Range operations (R121 to R123): write-back, invalidation and prefetch of the lines of a range. -/

namespace Sys2Proof.Machine

/-- The functions of Table 4-13 by code. -/
def fnWb : Nat := 1
def fnInv : Nat := 2
def fnWbinv : Nat := 3
def fnIinv : Nat := 4
def fnPfr : Nat := 6

/-- The span selected for a range of n bytes, n not 0, with the rights of Table 4-7 (R122). The region is tested on the first
byte: a range of a span below the local or remote region whose LIMIT reaches into it passes, since its span holds all of it
(log entry 39). -/
def rangeCheck (s : State) (fn lv : Nat) (a n : Nat) : Except Exc (Nat × Span) :=
  let w : Word := BitVec.ofNat 64 a
  if 2 ^ 57 ≤ a then .error (s.spanf w 4)
  else if isLocal w || isRemote w then .error (s.spanf w 6)
  else match s.ctx.select s.forme.count a with
    | none => .error (s.spanf w 1)
    | some (i, p) =>
      if p.limit < (a + n - 1) / 4096 then .error (s.spanf w 2 i)
      else
        let right :=
          if fn = fnPfr then p.rd
          else if fn = fnIinv then p.ex
          else if fn = fnInv ∧ lv = 1 then p.wr
          else p.rd || p.wr || p.ex
        if !right then .error (s.spanf w 3 i)
        else if p.home == 0 && domEmpty (vget s.tile.doms p.dom 0) then .error (s.spanf w 7 i)
        else .ok (i, p)

/-- UNDECL for a range operation, whose span must stand in either set (R232). -/
def rangeUndecl (s : State) (span : Nat) (a : Nat) : Option Exc :=
  match s.routine with
  | some (i, d) =>
    if d.rs.contains span || d.ws.contains span then none
    else some (s.exc cUNDECL (BitVec.ofNat 64 a) 0 (BitVec.ofNat 64 i))
  | none => none

/-- A line number lies in a range given by its first and last byte. -/
def inLines (first last line : Nat) : Bool := first / 64 ≤ line && line ≤ last / 64

/-- The acting tile's update-only lines of a range are pushed. -/
def State.pushRange (s : State) (first last : Nat) : State :=
  let p (u : UpdLine) : Bool := u.asid == s.forme.asid && inLines first last u.line
  s.pushSome p

/-- A range operation that stalls its context until it is complete: wb.r, inv.r, wbinv.r, iinv.r (R123). -/
def rangeEff (fn lv a b : Nat) (s : State) : Eff :=
  let ra := s.readXs a
  let rb := ra.2.2.readXs b
  let n := rb.1.toNat
  if n = 0 then .ok s
  else
    let first := ra.1.toNat
    match rangeCheck s fn lv first n with
    | .error e => .raise e
    | .ok (i, p) =>
      match rangeUndecl s i first with
      | some e => .raise e
      | none =>
        let s1 := if fn = fnIinv then s else s.pushRange first (first + n - 1)
        .sent (s1.onCtx (fun c => { c with wait := .range fn lv first (first + n - 1) p }))

/-- wb.r (Table 4-15). -/
def execWbR (v a b : Nat) (s : State) : Out := issue (.wbR v a b) (rangeEff fnWb v a b) s
/-- inv.r (Table 4-15). -/
def execInvR (v a b : Nat) (s : State) : Out := issue (.invR v a b) (rangeEff fnInv v a b) s
/-- wbinv.r (Table 4-15). -/
def execWbinvR (v a b : Nat) (s : State) : Out := issue (.wbinvR v a b) (rangeEff fnWbinv v a b) s
/-- iinv.r (Table 4-15). -/
def execIinvR (v a b : Nat) (s : State) : Out := issue (.iinvR v a b) (rangeEff fnIinv v a b) s

/-- pfr (R122, R123): dropped where a span refuses it; else its lines may arrive at any later time or not at all,
which the schedule decides. -/
def pfrEff (lv a b : Nat) (s : State) : Eff :=
  let ra := s.readXs a
  let rb := ra.2.2.readXs b
  let n := rb.1.toNat
  if n = 0 then .ok s
  else
    let first := ra.1.toNat
    match rangeCheck s fnPfr lv first n with
    | .error _ => .ok s
    | .ok (i, p) =>
      match rangeUndecl s i first with
      | some _ => .ok s
      | none =>
        let q : PfrReq := { l2 := lv == 1, asid := s.forme.asid, span := p, first := first / 64, last := (first + n - 1) / 64 }
        .ok (s.onTile (fun t => { t with pfr := t.pfr ++ [q] }))

def execPfr (v a b : Nat) (s : State) : Out := issue (.pfr v a b) (pfrEff v a b) s

/-- A line that a pfr asked for arrives: at its home slice, and in L1D for level l1 unless NC or CHECKED, or while exact sums
of its words are pending (Table 4-15, R100, R153). A line whose page is absent is skipped. -/
def State.pfrFill (s : State) (tile i line : Nat) : State :=
  let t := s.tileD tile
  match t.pfr[i]? with
  | some q =>
    if q.first ≤ line && line ≤ q.last then
      let r := lineNow s (homeOf s t q.span (line * 64)) q.asid (line * 64) q.span.dom 0
      match r.1 with
      | .ok (l, none) =>
        if q.l2 || q.span.nc || q.span.chk || sumsPending r.2 l || t.upd.any (fun u => u.asid == q.asid && u.line == line) then r.2
        else r.2.modTile (l1Tile s t (line * 64)) (fun u => u.putL1D (l1Copy s t l))
      | _ => r.2
    else s
  | none => s

/-! ### Completion -/

/-- The copies of a range that an operation handles: the one at the line's home slice, or every replica for REPL. -/
def rangeLine (s : State) (t : Tile) (asid first last : Nat) (p : Span) (l : L2Line) : Bool :=
  l.asid == asid && inLines first last l.line && l.fill == .valid &&
  (p.home == 2 || l.slice == homeOf s t p (l.line * 64))

/-- L1D copies of a range discarded in the tile, or in its fused cluster. -/
def State.dropL1Range (s : State) (t : Tile) (asid first last : Nat) : State :=
  let keep (l : L1Line) : Bool := !(l.asid == asid && inLines first last l.line)
  { s with tiles := s.tiles.map (fun u =>
    if u.phys == t.phys || (s.fusedTile t && clusterOf u.phys == clusterOf t.phys) then { u with l1d := u.l1d.filter keep } else u) }

/-- L1I copies of a range discarded in the tiles that satisfy a test. -/
def State.dropL1I (s : State) (p : Tile → Bool) (asid first last : Nat) : State :=
  { s with tiles := s.tiles.map (fun u =>
    if p u then { u with l1i := u.l1i.filter (fun l => !(l.asid == asid && inLines first last l.line)) } else u) }

/-- Dirty copies of a range written to memory, and all of its copies dropped from their slices where asked. -/
def State.handleL2 (s : State) (p : L2Line → Bool) (clean drop : Bool) : State :=
  let s1 := if clean then (s.l2.filter p).foldl (fun s l => s.cleanL2 l) s else s
  if drop then { s1 with l2 := s1.l2.filter (fun l => !p l) } else s1

/-- What a range operation waits for: the context's stores to the range confirmed or faulted, where it writes back,
and the tile's pushed lines of the range merged. -/
def rangeReady (s : State) (fn : Nat) (asid first last : Nat) : Bool :=
  let t := s.tile
  fn == fnIinv ||
  (!s.pushes.any (fun u => u.tile == t.phys && u.upd.asid == asid && inLines first last u.upd.line) &&
   (fn == fnInv || !t.sb.any (fun e => e.ctx == s.actor.ctx && e.asid == asid && e.st == .pending &&
      inLines first last (e.va.toNat / 64))))

/-- The effect of a range operation on the lines of its range (Table 4-15). -/
def rangeDone (s : State) (fn lv first last : Nat) (sp : Span) : State :=
  let t := s.tile
  let asid := s.forme.asid
  let p := rangeLine s t asid first last sp
  if fn = fnWb then s.handleL2 p (lv == 1) false
  else if fn = fnInv then (s.dropL1Range t asid first last).handleL2 p false (lv == 1)
  else if fn = fnWbinv then (s.dropL1Range t asid first last).handleL2 p (lv == 1) (lv == 1)
  else s.dropL1I (fun u => u.phys == t.phys || (lv == 1 && u.forme == t.forme)) asid first last

/-- RANGE_OPERATION_COMPLETE: every line of the range of a stalled context is handled (R123). -/
def rangeComplete (tile : Nat) (c : Fin 4) (s0 : State) : State :=
  let s := s0.as tile c
  match s.ctx.wait with
  | .range fn lv first last sp =>
    if rangeReady s fn s.forme.asid first last then (rangeDone s fn lv first last sp).complete else s0
  | _ => s0

def execRangeOperationComplete (tile ctx : Nat) (s : State) : Out := .next (rangeComplete tile (ctxNum ctx) s)

end Sys2Proof.Machine
end

