-- ==== Sys2Proof/Machine/Atomic.lean ====
section
/-! DEFINITION. Atomics and updates (R129, R130, R151 to R159): amo.w and amo.d, upd, and their completion at the
home slice. -/

namespace Sys2Proof.Machine

/-! ### Atomics -/

/-- Order and scope of an atomic that Table 5-2 refuses: order sc with a scope other than .sys; a local address with
a scope other than .tile. -/
def scopeBad (order scope : Nat) (tgt : Target) : Bool :=
  (order == 3 && scope != 3) || (match tgt with
    | .loc _ => scope != 0
    | _ => false)

/-- The taint bit of the 8-byte granule at a local offset. -/
def Tile.taintGranule (t : Tile) (off : Nat) (b : Bool) : Tile :=
  if off < 0x80000 then { t with mainTaint := TaintSet.put t.mainTaint (off / 8) b }
  else if t.activeA then { t with bankATaint := TaintSet.put t.bankATaint ((off - 0x80000) / 8) b }
  else { t with bankBTaint := TaintSet.put t.bankBTaint ((off - 0x80000) / 8) b }

/-- An atomic on local store, at once (R155, R156, Table 5-10). -/
def localAtomic (op w off : Nat) (b e : Word) (tb : Bool) (d : Nat) (s : State) : Eff :=
  let t := s.tile
  if t.poisoned off (w / 8) then .sent (s.freezeCore t.phys 3 s.ctx.pc)
  else
    let old := natOfBytes (t.readLocal off (w / 8))
    let nt := amoTaint op (t.localTaint off (w / 8)) tb
    let v := (amoNew op w old (b.toNat % 2 ^ w) (e.toNat % 2 ^ w)).getD old
    let s1 := s.onTile (fun t => (t.writeLocal off (bytesOfNat (w / 8) v) false).taintGranule off nt)
    okXd s1 d (sext old w) true

/-- An atomic of order rel or sc that proceeds closes every window of its context, its operands read (R449, R52,
log entry 9). -/
def amoClose (order : Nat) (s : State) : State :=
  if order = 2 ∨ order = 3 then s.onCtx Ctx.closeAll else s

/-- The operand of an atomic is read and its request sent to the home slice (R155, R156): the tile's update-only
line is pushed, its L1D copy of the line discarded. -/
def sendAtomic (op : Nat) (wide : Bool) (ea : Word) (ta : Bool) (d b order scope : Nat) (p : Span) (s : State) : Eff :=
  let asid := s.forme.asid
  let port := if 41 ≤ b && b < 45 then some (b, (s.headIn (b - 41)).val, (s.headIn (b - 41)).taint)
    else if 49 ≤ b && s.ctx.mbstat.getLsbD (b - 49) then some (b, 0, false) else none
  let e := (s.ctx.readX d).1
  let rb := s.readXs b
  let tb := rb.2.1 || s.ctx.ctnt
  let s1 := l1Drop ((amoClose order rb.2.2).pushLine asid ea.toNat) s.tile asid ea.toNat
  let s2 := s1.touch (homeOf s s.tile p ea.toNat)
  let s3 := s2.sendReq p ea (if wide then 8 else 4) (.atomic op wide rb.1 e tb d order scope) ta
  .sent (s3.onCtx (fun c => { c with wait := .atomic s2.nextReq port }))

/-- What an ordered atomic waits for before its effect f: the release part of Table 5-4 at its scope, and its place
in the SC order (R155, R449, R140). The operands of f are read while the windows are open (R52); f then closes them
by `amoClose`. -/
def amoOrdered (order scope : Nat) (ea : Word) (size : Nat) (f : State → Eff) : State → Eff :=
  if order = 2 ∨ order = 3 then
    atCommit (windowsLanded
      ((if 1 ≤ scope then releasing else id) ((if order = 3 then inScOrder (some ea) size else id) f)))
  else f

/-- An atomic (R155). Orders: 0 rlx, 1 acq, 2 rel, 3 sc; scopes: 0 tile, 1 clus, 2 die, 3 sys. -/
def amoEff (op : Nat) (wide : Bool) (d a b order scope : Nat) (word : Word) (s : State) : Eff :=
  let size := if wide then 8 else 4
  let ea := (s.readXs a).1
  if ea.toNat % size ≠ 0 then .raise (s.exc cALIGN ea)
  else match checkDecl s .atomic ea size with
    | .error e => .raise e
    | .ok tgt =>
      if scopeBad order scope tgt then .raise (s.exc cSCOPE word)
      else if tgt.sink && (op == 1 || op == 10 || s.peekTaint b || s.ctx.ctnt) then .raise (s.exc cTAINTSINK ea)
      else amoOrdered order scope ea size (fun s =>
        match tgt with
        | .loc off =>
          let e := (s.ctx.readX d).1
          let rb := s.readXs b
          localAtomic op (8 * size) off rb.1 e (rb.2.1 || s.ctx.ctnt) d (amoClose order rb.2.2)
        | .span _ p => sendAtomic op wide ea (s.readXs a).2.1 d b order scope p s
        | .remote _ _ => .raise (s.spanf ea 6)) s

/-- amo.w.swap (Table 5-10). -/
def execAmoWSwap (d a b o sc : Nat) (s : State) : Out :=
  issue (.amoWSwap d a b o sc) (amoEff 1 false d a b o sc (instrWord (.amoWSwap d a b o sc))) s
/-- amo.w.add (Table 5-10). -/
def execAmoWAdd (d a b o sc : Nat) (s : State) : Out :=
  issue (.amoWAdd d a b o sc) (amoEff 2 false d a b o sc (instrWord (.amoWAdd d a b o sc))) s
/-- amo.w.and (Table 5-10). -/
def execAmoWAnd (d a b o sc : Nat) (s : State) : Out :=
  issue (.amoWAnd d a b o sc) (amoEff 3 false d a b o sc (instrWord (.amoWAnd d a b o sc))) s
/-- amo.w.or (Table 5-10). -/
def execAmoWOr (d a b o sc : Nat) (s : State) : Out :=
  issue (.amoWOr d a b o sc) (amoEff 4 false d a b o sc (instrWord (.amoWOr d a b o sc))) s
/-- amo.w.xor (Table 5-10). -/
def execAmoWXor (d a b o sc : Nat) (s : State) : Out :=
  issue (.amoWXor d a b o sc) (amoEff 5 false d a b o sc (instrWord (.amoWXor d a b o sc))) s
/-- amo.w.min (Table 5-10). -/
def execAmoWMin (d a b o sc : Nat) (s : State) : Out :=
  issue (.amoWMin d a b o sc) (amoEff 6 false d a b o sc (instrWord (.amoWMin d a b o sc))) s
/-- amo.w.max (Table 5-10). -/
def execAmoWMax (d a b o sc : Nat) (s : State) : Out :=
  issue (.amoWMax d a b o sc) (amoEff 7 false d a b o sc (instrWord (.amoWMax d a b o sc))) s
/-- amo.w.minn (Table 5-10). -/
def execAmoWMinn (d a b o sc : Nat) (s : State) : Out :=
  issue (.amoWMinn d a b o sc) (amoEff 8 false d a b o sc (instrWord (.amoWMinn d a b o sc))) s
/-- amo.w.maxn (Table 5-10). -/
def execAmoWMaxn (d a b o sc : Nat) (s : State) : Out :=
  issue (.amoWMaxn d a b o sc) (amoEff 9 false d a b o sc (instrWord (.amoWMaxn d a b o sc))) s
/-- amo.w.cas (Table 5-10). -/
def execAmoWCas (d a b o sc : Nat) (s : State) : Out :=
  issue (.amoWCas d a b o sc) (amoEff 10 false d a b o sc (instrWord (.amoWCas d a b o sc))) s
/-- amo.d.swap (Table 5-10). -/
def execAmoDSwap (d a b o sc : Nat) (s : State) : Out :=
  issue (.amoDSwap d a b o sc) (amoEff 1 true d a b o sc (instrWord (.amoDSwap d a b o sc))) s
/-- amo.d.add (Table 5-10). -/
def execAmoDAdd (d a b o sc : Nat) (s : State) : Out :=
  issue (.amoDAdd d a b o sc) (amoEff 2 true d a b o sc (instrWord (.amoDAdd d a b o sc))) s
/-- amo.d.and (Table 5-10). -/
def execAmoDAnd (d a b o sc : Nat) (s : State) : Out :=
  issue (.amoDAnd d a b o sc) (amoEff 3 true d a b o sc (instrWord (.amoDAnd d a b o sc))) s
/-- amo.d.or (Table 5-10). -/
def execAmoDOr (d a b o sc : Nat) (s : State) : Out :=
  issue (.amoDOr d a b o sc) (amoEff 4 true d a b o sc (instrWord (.amoDOr d a b o sc))) s
/-- amo.d.xor (Table 5-10). -/
def execAmoDXor (d a b o sc : Nat) (s : State) : Out :=
  issue (.amoDXor d a b o sc) (amoEff 5 true d a b o sc (instrWord (.amoDXor d a b o sc))) s
/-- amo.d.min (Table 5-10). -/
def execAmoDMin (d a b o sc : Nat) (s : State) : Out :=
  issue (.amoDMin d a b o sc) (amoEff 6 true d a b o sc (instrWord (.amoDMin d a b o sc))) s
/-- amo.d.max (Table 5-10). -/
def execAmoDMax (d a b o sc : Nat) (s : State) : Out :=
  issue (.amoDMax d a b o sc) (amoEff 7 true d a b o sc (instrWord (.amoDMax d a b o sc))) s
/-- amo.d.minn (Table 5-10). -/
def execAmoDMinn (d a b o sc : Nat) (s : State) : Out :=
  issue (.amoDMinn d a b o sc) (amoEff 8 true d a b o sc (instrWord (.amoDMinn d a b o sc))) s
/-- amo.d.maxn (Table 5-10). -/
def execAmoDMaxn (d a b o sc : Nat) (s : State) : Out :=
  issue (.amoDMaxn d a b o sc) (amoEff 9 true d a b o sc (instrWord (.amoDMaxn d a b o sc))) s
/-- amo.d.cas (Table 5-10). -/
def execAmoDCas (d a b o sc : Nat) (s : State) : Out :=
  issue (.amoDCas d a b o sc) (amoEff 10 true d a b o sc (instrWord (.amoDCas d a b o sc))) s

/-- The acquire part of an atomic at its scope (R155, Table 5-4). -/
def amoAcquire (order scope : Nat) (s : State) : State :=
  if order = 1 ∨ order = 3 then s.acquire (scope + 1) else s

/-- What reading an operand of class XS has changed is undone: the flit stands at its port again, or the deposit register is
valid again (R156, R169, R217). -/
def State.unread (s : State) (r : Nat × FlitVal × Bool) : State :=
  if r.1 < 45 then
    s.onTile (fun u => { u with fab := { u.fab with coreIn := vset u.fab.coreIn (r.1 - 41) ({ val := r.2.1, taint := r.2.2 } :: u.inQ (r.1 - 41)) } })
  else s.onCtx (fun c => { c with mbstat := Word.setBit c.mbstat (r.1 - 49) true })

/-- ATOMIC_COMPLETE: an atomic in flight arrives at its home slice once the context's earlier accesses to its line have
been performed (`arrive`); its answer writes D, performs the acquire part and ends the instruction; a failed translation is
precise at the atomic, which has no effect: a flit that it consumed stands at its port again, and a deposit register that it
read is valid again (R155, R156, Table 12-7). -/
def atomicComplete (tile : Nat) (c : Fin 4) (s0 : State) : State :=
  let s := s0.as tile c
  match s.ctx.wait with
  | .atomic id port =>
    match s.reqAt id with
    | none => s0
    | some r =>
      let unordered (s : State) : State := { s with sc := s.sc.filter (fun o => !(o.tile == tile && o.ctx == c)) }
      match r.st, r.kind with
      | .sent, _ => arrive s id
      | .done v t, .atomic _ _ _ _ _ d order scope =>
        (amoAcquire order scope (((unordered s).dropReq id).writeXd d v t)).complete
      | .failed e, _ =>
        if s.ctx.settled then
          let s1 := ((unordered s).dropReq id).onCtx (fun x => { x with wait := .nothing })
          (port.elim s1 s1.unread).takeFault e
        else s0
      | _, _ => s0
  | _ => s0

def execAtomicComplete (tile ctx : Nat) (s : State) : Out := .next (atomicComplete tile (ctxNum ctx) s)

/-! ### Updates -/

/-- f32 addition for updates: rounded once to nearest even, subnormals kept, NaN canonical (Table 5-8). -/
def updAddF (p b : Nat) : Nat := (fAdd fmtF32 0 (fmtF32.decode p) (fmtF32.decode b)).1

/-- Combine and merge of a pending value p with an operand b on w bits, by function (Table 5-8). -/
def updFn (fn w p b : Nat) : Nat :=
  match fn with
  | 1 => (p + b) % 2 ^ w
  | 2 => p &&& b
  | 3 => p ||| b
  | 4 => p ^^^ b
  | 5 => if sextNat b w < sextNat p w then b else p
  | 6 => if sextNat p w < sextNat b w then b else p
  | 7 => updAddF p b
  | 8 => if (fmtF32.decode p).isNan || (fmtF32.decode b).isNan then 0x7FC00000 else (fMin fmtF32 p b).1
  | _ => if (fmtF32.decode p).isNan || (fmtF32.decode b).isNan then 0x7FC00000 else (fMax fmtF32 p b).1

/-- An update-only line that holds nothing yet. -/
def newUpd (asid line home : Nat) (p : Span) (fn : Nat) (wide : Bool) : UpdLine :=
  { asid, line, home, dom := p.dom, hash := p.home == 0, fn, wide, valid := 0, vals := List.replicate 16 0, taint := 0 }

/-- A word of an update-only line takes an operand of a context: it is written, or combined with the pending one
(R151). -/
def UpdLine.take (u : UpdLine) (c : Fin 4) (i : Nat) (b : Word) (t : Bool) : UpdLine :=
  let w := if u.wide then 64 else 32
  let v := if u.valid.getLsbD i then BitVec.ofNat 64 (updFn u.fn w (u.vals.getD i 0).toNat b.toNat) else b
  { u with
    valid := bvSet u.valid i true, vals := lset u.vals i v, taint := bvSet u.taint i (t || u.taint.getLsbD i)
    ctxs := bvSet u.ctxs c.val true }

/-- A page whose lines no cache retains (R331). -/
def State.uncachedPage (s : State) (asid va : Nat) : Bool :=
  match (s.ctl (colour va)).leaf asid va with
  | some l => leafUC l.entry || leafKIND l.entry != 0
  | none => false

/-- Room for one more update-only line in its set of L1D: a clean copy of the set goes, or else an update-only line of it is
pushed (R151, R152; which, log entry 7). -/
def State.roomUpd (s : State) (line : Nat) : State :=
  let t := s.tile
  let copies := t.l1d.filter (fun c => l1Set c.line == l1Set line)
  let ups := t.upd.filter (fun u => l1Set u.line == l1Set line)
  if copies.length + ups.length < 8 then s
  else match copies.getLast?, ups.head? with
    | some c, _ => s.onTile (fun t => { t with l1d := t.l1d.filter (fun d => !d.isAt c.asid c.line) })
    | none, some u => pushUpd s s.actor.tile (fun v => v == u)
    | none, none => s

/-- An update to a span line is held in the tile's update-only line (R151). -/
def State.holdUpd (s : State) (p : Span) (fn : Nat) (wide : Bool) (ea b : Word) (t : Bool) : State :=
  let asid := s.forme.asid
  let line := ea.toNat / 64
  let i := ea.toNat % 64 / (if wide then 8 else 4)
  let s := l1Drop s s.tile asid ea.toNat
  let s := if s.tile.upd.any (fun u => u.asid == asid && u.line == line && (u.fn != fn || u.wide != wide)) then
    s.pushLine asid ea.toNat else s
  if s.tile.upd.any (fun u => u.asid == asid && u.line == line) then
    s.onTile (fun tl => { tl with upd := tl.upd.map (fun u => if u.asid == asid && u.line == line then u.take s.actor.ctx i b t else u) })
  else
    (s.roomUpd line).onTile (fun tl =>
      { tl with upd := tl.upd ++ [(newUpd asid line (homeOf s tl p ea.toNat) p fn wide).take s.actor.ctx i b t] })

/-- An update that bypasses L1D is sent to its home slice at once, unmerged (R151, R100, R331). -/
def State.sendNow (s : State) (p : Span) (fn : Nat) (wide : Bool) (ea b : Word) (t ofu : Bool) : State :=
  let asid := s.forme.asid
  let home := homeOf s s.tile p ea.toNat
  let u := (newUpd asid (ea.toNat / 64) home p fn wide).take s.actor.ctx (ea.toNat % 64 / (if wide then 8 else 4)) b t
  ((l1Drop s s.tile asid ea.toNat).pushLine asid ea.toNat).sendUpd s.actor.tile ofu u

/-- An update (R158). -/
def updEff (fn w a b : Nat) (s : State) : Eff :=
  let wide := w == 1
  let size := if wide then 8 else 4
  let ea := (s.readXs a).1
  if ea.toNat % size ≠ 0 then .raise (s.exc cALIGN ea)
  else match checkDecl s .upd ea size with
    | .error e => .raise e
    | .ok tgt =>
      let ordered := s.forme.ofuMode && (match tgt with
        | .loc _ => false
        | _ => true)
      let t := s.peekTaint b || s.ctx.ctnt || (fn == 7 && !ordered)
      if t && tgt.sink then .raise (s.exc cTAINTSINK ea)
      else
        let rb := s.readXs b
        let v : Word := BitVec.ofNat 64 (rb.1.toNat % 2 ^ (8 * size))
        let s := rb.2.2
        match tgt with
        | .loc off =>
          if s.tile.poisoned off size then .sent (s.freezeCore s.actor.tile 3 s.ctx.pc)
          else
            let old := natOfBytes (s.tile.readLocal off size)
            let nt := s.tile.localTaint off size || t
            .ok (s.onTile (fun u =>
              (u.writeLocal off (bytesOfNat size (updFn fn (8 * size) old v.toNat)) false).taintGranule off nt))
        | .span _ p =>
          let ofu := fn == 7 && s.forme.ofuMode
          if p.nc || p.chk || ofu || s.uncachedPage s.forme.asid ea.toNat then .ok (s.sendNow p fn wide ea v t ofu)
          else .ok (s.holdUpd p fn wide ea v t)
        | .remote _ _ => .raise (s.spanf ea 6)

/-- upd.add (Table 5-8). -/
def execUpdAdd (w a b : Nat) (s : State) : Out := issue (.updAdd w a b) (updEff 1 w a b) s
/-- upd.and (Table 5-8). -/
def execUpdAnd (w a b : Nat) (s : State) : Out := issue (.updAnd w a b) (updEff 2 w a b) s
/-- upd.or (Table 5-8). -/
def execUpdOr (w a b : Nat) (s : State) : Out := issue (.updOr w a b) (updEff 3 w a b) s
/-- upd.xor (Table 5-8). -/
def execUpdXor (w a b : Nat) (s : State) : Out := issue (.updXor w a b) (updEff 4 w a b) s
/-- upd.min (Table 5-8). -/
def execUpdMin (w a b : Nat) (s : State) : Out := issue (.updMin w a b) (updEff 5 w a b) s
/-- upd.max (Table 5-8). -/
def execUpdMax (w a b : Nat) (s : State) : Out := issue (.updMax w a b) (updEff 6 w a b) s
/-- upd.fadd.w (Table 5-8). -/
def execUpdFadd (a b : Nat) (s : State) : Out := issue (.updFadd a b) (updEff 7 0 a b) s
/-- upd.fmin.w (Table 5-8). -/
def execUpdFmin (a b : Nat) (s : State) : Out := issue (.updFmin a b) (updEff 8 0 a b) s
/-- upd.fmax.w (Table 5-8). -/
def execUpdFmax (a b : Nat) (s : State) : Out := issue (.updFmax a b) (updEff 9 0 a b) s

/-- upd.flush (R159): pushes every update-only line of the tile, and waits until each push has been merged. -/
def execUpdFlush (s : State) : Out :=
  issue .updFlush (fun s =>
    let s1 := s.pushAll
    if s1.pushes.any (fun u => u.tile == s1.actor.tile) then .wait .mem s1 else .ok s1) s

/-! ### Merging at the home slice (R152, R153) -/

/-- A push waits for what its tile sent to the line before it (R131). -/
def mergeHeld (s : State) (k : Nat) (p : Push) : Bool :=
  (s.pushes.take k).any (fun q => q.tile == p.tile && q.upd.asid == p.upd.asid && q.upd.line == p.upd.line) ||
  s.reqs.any (fun r => r.tile == p.tile && r.asid == p.upd.asid && r.line == p.upd.line && !r.isDone && s.ordOf r < p.id) ||
  (s.tileD p.tile).sb.any (fun e => e.asid == p.upd.asid && e.va.toNat / 64 == p.upd.line && e.st == .pending && e.ord < p.id) ||
  (shownOn s (s.tileD p.tile) p.upd.asid p.upd.line).any (fun e => e.ord < p.id)

/-- The valid words of an update-only line, with their number. -/
def UpdLine.words (u : UpdLine) : List Nat := (List.range 16).filter (fun i => u.valid.getLsbD i)

/-- One word merged into a line at its home slice. -/
def mergeWord (u : UpdLine) (l : L2Line) (i : Nat) : L2Line :=
  let n := if u.wide then 8 else 4
  let off := i * n
  let old := natOfBytes (Line.bytes l.data off n)
  let t := lineTaint l.taint off n || u.taint.getLsbD i
  { l with
    data := Line.put l.data off (bytesOfNat n (updFn u.fn (8 * n) old (u.vals.getD i 0).toNat))
    taint := bvSet l.taint (off / 8) t
    dirty := true }

/-- The exact value of a finite f32 operand in units of 2^-149. -/
def ofuExact (v : FVal) : Int :=
  match v with
  | .fin n m x => if n then -((m * 2 ^ (x + 149).toNat : Nat) : Int) else ((m * 2 ^ (x + 149).toNat : Nat) : Int)
  | _ => 0

/-- An operand added to an exact sum (R153). -/
def OfuSum.add (o : OfuSum) (b : Nat) (t : Bool) (forme : Nat) : OfuSum :=
  let v := fmtF32.decode b
  { o with
    sum := o.sum + ofuExact v
    pinf := o.pinf || v == .inf false
    ninf := o.ninf || v == .inf true
    nan := o.nan || v.isNan
    allNegZero := o.allNegZero && b == 0x80000000
    taint := o.taint || t
    formes := if o.formes.contains forme then o.formes else o.formes ++ [forme] }

/-- An exact sum that holds nothing yet. -/
def newOfu (slice asid va : Nat) (dom : Option Nat) : OfuSum :=
  { slice, asid, va, sum := 0, pinf := false, ninf := false, nan := false, allNegZero := true, taint := false, dom, formes := [] }

/-- A pending sum is folded into its word (R153), in a line that stands under the domain of its adds; `early` taints its
granule. -/
def foldSum (s : State) (o : OfuSum) (early : Bool) : State :=
  let r := lineNow s o.slice o.asid o.va (o.dom.getD 0) 1
  match r.1 with
  | .ok (l, thru) =>
    let f := foldLine r.2 l (o.va % 64) 4
    let l' := if early then { f.1 with taint := bvSet f.1.taint (o.va % 64 / 8) true } else f.1
    f.2.commitLine l' thru
  | .error (c, _, _) =>
    { (r.2.addOrphan o.asid o.va (orphanWords o.asid c.toNat 1 7 false (2 ^ (o.va % 64 / 4)) (o.va / 64 * 64) o.slice
        (Line.put 0 (o.va % 64) (bytesOfNat 4 (ofuFold o 0x80000000).toNat)))) with
      ofu := r.2.ofu.filter (fun x => x != o) }

/-- An ordered-float update enters its word's exact sum at the home slice; where the slice has no entry free for a new
word, the one that it has held longest is folded early (R153; which one, log entry 32). -/
def addOfu (s : State) (p : Push) (slice : Nat) : State :=
  let i := p.upd.words.headD 0
  let va := p.upd.line * 64 + 4 * i
  let b := (p.upd.vals.getD i 0).toNat
  let t := p.upd.taint.getLsbD i
  if s.ofu.any (fun o => o.slice == slice && o.asid == p.upd.asid && o.va == va) then
    { s with ofu := s.ofu.map (fun o =>
        if o.slice == slice && o.asid == p.upd.asid && o.va == va then o.add b t p.forme else o) }
  else
    let s := match (s.ofu.filter (fun o => o.slice == slice)) with
      | o :: r => if 256 ≤ r.length + 1 then foldSum s o true else s
      | [] => s
    { s with ofu := s.ofu ++ [(newOfu slice p.upd.asid va (p.dom.map (·.1))).add b t p.forme] }

/-- A push that is answered REHOME: its tile installs the record, and the push goes to the home that it now computes (R108);
under an empty record to the one it had (log entry 34). -/
def rehomePush (s : State) (k : Nat) (p : Push) : State :=
  let r := vget s.hashdom p.upd.dom 0
  let home := if domEmpty r then p.upd.home else hashHome r (p.upd.line * 64)
  let q : Push := { p with upd := { p.upd with home }, dom := some (p.upd.dom, domGen r) }
  let s1 := s.modTile p.tile (fun t =>
    { t with
      doms := vset t.doms p.upd.dom r
      ctxs := t.ctxs.mapIdx (fun i c => if p.upd.ctxs.getLsbD i then { c with touched := bvSet c.touched (clusterOf home) true } else c) })
  { s1 with pushes := lset s1.pushes k q }

/-- UPDATE_MERGE (R152): push k reaches its home slice, which answers REHOME under another generation (R108) or merges its
valid words by the function's rule; an L1D copy of the line, filled since the update, lacks it and goes. Where the
line's translation fails the push is an orphan (R333). -/
def updateMerge (k : Nat) (s : State) : State :=
  match s.pushes[k]? with
  | none => s
  | some p =>
    if mergeHeld s k p then s
    else
      let u := p.upd
      let stale := match p.dom with
        | some (d, g) => domGen (vget s.hashdom d 0) != g
        | none => false
      if stale then rehomePush s k p
      else
      let s1 := l1Drop { s with pushes := ldel s.pushes k } (s.tileD p.tile) u.asid (u.line * 64)
      if p.ofu then addOfu s1 p u.home
      else
        let r := lineNow s1 u.home u.asid (u.line * 64) u.dom 1
        match r.1 with
        | .error (c, _, _) =>
          let d : Line := Line.ofBytes ((List.range 16).flatMap (fun i =>
            if u.wide && 8 ≤ i then [] else bytesOf (if u.wide then 8 else 4) (if u.valid.getLsbD i then u.vals.getD i 0 else 0)))
          r.2.addOrphan u.asid (u.line * 64) (orphanWords u.asid c.toNat 1 u.fn u.wide u.valid.toNat (u.line * 64) u.home d)
        | .ok (l, thru) =>
          let f := u.words.foldl (fun (a : L2Line × State) i => foldLine a.2 a.1 (i * (if u.wide then 8 else 4)) (if u.wide then 8 else 4)) (l, r.2)
          f.2.commitLine (u.words.foldl (mergeWord u) f.1) thru

def execUpdateMerge (i : Nat) (s : State) : Out := .next (updateMerge i s)

end Sys2Proof.Machine
end

