-- ==== Sys2Proof/Machine/Fetch.lean ====
section
/-! DEFINITION. Fetching instruction words through L1I and the home slices, the stage-map words of a modulo
loop, and the instructions of the RANGE major that act on fetch alone (R96, R97, R100, R104, R124, R331). -/

namespace Sys2Proof.Machine

/-- The acting tile's copy of a domain record brought up to the package's, as a REHOME reply brings it (R108). -/
def State.freshDom (s : State) (p : Span) : State :=
  if p.home == 0 && domGen (vget s.tile.doms p.dom 0) != domGen (vget s.hashdom p.dom 0) then
    s.onTile (fun t => { t with doms := vset t.doms p.dom (vget s.hashdom p.dom 0) })
  else s

/-- The 4-byte word at an offset of a line. -/
def lineLane (l : Line) (off : Nat) : Lane := l.extractLsb' (8 * off) 32

/-- The state after a walk that finds the line of an address on a page whose lines no cache retains (R331), where its slice
does not hold it. -/
def State.walksUncached (s : State) (home asid va : Nat) : Option State :=
  if (s.l2At home asid (va / 64)).any (fun l => l.fill == .valid) then none
  else
    let r := translate s asid va 2 none
    match r.1 with
    | .at loc uc => if uncached loc uc then some r.2 else none
    | .fail _ _ _ => none

/-- The instruction word at an address, for the acting context: the EX right of its span (R104), then L1I, filled
from the home slice on a miss. A page that is uncached, or whose bytes are not in HBM, is refused with SPANF NC
before any access to it (R331); a translation failure is precise (log entry 11); a poisoned granule freezes the core (R430). -/
def fetchAt (s : State) (a : Word) : Except Exc Lane × State :=
  match checkAccess s .fetch a 4 with
  | .error e => (.error e, s)
  | .ok (.span i p) =>
    let va := a.toNat
    let word (d : Line) (poison : BitVec 8) : Except Exc Lane :=
      if lineTaint poison (va % 64) 4 then .error (s.exc cFREEZE a) else .ok (lineLane d (va % 64))
    match s.tile.l1i.find? (fun l => l.asid == s.forme.asid && l.line == va / 64) with
    | some l => (word l.data l.poison, s)
    | none =>
      let s := s.freshDom p
      let home := homeOf s s.tile p va
      match s.walksUncached home s.forme.asid va with
      | some s' => (.error (s.spanf a 8 i), s')
      | none =>
        let r := lineNow s home s.forme.asid va p.dom 2
        match r.1 with
        | .error e => (.error (s.exc e.1 a e.2.1 (walkInfo e.1 e.2.2)), r.2)
        | .ok (l, _) =>
          let c : L1Line := { asid := l.asid, line := l.line, dom := l.dom, data := l.data, taint := l.taint, poison := l.poison }
          (word l.data l.poison, r.2.onTile (fun t => { t with l1i := l1Put t.l1i 0 c }))
  | .ok _ => (.error (s.spanf a 5), s)

/-- The word at PC of the acting context: a word that it has already fetched, or one fetched now (R124). -/
def fetch (s : State) : Except Exc Lane × State :=
  match s.ctx.fetched.find? (fun w => w.1 == s.ctx.pc) with
  | some w => (.ok w.2, s)
  | none => fetchAt s s.ctx.pc

/-- The acting context fetches one more word in sequence beyond those it holds. -/
def State.prefetch (s : State) : State :=
  let ahead := s.ctx.fetched.filter (fun w => s.ctx.pc.toNat < w.1.toNat)
  let a := s.ctx.pc + BitVec.ofNat 64 (4 * (ahead.length + 1))
  match fetchAt s a with
  | (.ok w, s') => s'.onCtx (fun c => { c with fetched := ahead ++ [(a, w)] })
  | (.error _, _) => s

/-- n words from an address on, as operands of loop.m (R63). -/
def fetchWords : Nat → State → Word → List Lane → Except Exc (List Lane) × State
  | 0, s, _, acc => (.ok acc, s)
  | n + 1, s, a, acc =>
    match fetchAt s a with
    | (.ok w, s') => fetchWords n s' (a + 4) (acc ++ [w])
    | (.error e, s') => (.error e, s')

/-- Stage numbers of slots 0 to ii − 1, from the stage-map words (R88). -/
def stagesOf (ws : List Lane) (ii : Nat) : List Nat :=
  (List.range ii).map (fun j => (ws.getD (j / 16) 0).toNat / 4 ^ (j % 16) % 4)

/-- The stage map is one that loop.m takes: every stage below S, no bit set above the last slot (R88). -/
def stagesOk (ws : List Lane) (ii sm1 : Nat) : Bool :=
  (stagesOf ws ii).all (fun x => x ≤ sm1) && ((stagesOf ws (16 * ws.length)).drop ii).all (· == 0)

/-- fetchb (R124): the words fetched beyond itself are discarded. -/
def execFetchb (s : State) : Out := issue .fetchb (fun s => .ok (s.onCtx (fun c => { c with fetched := [] }))) s

end Sys2Proof.Machine
end

