-- ==== Sys2Proof/Machine/Fence.lean ====
section
/-! DEFINITION. Fences, timelines and taint (R139 to R141, R160 to R166): fence, tlwait, tlrd, the TAINT major, and
the events that answer them. -/

namespace Sys2Proof.Machine

/-! ### fence (R160, R161) -/

/-- The work of Table 5-4 after the commit point and the windows, before the effect f: kinds 0 acq, 1 rel, 2 acqrel, 3 sc; scopes 0 ctx,
1 tile, 2 clus, 3 die, 4 sys. -/
def fenceWork (scope kind : Nat) (f : State → Eff) : State → Eff :=
  (if kind ≠ 0 ∧ 2 ≤ scope then releasing else id)
    ((if kind = 3 then inScOrder none 0 else id) (fun s =>
      let s1 := s.onCtx Ctx.closeAll
      let s2 := if kind ≠ 1 then s1.acquire scope else s1
      f (match s2.ownSc with
        | some o => s2.dropSc o
        | none => s2)))

/-- fence (R161): SCOPE where fence.sc names a scope other than .sys (Table 5-2); else a commit point, the open
windows, and the work of Table 5-4. -/
def fenceEff (scope kind : Nat) (s : State) : Eff :=
  if kind = 3 ∧ scope ≠ 4 then .raise (s.exc cSCOPE (instrWord (.fence scope kind)))
  else atCommit (windowsLanded (fenceWork scope kind .ok)) s

def execFence (sc k : Nat) (s : State) : Out := issue (.fence sc k) (fenceEff sc k) s

/-- SC_WINDOW_RESOLVE (R140): the announcements of a window have reached every tile, 512 ticks after its end on the
die of each operation. -/
def scResolve (w : Nat) (s : State) : State :=
  { s with sc := s.sc.map (fun o =>
      if o.window == w && 32 * (w + 1) + 512 ≤ (s.die (physDie o.tile)).p.toNat then { o with resolved := true } else o) }

def execScWindowResolve (window : Nat) (s : State) : Out := .next (scResolve window s)

/-! ### Timelines (R162 to R164) -/

/-- ENGF with subcode TLID. The handle names no command and no address: what the record holds beyond code and
subcode is free (log entry 15). -/
def State.raiseTlid (s : State) : Eff :=
  .raiseIn (s.exc cENGF (s.drawn 0) 1 (s.drawn 1) (s.drawn 2) (s.drawn 3)) (s.spend 4)

/-- tlwait (R163): the window holds the threshold and the handle (Table 12-6). -/
def tlwaitEff (d a b l : Nat) (s : State) : Eff :=
  let ra := s.readXs a
  match s.timeline ra.1 with
  | none => s.raiseTlid
  | some _ =>
    let rb := ra.2.2.readXs b
    .ok (rb.2.2.openWindow l d false .tlwait .waiting (ra.2.1 || rb.2.1) rb.1 ra.1)

def execTlwait (d a b l : Nat) (s : State) : Out := issue (.tlwait d a b l) (tlwaitEff d a b l) s

/-- tlrd (R164): the present value of a counter, tainted. A copy-engine counter is read by a request, for which the
context waits. -/
def tlrdEff (d a : Nat) (s : State) : Eff :=
  let ra := s.readXs a
  match s.timeline ra.1 with
  | none => s.raiseTlid
  | some (n, _) =>
    if Word.field ra.1 14 2 = 2 then .sent (s.onCtx (fun c => { c with wait := .tlrd (BitVec.ofNat 64 n) d }))
    else okXd ra.2.2 d (BitVec.ofNat 64 n) true

def execTlrd (d a : Nat) (s : State) : Out := issue (.tlrd d a) (tlrdEff d a) s

/-- TLRD_REPLY (R164): the value returns. -/
def tlrdReply (tile : Nat) (c : Fin 4) (s0 : State) : State :=
  let s := s0.as tile c
  match s.ctx.wait with
  | .tlrd v d => (s.writeXd d v true).complete
  | _ => s0

def execTlrdReply (tile ctx : Nat) (s : State) : Out := .next (tlrdReply tile (ctxNum ctx) s)

/-! ### Taint (R165, R166) -/

/-- The taint bitmap of selector 0 or 1 (Table 5-15). -/
def State.taintMap (s : State) (sel : Nat) : Word :=
  let t := s.ctx.taint
  if sel = 0 then BitVec.ofNat 64 ((t.x.toNat / 2 * 2) + t.v.toNat * 2 ^ 32)
  else BitVec.ofNat 64 (t.o.toNat + (if t.lr then 2 ^ 8 else 0) + t.m.toNat * 2 ^ 16 +
    s.tile.mx.accTaint.toNat * 2 ^ 24 + (if s.ctx.ctnt then 2 ^ 32 else 0))

/-- The state with the taint bits that a bitmap selects set or cleared. -/
def State.setTaint (s : State) (sel : Nat) (m : Word) (b : Bool) : State :=
  let put {n : Nat} (old : BitVec n) (lo : Nat) : BitVec n :=
    if b then old ||| m.extractLsb' lo n else old &&& ~~~ m.extractLsb' lo n
  if sel = 0 then
    s.onCtx (fun c => { c with taint := { c.taint with x := put c.taint.x 0 &&& ~~~ 1#32, v := put c.taint.v 32 } })
  else
    let s1 := s.onCtx (fun c =>
      let c1 := { c with taint := { c.taint with
        o := put c.taint.o 0, m := put c.taint.m 16
        lr := if m.getLsbD 8 then b else c.taint.lr } }
      if m.getLsbD 32 then c1.setStat stCTNT b else c1)
    s1.onTile (fun t => { t with mx := { t.mx with accTaint := put t.mx.accTaint 24 } })

/-- Writes xN untainted, whatever CTNT holds (R166). -/
def State.writeClean (s : State) (d : Nat) (v : Word) : State :=
  if d = 0 then s
  else s.onCtx (fun c => { c with x := vset c.x d v, taint := { c.taint with x := bvSet c.taint.x d false } })

/-- Taint bits of the eight granules of a local line. -/
def Tile.lineBits (t : Tile) (off : Nat) : Word :=
  BitVec.ofNat 64 ((List.range 8).foldl (fun a i => if t.localTaint (off / 64 * 64 + 8 * i) 8 then a + 2 ^ i else a) 0)

/-- tnt.rd (R166): a bitmap, or with selector 2 the granule bits of a line where it is served. -/
def tntRdEff (d a sel : Nat) (s : State) : Eff :=
  if sel ≠ 2 then .ok (s.writeClean d (s.taintMap sel))
  else
    let ea := (s.readXs a).1
    match checkAccess s .read ea 1 with
    | .error e => .raise e
    | .ok (.loc off) => .ok (s.writeClean d (s.tile.lineBits off))
    | .ok (.span _ p) =>
      .sent ((s.sendReq p (ea - BitVec.ofNat 64 (ea.toNat % 64)) 8 (.taintRead d) (s.readXs a).2.1).onCtx
        (fun c => { c with wait := .taintRead s.nextReq d }))
    | .ok (.remote _ _) => .raise (s.spanf ea 6)

def execTntRd (d a s : Nat) (st : State) : Out := issue (.tntRd d a s) (tntRdEff d a s) st

/-- TAINT_LINE_READ_REPLY: the read arrives at the line's home slice, and its answer at the context. A failed
translation is precise at the tnt.rd (log entry 13). -/
def taintReply (tile : Nat) (c : Fin 4) (s0 : State) : State :=
  let s := s0.as tile c
  match s.ctx.wait with
  | .taintRead id d =>
    match s.reqAt id with
    | none => s0
    | some r =>
      match r.st with
      | .sent => arrive s id
      | .done v _ => ((s.dropReq id).writeClean d v).complete
      | .failed e =>
        if s.ctx.settled then ((s.dropReq id).onCtx (fun x => { x with wait := .nothing })).takeFault e else s0
      | _ => s0
  | _ => s0

def execTaintLineReadReply (tile ctx : Nat) (s : State) : Out := .next (taintReply tile (ctxNum ctx) s)

/-- tnt.set (R166): sets the taint bits that A selects. The taint of A takes no part. -/
def execTntSet (a sel : Nat) (s : State) : Out :=
  issue (.tntSet a sel) (fun s =>
    let r := s.readXs a
    .ok (r.2.2.setTaint sel r.1 true)) s

/-- tnt.clr (R166): clears them. In user mode with TCLRU = 0 it is PRIV (`privFault`). -/
def execTntClr (a sel : Nat) (s : State) : Out :=
  issue (.tntClr a sel) (fun s =>
    let r := s.readXs a
    .ok (r.2.2.setTaint sel r.1 false)) s

/-- tnt.chk (R166): TAINTSINK where the bitmap AND A is nonzero; the record holds the bitmap. It concerns no
address: TVAL is free (log entry 15). -/
def execTntChk (a sel : Nat) (s : State) : Out :=
  issue (.tntChk a sel) (fun s =>
    let r := s.readXs a
    let m := s.taintMap sel
    if m &&& r.1 ≠ 0 then .raiseIn (s.exc cTAINTSINK (s.drawn 0) 0 m) (s.spend 1) else .ok r.2.2) s

end Sys2Proof.Machine
end

