-- ==== Sys2Proof/Machine/Fabric.lean ====
section
/-! DEFINITION. The static network (R167 to R191, R206 to R208): route words of the switches, through lanes, buses,
die edges with HOLD, and the alignment check of R199. A switch is the acting tile's. -/

namespace Sys2Proof.Machine

/-! ### Queues by direction -/

/-- The input FIFO of a physical side and lane. -/
def Tile.fifo (t : Tile) (e : LinkEnd) : List Flit := vget (if e.thru then t.fab.thru else t.fab.sched) e.dir []

/-- The tile with that FIFO replaced. -/
def Tile.setFifo (t : Tile) (e : LinkEnd) (q : List Flit) : Tile :=
  if e.thru then { t with fab := { t.fab with thru := vset t.fab.thru e.dir q } }
  else { t with fab := { t.fab with sched := vset t.fab.sched e.dir q } }

/-- Number of a lane among the HOLD bits of a tile. -/
def LinkEnd.bit (e : LinkEnd) : Nat := if e.thru then 4 + e.dir else e.dir

/-- The link leaves the die. -/
def crossesEdge (p d : Nat) : Bool :=
  match neighbour p d with
  | some q => physDie q != physDie p
  | none => false

/-- Sources of a route word (Table 6-4). -/
inductive SwSrc where
  | link (d : Nat)
  | core (d : Nat)
  | latch
deriving DecidableEq, Repr

/-- The source of output o by its code; none: the output sends nothing. -/
def swSrc (o code : Nat) : Option SwSrc :=
  match code with
  | 0 => none
  | 5 => some (.core o)
  | 6 => some .latch
  | c => some (.link (c - 1))

/-- The source of a bus word (R183). -/
def busSrc (r : Nat) : SwSrc := if r ≤ 4 then .link (r - 1) else if r ≤ 8 then .core (r - 5) else .latch

/-- The flit that a source holds at its head. -/
def Tile.srcHead (t : Tile) (x : SwSrc) : Option Flit :=
  match x with
  | .link d => (vget t.fab.inMap d none).bind (fun e => (t.fifo e).head?)
  | .core d => (t.outQ d).head?
  | .latch => t.sw.latch

/-! ### HOLD (R189) -/

/-- Edge HOLD enable of a tile's forme. -/
def State.holdEnAt (s : State) (t : Tile) : Bool := ((s.formeAt t.forme).map Forme.holdEn).getD false

/-- A saturating count in a field of TKREP. -/
def satInc (w : Word) (lo : Nat) : Word := Word.setField w lo 16 (min 0xFFFF (Word.field w lo 16 + 1))

/-- HOLD of an edge buffer follows its occupancy: asserted from 40 flits on; each change travels to the sender, and
each assertion counts in TKREP (R189, R195). -/
def State.updateHold (s : State) (p : Nat) (e : LinkEnd) : State :=
  let t := s.tileD p
  if crossesEdge p e.dir && s.holdEnAt t then
    let on := 40 ≤ (t.fifo e).length
    if on == t.fab.holdOut.getLsbD e.bit then s
    else
      let m : HoldMsg := { tile := (neighbour p e.dir).getD p, dir := opposite e.dir, thru := e.thru, on }
      let s := if on then s.emit p 7 0 [BitVec.ofNat 8 (e.dir * 2 + (if e.thru then 1 else 0))] else s
      { (s.modTile p (fun t =>
          { t with
            fab := { t.fab with holdOut := bvSet t.fab.holdOut e.bit on }
            tkrep := if on then satInc t.tkrep 32 else t.tkrep })) with
        holds := s.holds ++ [m] }
  else s

/-- The state after the head flit of a FIFO of a tile is taken. -/
def State.takeFifo (s : State) (p : Nat) (e : LinkEnd) : State :=
  (s.modTile p (fun t => t.setFifo e ((t.fifo e).drop 1))).updateHold p e

/-- The state after the head flit of a source of a tile's switch is taken. -/
def State.takeSrc (s : State) (p : Nat) (x : SwSrc) : State :=
  match x with
  | .link d =>
    match vget (s.tileD p).fab.inMap d none with
    | some e => s.takeFifo p e
    | none => s
  | .core d => s.modTile p (fun t => { t with fab := { t.fab with coreOut := vset t.fab.coreOut d ((t.outQ d).drop 1) } })
  | .latch => s.modTile p (fun t => { t with sw := { t.sw with latch := none } })

/-! ### Links -/

/-- The stream port of a tile and side; one that nothing has used yet stands at its reset value (R338). -/
def State.portAt (s : State) (p d : Nat) : StreamPort :=
  (s.streams.find? (fun x => x.tile == p && x.side == d)).getD { tile := p, side := d }

/-- The state with a stream port replaced. -/
def State.putPort (s : State) (x : StreamPort) : State :=
  { s with streams := x :: s.streams.filter (fun y => !(y.tile == x.tile && y.side == x.side)) }

/-- A lane out of a tile has room (R168, R170, R188, R189); a stream port holds 16 flits (R338). -/
def State.linkRoom (s : State) (t : Tile) (e : LinkEnd) : Bool :=
  match neighbour t.phys e.dir with
  | none => (s.portAt t.phys e.dir).out.length < 16
  | some q =>
    if crossesEdge t.phys e.dir then !t.fab.holdSeen.getLsbD e.bit
    else ((s.tileD q).fifo { e with dir := opposite e.dir }).length < 4

/-- A flit leaves a tile on a lane: into the neighbour's FIFO, onto the wire of a die edge (R187), or into a stream
port (R338). -/
def State.sendLink (s : State) (p : Nat) (e : LinkEnd) (f : Flit) : State :=
  match neighbour p e.dir with
  | none => s.putPort { s.portAt p e.dir with out := (s.portAt p e.dir).out ++ [f] }
  | some q =>
    let r : LinkEnd := { e with dir := opposite e.dir }
    if crossesEdge p e.dir then { s with edge := s.edge ++ [{ tile := q, dir := r.dir, thru := r.thru, flit := f }] }
    else s.modTile q (fun t => t.setFifo r (t.fifo r ++ [f]))

/-- TKSLIP (R199, Table 12-8). The tile that INFO0 names is the logical one (log entry 15). -/
def tkslip (t : Tile) (k : Nat) : Exc :=
  { code := cTKSLIP, info0 := BitVec.ofNat 64 t.logical, info1 := BitVec.ofNat 64 t.sw.spc
    info2 := BitVec.ofNat 64 t.alignCtr, step := BitVec.ofNat 64 k }

/-- The alignment interval of a tile is too long for a move onto a die edge (R199). -/
def Tile.slipped (t : Tile) : Bool := 131072 < t.alignCtr

def State.raiseSlip (s : State) (t : Tile) : State :=
  s.raiseForme t.forme (tkslip t (s.stepOf t)) false

/-! ### Firing (R175) -/

/-- The link outputs that a word drives, with their sources: codes for N, E, S, W. -/
def swMoves (n e s w : Nat) : List (Nat × SwSrc) :=
  ([(0, n), (1, e), (2, s), (3, w)].filterMap (fun x => (swSrc x.1 x.2).map (fun y => (x.1, y))))

/-- The inputs that a word delivers to the core: bit 3 of CIN is N, bit 0 W (Table 6-5). -/
def swCins (c : Nat) : List Nat := [0, 1, 2, 3].filter (fun d => c.testBit (3 - d))

/-- The sources of a word, each once. -/
def swSources (ms : List (Nat × SwSrc)) (cs : List Nat) : List SwSrc := (ms.map (·.2) ++ cs.map SwSrc.link).eraseDups

/-- The end of a logical output. -/
def Tile.outEnd (t : Tile) (o : Nat) : Option LinkEnd := vget t.fab.outMap o none

/-- Every source holds a flit and every output and in-queue has room (R175). -/
def State.movesReady (s : State) (t : Tile) (ms : List (Nat × SwSrc)) (cs : List Nat) : Bool :=
  (swSources ms cs).all (fun x => (t.srcHead x).isSome) &&
  ms.all (fun m => ((t.outEnd m.1).map (s.linkRoom t)).getD false) &&
  cs.all (fun d => (t.inQ d).length < portDepth)

/-- Some output of the moves crosses a die edge. -/
def Tile.movesCross (t : Tile) (ms : List (Nat × SwSrc)) : Bool :=
  ms.any (fun m => ((t.outEnd m.1).map (fun e => crossesEdge t.phys e.dir)).getD false)

/-- A flit enters a core in-queue of a tile. -/
def State.toCore (s : State) (p d : Nat) (f : Flit) : State :=
  s.modTile p (fun t => { t with fab := { t.fab with coreIn := vset t.fab.coreIn d (t.inQ d ++ [f]) } })

/-- Performs the moves of a word at once: each source loses one flit, which goes to every output that names it. -/
def State.doMoves (s : State) (p : Nat) (ms : List (Nat × SwSrc)) (cs : List Nat) : State :=
  let t := s.tileD p
  let none' : Flit := { val := 0, taint := false }
  let s1 := (swSources ms cs).foldl (fun s x => s.takeSrc p x) s
  let s2 := ms.foldl (fun s m =>
    match t.outEnd m.1 with
    | some e => s.sendLink p e ((t.srcHead m.2).getD none')
    | none => s) s1
  let s3 := cs.foldl (fun s d => s.toCore p d ((t.srcHead (.link d)).getD none')) s2
  let s4 := s3.modTile p (fun t => { t with swFired := true })
  if ms.isEmpty && cs.isEmpty then s4 else s4.progress t.forme

/-- The switch passes to its next word: the next row of a ring or, at the end of its last pass, the word after the
rows; else the next word in sequence (R176, R178). -/
def Switch.advance (w : Switch) : Switch :=
  match w.inRing with
  | some (first, ii) =>
    if w.rrow + 1 < first + ii then { w with rrow := w.rrow + 1, rem := 0 }
    else if w.rpass = 1 then { w with inRing := none, rrow := first, rpass := 0, rem := 0, spc := w.spc + ii + 1 }
    else { w with rrow := first, rpass := w.rpass - 1, rem := 0 }
  | none => { w with spc := w.spc + 1, rem := 0 }

/-- The acting switch with a function applied. -/
def State.onSw (s : State) (f : Switch → Switch) : State := s.onTile (fun t => { t with sw := f t.sw })

/-- The switches and through lanes of a forme that stands stopped do not move (R414). -/
def State.netStopped (s : State) (t : Tile) : Bool := ((s.formeAt t.forme).map Forme.phase) == some .stopped

/-- The switch of a tile does nothing now: it is halted or stopped, or has fired in this tick already, the next word being
current from the next tick on (R175). -/
def State.swStill (s : State) (t : Tile) : Bool := t.sw.halted || s.netStopped t || t.swFired

/-- The acting tile's moves fire, or TKSLIP stops them; then `done`. A word that cannot fire waits. -/
def fireWord (ms : List (Nat × SwSrc)) (cs : List Nat) (done : Switch → Switch) (s : State) : State :=
  let t := s.tile
  if s.swStill t then s
  else if !s.movesReady t ms cs then s
  else if t.movesCross ms && t.slipped then s.raiseSlip t
  else (s.doMoves t.phys ms cs).onSw done

/-- A word that moves nothing takes one tick. -/
def plainWord (f : Switch → Switch) (s : State) : State :=
  if s.swStill s.tile then s else (s.onSw f).onTile (fun t => { t with swFired := true })

/-- route (R176): fires once and advances. A route that listens fires only with its bus's driver (R183). -/
def execRoute (n e s w c l _b _q _t : Nat) (st : State) : Out :=
  .next (if l = 1 then st else fireWord (swMoves n e s w) (swCins c) Switch.advance st)

/-- rep (R177): REM := COUNT when it becomes current; each firing lowers it, and at 0 the switch advances. -/
def repDone (k : Nat) (w : Switch) : Switch :=
  let r := if w.rem = 0 then k + 1 else w.rem
  if r = 1 then w.advance else { w with rem := r - 1 }

def repWord (ms : List (Nat × SwSrc)) (cs : List Nat) (k : Nat) (s : State) : State :=
  if s.swStill s.tile then s
  else fireWord ms cs (repDone k) (if s.tile.sw.rem = 0 then s.onSw (fun w => { w with rem := k + 1 }) else s)

def execRep (n e s w c k : Nat) (st : State) : Out := .next (repWord (swMoves n e s w) (swCins c) k st)

/-- ring (R178): the ring's rows become current from the next tick. -/
def execRing (f i p : Nat) (s : State) : Out :=
  .next (plainWord (fun w => { w with inRing := some (f, i + 1), rrow := f, rpass := p }) s)

/-- jmp (R179). -/
def execJmp (t : Nat) (s : State) : Out := .next (plainWord (fun w => { w with spc := t }) s)

/-- bnz (R180). -/
def execBnz (c t : Nat) (s : State) : Out :=
  .next (plainWord (fun w =>
    if vget w.c c 0 ≠ 0 then { w with c := vset w.c c (vget w.c c 0 - 1), spc := t } else { w with spc := w.spc + 1 }) s)

/-- setc (R181). -/
def execSetc (c v : Nat) (s : State) : Out :=
  .next (plainWord (fun w => { w with c := vset w.c c (BitVec.ofNat 16 v), spc := w.spc + 1 }) s)

/-- tkwt (R182): completes when L (BASE 0) or P (BASE 1) modulo 65,536 equals VALUE. -/
def execTkwt (b v : Nat) (s : State) : Out :=
  let d := s.die (physDie s.actor.tile)
  .next (if (if b = 0 then d.l else d.p).toNat % 65536 = v then plainWord (fun w => { w with spc := w.spc + 1 }) s else s)

/-- halt (R184). -/
def execSwitchHalt (s : State) : Out := .next (plainWord (fun w => { w with halted := true }) s)

/-- nop (R184). -/
def execNop (s : State) : Out := .next (plainWord (fun w => { w with spc := w.spc + 1 }) s)

/-! ### Buses (R183, R185) -/

/-- The current word of a switch. -/
def Switch.word (w : Switch) : Option Instr :=
  if w.halted then none
  else
    let x := match w.inRing with
      | some _ => vget w.ring w.rrow 0
      | none => w.prog.getD w.spc 0
    match decodeRoute x.toNat with
    | .ok i => some i
    | .error _ => none

/-- The destination of a listen of a word to a bus and slot: 0 the latch, 1 to 4 the core in-queues. -/
def listens (b sl : Nat) (i : Instr) : Option Nat :=
  match i with
  | .route _ _ _ _ _ 1 lb q t => if lb = b ∧ q = sl then some t else none
  | _ => none

/-- The first word of a switch's program, ring rows included, that listens to a bus and slot. -/
def Switch.listenOf (w : Switch) (b sl : Nat) : Option Nat :=
  (w.prog ++ w.ring.toList).findSome? (fun x =>
    match decodeRoute x.toNat with
    | .ok i => listens b sl i
    | .error _ => none)

/-- The segment of a bus: the forme's tiles on the same row (b = 0) or column of the same die (R185). -/
def State.segment (s : State) (t : Tile) (b : Nat) : List Tile :=
  s.tiles.filter (fun u => u.forme == t.forme && physDie u.phys == physDie t.phys &&
    (if b = 0 then physY u.phys == physY t.phys else physX u.phys == physX t.phys))

/-- A destination of a listen has room. -/
def Tile.listenRoom (t : Tile) (dst : Nat) : Bool :=
  if dst = 0 then t.sw.latch.isNone else (t.inQ (dst - 1)).length < portDepth

/-- A flit from a bus goes to a listener's destination. -/
def State.busTo (s : State) (p dst : Nat) (f : Flit) : State :=
  if dst = 0 then s.modTile p (fun t => { t with sw := { t.sw with latch := some f } }) else s.toCore p (dst - 1) f

/-- Moves, deliveries and destination of the listen that is a switch's current word. -/
def listenNow (b sl : Nat) (t : Tile) : Option (List (Nat × SwSrc) × List Nat × Nat) :=
  match t.sw.word with
  | some (.route n e s w c 1 lb q d) => if lb = b ∧ q = sl then some (swMoves n e s w, swCins c, d) else none
  | _ => none

/-- A listener can fire in every respect but the bus. -/
def State.listenerReady (s : State) (b sl : Nat) (t : Tile) : Bool :=
  match listenNow b sl t with
  | some (ms, cs, d) => s.movesReady t ms cs && t.listenRoom d && !(d != 0 && cs.contains (d - 1))
  | none => false

/-- One listener fires with the bus's flit. -/
def State.listenerFire (s : State) (b sl : Nat) (f : Flit) (t : Tile) : State :=
  match listenNow b sl t with
  | some (ms, cs, d) => ((s.doMoves t.phys ms cs).busTo t.phys d f).modTile t.phys (fun u => { u with sw := u.sw.advance })
  | none => s

/-- bus (R183): drives when the die's tick modulo 32 is its slot, its source holds a flit, and every listener can fire; once
in a tick, since the next word, or the next drive of this one, is of a later tick (R175). A driver that listens to its own slot receives the flit at its listen's destination (R185, log entry 14). -/
def busWord (b sl r k : Nat) (s0 : State) : State :=
  if s0.swStill s0.tile then s0
  else
    let s := if s0.tile.sw.rem = 0 then s0.onSw (fun w => { w with rem := k + 1 }) else s0
    let t := s.tile
    let others := (s.segment t b).filter (fun u => u.phys != t.phys && (u.sw.listenOf b sl).isSome)
    let own := t.sw.listenOf b sl
    match t.srcHead (busSrc r) with
    | none => s
    | some f =>
      if (s.die (physDie t.phys)).l.toNat % 32 ≠ sl || others.any Tile.swFired then s
      else if !others.all (s.listenerReady b sl) || !((own.map t.listenRoom).getD true) then s
      else
        match others.find? (fun u => u.slipped && ((listenNow b sl u).map (fun x => u.movesCross x.1)).getD false) with
        | some u => s.raiseSlip u
        | none =>
          let s1 := (s.takeSrc t.phys (busSrc r)).onSw (repDone k)
          let s2 := others.foldl (fun s u => s.listenerFire b sl f u) s1
          let s3 := match own with
            | some d => s2.busTo t.phys d f
            | none => s2
          (s3.onTile (fun t => { t with swFired := true })).progress t.forme

def execBus (b s r k : Nat) (st : State) : Out := .next (busWord b s r k st)

/-! ### Through lanes and die edges -/

/-- THROUGH_LANE_FORWARD: connection i of a tile forwards the head flit of its input onto its outgoing through lane
(R207, R199). -/
def thruForward (p i : Nat) (s : State) : State :=
  let t := s.tileD p
  match t.fab.conns[i]? with
  | none => s
  | some c =>
    let src : LinkEnd := { dir := c.inDir, thru := c.inThru }
    let out : LinkEnd := { dir := c.outDir, thru := true }
    match t.fifo src with
    | [] => s
    | f :: _ =>
      if !s.linkRoom t out || s.netStopped t then s
      else if crossesEdge p c.outDir && t.slipped then s.raiseSlip t
      else ((s.takeFifo p src).sendLink p out f).progress t.forme

def execThroughLaneForward (tile conn : Nat) (s : State) : Out := .next (thruForward tile conn s)

/-- EDGEOVR (R190, Table 12-8). The receiving tile that INFO0 names is the logical one (log entry 15). -/
def edgeovr (t : Tile) (e : LinkEnd) : Exc :=
  { code := cEDGEOVR, info0 := BitVec.ofNat 64 t.logical, info1 := BitVec.ofNat 64 (e.dir * 2 + (if e.thru then 1 else 0)) }

/-- EDGE_FLIT_ARRIVE (R187 to R190): flit i on a wire, the oldest of its lane, enters its edge buffer. With HOLD
enable clear a flit that finds the buffer full is discarded and EDGEOVR raised. -/
def edgeArrive (i : Nat) (s : State) : State :=
  match s.edge[i]? with
  | none => s
  | some x =>
    let e : LinkEnd := { dir := x.dir, thru := x.thru }
    if (s.edge.take i).any (fun y => y.tile == x.tile && y.dir == x.dir && y.thru == x.thru) then s
    else
      let t := s.tileD x.tile
      let s1 := { s with edge := ldel s.edge i }
      if (t.fifo e).length < 64 then ((s1.modTile x.tile (fun t => t.setFifo e (t.fifo e ++ [x.flit]))).updateHold x.tile e).progress t.forme
      else if s.holdEnAt t then s
      else s1.raiseForme t.forme { edgeovr t e with step := BitVec.ofNat 64 (s.stepOf t) } false

def execEdgeFlitArrive (i : Nat) (s : State) : Out := .next (edgeArrive i s)

/-- HOLD_ARRIVE (R189): change i of HOLD, the oldest of its lane, reaches the sender. -/
def holdArrive (i : Nat) (s : State) : State :=
  match s.holds[i]? with
  | none => s
  | some m =>
    if (s.holds.take i).any (fun y => y.tile == m.tile && y.dir == m.dir && y.thru == m.thru) then s
    else
      ({ s with holds := ldel s.holds i }).modTile m.tile (fun t =>
        { t with fab := { t.fab with holdSeen := bvSet t.fab.holdSeen (LinkEnd.bit { dir := m.dir, thru := m.thru }) m.on } })

def execHoldArrive (i : Nat) (s : State) : Out := .next (holdArrive i s)

end Sys2Proof.Machine
end

