-- ==== Sys2Proof/Machine/Message.lean ====
section
/-! DEFINITION. Messages (R209 to R223): galleys, deposits, the MSG major, and the arrival of every
message-network write and acknowledgement. -/

namespace Sys2Proof.Machine

/-! ### Galleys (Tables 7-1 to 7-3) -/

def galTAIL (p : Word) : Nat := Word.field p 32 32
def galHEAD (p : Word) : Nat := Word.field p 0 32

/-- Galley g of a tile. -/
def Tile.galley (t : Tile) (g : Nat) : Galley := vget t.gal g {}

/-- Main-store offset of byte position q of a galley. -/
def galOff (c : Word) (q : Nat) : Nat := galBASE c + q % 2 ^ galSIZE c

/-- A record header (Table 7-3). -/
def galHeader (step : Nat) (seq gen reason len kind srcCtx srcTile : Nat) (tag : Nat) : List Byte :=
  bytesOfNat 16 (step % 2 ^ 32 * 2 ^ 96 + seq % 2 ^ 32 * 2 ^ 64 + gen % 2 ^ 8 * 2 ^ 56 + reason * 2 ^ 53 + len * 2 ^ 48 +
    kind * 2 ^ 46 + srcCtx % 4 * 2 ^ 44 + srcTile % 2 ^ 12 * 2 ^ 32 + tag % 2 ^ 32)

/-- What a record needs, its pad at the end of the ring, and whether both fit (R215). -/
def galPad (c p : Word) (len : Nat) : Nat :=
  let left := 2 ^ galSIZE c - galTAIL p % 2 ^ galSIZE c
  if 16 * (1 + len) ≤ left then 0 else left

def galFits (c p : Word) (len : Nat) : Bool :=
  let used := (galTAIL p + 2 ^ 32 - galHEAD p) % 2 ^ 32
  16 * (1 + len) + galPad c p len + used ≤ 2 ^ galSIZE c

/-- A record written at TAIL of a galley, after a pad where it would pass the end of the ring; every byte is
tainted (R215). -/
def Tile.putRecord (t : Tile) (g : Nat) (step : Nat) (header body : List Byte) : Tile :=
  let c := (t.galley g).cfg
  let p := (t.galley g).ptr
  let len := body.length / 16
  let pad := galPad c p len
  let t1 := if pad = 0 then t
    else t.writeLocal (galOff c (galTAIL p)) (galHeader step 0 0 0 ((pad - 16) / 16) 1 0 0 0) true
  let tail := galTAIL p + pad
  let t2 := t1.writeLocal (galOff c tail) (header ++ body) true
  { t2 with gal := vset t2.gal g { cfg := c, ptr := Word.setField p 32 32 ((tail + 16 + body.length) % 2 ^ 32) } }

/-- A saturating increment of DLCNT (lo 32) or DLDROP (lo 0). -/
def satInc32 (w : Word) (lo : Nat) : Word := Word.setField w lo 32 (min (2 ^ 32 - 1) (Word.field w lo 32 + 1))

/-- DEADLTR (R216, Table 12-8). -/
def deadltr (t : Tile) (k : Nat) : Exc :=
  { code := cDEADLTR, info0 := BitVec.ofNat 64 t.logical, info1 := t.dlstat, step := BitVec.ofNat 64 k }

/-- A dead letter of a tile (R216): written to galley 4, or discarded where that has no room; the first discard in
a superstep raises DEADLTR, the first of each tile (log entry 39). -/
def State.deadLetter (s0 : State) (p : Nat) (reason gen srcCtx srcTile seq tag : Nat) (body : List Byte) : State :=
  let s := s0.emit p 10 0 ([BitVec.ofNat 8 reason, 0] ++ bytesOfNat 2 (srcTile % 2 ^ 12))
  let t := s.tileD p
  let k := s.stepOf t
  let g := t.galley 4
  let len := body.length / 16
  if galEnabled (s.formeOf t) g.cfg && galFits g.cfg g.ptr len then
    s.modTile p (fun t =>
      let t1 := t.putRecord 4 k (galHeader k seq gen reason len 2 srcCtx srcTile tag) body
      { t1 with dlstat := satInc32 t1.dlstat 32 })
  else
    let first := t.deadStep != some (BitVec.ofNat 64 k)
    let s1 := s.modTile p (fun t => { t with dlstat := satInc32 t.dlstat 0, deadStep := some (BitVec.ofNat 64 k) })
    if first then s1.raiseForme t.forme (deadltr (s1.tileD p) k) true else s1

/-! ### send, sendw, dep (R218 to R221) -/

/-- A body of n bytes at an address is a 16-aligned local range wholly in main store or in the active bank. -/
def bodyOk (f : Forme) (b : Word) (n : Nat) : Bool := isLocal b && b.toNat % 16 == 0 && localOk f (b.toNat % 2 ^ 32) n

/-- The body of a message: SPANF, then UNDECL, then its bytes and taint (R219, R220, R232); a poisoned granule
freezes the core (R430). -/
def withBody (b : Word) (n : Nat) (f : List Byte → Bool → State → Eff) (s : State) : Eff :=
  if n = 0 then f [] false s
  else if !bodyOk s.forme b n then .raise (s.spanf b 5)
  else
    let off := b.toNat % 2 ^ 32
    match undeclFault s (.loc off) b n false with
    | some e => .raise e
    | none =>
      if s.tile.poisoned off n then .sent (s.freezeCore s.actor.tile 3 s.ctx.pc)
      else f (s.tile.readLocal off n) (s.tile.localTaint off n) s

/-- SPANF LOCAL for a descriptor that names no tile of the torus, or no range of the receiver's store: the fault
concerns no effective address, and TVAL is free (log entry 15). -/
def State.raiseDesc (s : State) : Eff := .raiseIn (s.spanf (s.drawn 0) 5) (s.spend 1)

/-- send (R219). -/
def sendEff (a b : Nat) (s : State) : Eff :=
  let ra := s.readXs a
  let rb := s.readXs b
  let d := ra.1
  let len := Word.field d 24 4 + 1
  if s.forme.count ≤ Word.field d 0 12 then s.raiseDesc
  else withBody rb.1 (16 * len) (fun body tb s =>
    if s.tile.injFull then .wait .msg s
    else
      let t := tb || ra.2.1 || rb.2.1 || s.ctx.ctnt
      let k := s.packet (Word.field d 0 12) t (.send (Word.field d 12 2) (Word.field d 16 8) len (Word.field d 32 32)
        s.tile.msgSeq body s.actor.ctx s.ctx.pc)
      .ok ((s.inject k).onTile (fun t => { t with msgSeq := (t.msgSeq + 1) % 2 ^ 32 }))) s

def execSend (a b : Nat) (s : State) : Out := issue (.send a b) (sendEff a b) s

/-- TASKF with its tile, its entry, and as its source the tile that raised it, which is the own one (Table 12-8). Where no
entry is concerned that word is free (log entry 15). -/
def State.raiseTaskf (s : State) (sub : BitVec 8) (entry : Option Nat) : Eff :=
  let l := BitVec.ofNat 64 s.tile.logical
  .raiseIn (s.exc cTASKF 0 sub l ((entry.map (BitVec.ofNat 64)).getD (s.drawn 0)) l) (s.spend 1)

/-- sendw (R220), its precise faults in the order that the rule gives. -/
def sendwEff (a b : Nat) (s : State) : Eff :=
  let ra := s.readXs a
  let rb := s.readXs b
  let d := ra.1
  let len := Word.field d 20 5
  let off := Word.field d 32 19
  if s.forme.count ≤ Word.field d 0 12 then s.raiseDesc
  else if 16 < len then s.raiseTaskf 1 (some (Word.field d 12 5))
  else if off % 16 ≠ 0 || s.forme.mainSize < off + 16 * len then s.raiseDesc
  else withBody rb.1 (16 * len) (fun body tb s =>
    if s.tile.injFull then .wait .msg s
    else
      let t := tb || ra.2.1 || (len != 0 && rb.2.1) || s.ctx.ctnt
      .ok (s.inject (s.packet (Word.field d 0 12) t (.sendw off (Word.field d 28 4) (Word.field d 12 5) body)))) s

def execSendw (a b : Nat) (s : State) : Out := issue (.sendw a b) (sendwEff a b) s

/-- dep (R221): deposits all 64 bits of B; a port in B is consumed at issue. -/
def depEff (a b : Nat) (s : State) : Eff :=
  let ra := s.readXs a
  let d := ra.1
  if s.forme.count ≤ Word.field d 0 12 then s.raiseDesc
  else if s.tile.injFull then .wait .msg s
  else
    let rb := ra.2.2.readXs b
    let s1 := rb.2.2
    .ok (s1.inject (s1.packet (Word.field d 0 12) (rb.2.1 || s1.ctx.ctnt)
      (.dep (Word.field d 16 8) (Word.field d 14 2) (Word.field d 12 2) s1.tile.msgSeq rb.1 d)))

def execDep (a b : Nat) (s : State) : Out := issue (.dep a b) (depEff a b) s

/-! ### recv, rpoll, radv (R222) -/

/-- LEN of the header at HEAD of a galley, and whether it is a pad. -/
def Tile.headLen (t : Tile) (g : Nat) : Nat := natOfBytes (t.readLocal (galOff (t.galley g).cfg (galHEAD (t.galley g).ptr)) 16) / 2 ^ 48 % 32
def Tile.headPad (t : Tile) (g : Nat) : Bool :=
  natOfBytes (t.readLocal (galOff (t.galley g).cfg (galHEAD (t.galley g).ptr)) 16) / 2 ^ 46 % 4 == 1

/-- The header at HEAD holds an uncorrectable error (R430). -/
def Tile.headPoison (t : Tile) (g : Nat) : Bool := t.poisoned (galOff (t.galley g).cfg (galHEAD (t.galley g).ptr)) 16

def Tile.galEmpty (t : Tile) (g : Nat) : Bool := galHEAD (t.galley g).ptr == galTAIL (t.galley g).ptr

/-- HEAD of a galley moved past the record there. -/
def Tile.bumpHead (t : Tile) (g : Nat) : Tile :=
  let p := (t.galley g).ptr
  { t with gal := vset t.gal g { t.galley g with ptr := Word.setField p 0 32 ((galHEAD p + 16 * (1 + t.headLen g)) % 2 ^ 32) } }

/-- HEAD moved past every pad that can be read (R222); a ring of 64 KiB holds at most 4,096 records. -/
def skipPads : Nat → Nat → Tile → Tile
  | 0, _, t => t
  | n + 1, g, t => if !t.galEmpty g && !t.headPoison g && t.headPad g then skipPads n g (t.bumpHead g) else t

def Tile.skip (t : Tile) (g : Nat) : Tile := skipPads 4096 g t

/-- The address of the record at HEAD. -/
def Tile.headAddr (t : Tile) (g : Nat) : Word :=
  BitVec.ofNat 64 (localBase + galOff (t.galley g).cfg (galHEAD (t.galley g).ptr))

/-- The header at which HEAD stands, its pads skipped, is to be read and is poisoned. -/
def Tile.badHead (t : Tile) (g : Nat) : Bool := !t.galEmpty g && t.headPoison g

/-- A galley instruction: TASKF GALLEY where the galley is disabled or owned by another context; a poisoned header freezes
the core (R430). -/
def onGalley (g : Nat) (f : State → Eff) (s : State) : Eff :=
  let c := (s.tile.galley g).cfg
  if !galEnabled s.forme c || galOWNER c != s.actor.ctx.val then s.raiseTaskf 2 none
  else
    let s1 := s.onTile (fun t => t.skip g)
    if s1.tile.badHead g then .sent (s1.freezeCore s.actor.tile 3 s.ctx.pc) else f s1

/-- recv (R222): the address of the record at HEAD; on an empty galley the context waits for RECV_WAKE. -/
def execRecv (d g : Nat) (s : State) : Out :=
  issue (.recv d g) (onGalley g (fun s =>
    if s.tile.galEmpty g then .sent (s.onCtx (fun c => { c with wait := .recv g d }))
    else okXd s d (s.tile.headAddr g) true)) s

/-- rpoll (R222): as recv, or 0 on an empty galley. -/
def execRpoll (d g : Nat) (s : State) : Out :=
  issue (.rpoll d g) (onGalley g (fun s =>
    okXd s d (if s.tile.galEmpty g then 0 else s.tile.headAddr g) true)) s

/-- radv (R222): consumes the record at HEAD. -/
def execRadv (g : Nat) (s : State) : Out :=
  issue (.radv g) (onGalley g (fun s => .ok (if s.tile.galEmpty g then s else s.onTile (fun t => t.bumpHead g)))) s

/-- RECV_WAKE (R223): the galley that a context waits on has a record. -/
def recvWake (tile : Nat) (c : Fin 4) (s0 : State) : State :=
  let s := s0.as tile c
  match s.ctx.wait with
  | .recv g d =>
    let s1 := s.onTile (fun t => t.skip g)
    if s1.tile.galEmpty g then s0
    else if s1.tile.badHead g then s1.freezeCore s1.actor.tile 3 s1.ctx.pc
    else (s1.writeXd d (s1.tile.headAddr g) true).complete
  | _ => s0

def execRecvWake (tile ctx : Nat) (s : State) : Out := .next (recvWake tile (ctxNum ctx) s)

/-! ### Arrivals -/

/-- Packet i may be performed: it is the oldest of its sender to its receiver (R210), and its receiver has reached the
superstep in which it entered the network, so that a write lands in that superstep's shadow bank (R235). -/
def State.inOrder (s : State) (i : Nat) (k : Packet) : Bool :=
  !(s.net.take i).any (fun q => q.src == k.src && q.dst == k.dst) && k.step.toNat ≤ s.stepOf (s.tileD k.dst)

/-- The packet leaves the network and its acknowledgement sets out, with the fault that its sender owes. -/
def State.ackPacket (s : State) (i : Nat) (k : Packet) (fault : Option Exc) (xnum : Option Nat := none) : State :=
  { s with net := ldel s.net i, acks := s.acks ++ [{ dst := k.src, ctx := k.srcCtx, gen := k.srcGen, xnum, fault, names := k.names }] }

/-- The race shadow of a shadow bank: another tile's current record of a word that n bytes touch. -/
def Tile.shadowRace (t : Tile) (off n src phase : Nat) : Option Nat := raceOther t.shadow (wordsOf off n) src phase

/-- A write lands in the shadow bank of a tile and sets its words' records (R142, R143). -/
def Tile.landShadow (t : Tile) (off : Nat) (bs : List Byte) (tnt : Bool) (src phase : Nat) : Tile :=
  let t1 := t.writeShadow off bs tnt
  { t1 with shadow := raceSet t1.shadow (wordsOf off bs.length) src phase }

/-- REMOTE_STORE_LAND (R99, R145): the write lands in the shadow bank, or is refused whole where a word races; its
sender then owes RACE. -/
def remoteLand (i : Nat) (s : State) : State :=
  match s.net[i]? with
  | some k =>
    match k.kind with
    | .remoteStore off bs _ pc =>
      if !s.inOrder i k then s
      else
        let t := s.tileD k.dst
        let phase := s.phaseOf k.dst
        match t.shadowRace off bs.length k.srcLog phase with
        | some o =>
          s.ackPacket i k (some { code := cRACE, kind := kCommit, ipc := pc, step := k.step, info0 := BitVec.ofNat 64 o
                                  tval := BitVec.ofNat 64 (0x01FFFFFE00000000 + t.logical * 2 ^ 16 + off) })
        | none => (s.modTile k.dst (fun t => t.landShadow off bs k.taint k.srcLog phase)).ackPacket i k none
    | _ => s
  | none => s

def execRemoteStoreLand (i : Nat) (s : State) : Out := .next (remoteLand i s)

/-- GALLEYOVF (R215, Table 12-8). -/
def galleyovf (k : Packet) (dstLog galley tag seq : Nat) (pc : Word) : Exc :=
  { code := cGALLEYOVF, kind := kCommit, tval := BitVec.ofNat 64 (galley * 2 ^ 12 + dstLog), ipc := pc, step := k.step
    info0 := BitVec.ofNat 64 tag, info1 := BitVec.ofNat 64 seq, tnt := k.taint, infoT := if k.taint then 1 else 0 }

/-- SEND_ARRIVE (R215): written to its galley, dead-lettered, or refused. -/
def sendArrive (i : Nat) (s : State) : State :=
  match s.net[i]? with
  | some k =>
    match k.kind with
    | .send g gen len tag seq body _ pc =>
      if !s.inOrder i k then s
      else
        let t := s.tileD k.dst
        let c := (t.galley g).cfg
        let p := (t.galley g).ptr
        if !galEnabled (s.formeOf t) c then
          (s.deadLetter k.dst 2 gen k.srcCtx.val k.srcLog seq tag body).ackPacket i k none
        else if gen != (t.ctxs[ctxNum (galOWNER c)]).gen.toNat then
          (s.deadLetter k.dst 1 gen k.srcCtx.val k.srcLog seq tag body).ackPacket i k none
        else if !galFits c p len then s.ackPacket i k (some (galleyovf k t.logical g tag seq pc))
        else
          let st := s.stepOf t
          (s.modTile k.dst (fun t =>
            t.putRecord g st (galHeader st seq gen 0 len 0 k.srcCtx.val k.srcLog tag) body)).ackPacket i k none
    | _ => s
  | none => s

def execSendArrive (i : Nat) (s : State) : Out := .next (sendArrive i s)

/-- SENDW_ARRIVE (R220): the bytes are written, carrying the packet's taint, and the counter is raised after. -/
def sendwArrive (i : Nat) (s : State) : State :=
  match s.net[i]? with
  | some k =>
    match k.kind with
    | .sendw off inc entry body =>
      if !s.inOrder i k then s
      else
        let s1 := s.modTile k.dst (fun t => t.writeLocal off body k.taint)
        (s1.ackPacket i k none).raiseCount k.dst entry inc k.srcLog
    | _ => s
  | none => s

def execSendwArrive (i : Nat) (s : State) : Out := .next (sendwArrive i s)

/-- The state of the tile's contexts, deposit registers and interrupt lines among it, stands in their save records, and they
have been restored since by no RESUME (R217, R358). -/
def State.savedCtx (s : State) (t : Tile) : Bool :=
  match s.formeAt t.forme with
  | some f => f.standsHalted && f.saved
  | none => false

/-- DEPOSIT_ARRIVE (R217): the deposit register of the named context, or a dead letter. One that arrives after the save and
also names another generation is given reason 0b100 (log entry 39). -/
def depositArrive (i : Nat) (s : State) : State :=
  match s.net[i]? with
  | some k =>
    match k.kind with
    | .dep gen mb ctx seq val desc =>
      if !s.inOrder i k then s
      else
        let t := s.tileD k.dst
        let c := ctxNum ctx
        let body := bytesOf 8 val ++ bytesOf 8 desc
        if s.savedCtx t then (s.deadLetter k.dst 4 gen k.srcCtx.val k.srcLog seq 0 body).ackPacket i k none
        else if gen != (t.ctxs[c]).gen.toNat then
          (s.deadLetter k.dst 3 gen k.srcCtx.val k.srcLog seq 0 body).ackPacket i k none
        else
          (s.modCtx k.dst c (fun x =>
            { x with
              mb := vset x.mb mb val
              mbTaint := bvSet x.mbTaint mb k.taint
              mbstat := Word.setBit (if x.mbstat.getLsbD mb then Word.setBit x.mbstat (4 + mb) true else x.mbstat) mb true })).ackPacket i k none
    | _ => s
  | none => s

def execDepositArrive (i : Nat) (s : State) : Out := .next (depositArrive i s)

/-- INTERRUPT_PACKET_ARRIVE (R358): sets the line of the named context, or is a dead letter where it holds another
generation. The header fields that name a sending tile are free: the control complex is none (log entry 15). -/
def intrArrive (i : Nat) (s : State) : State :=
  match s.net[i]? with
  | some k =>
    match k.kind with
    | .intr ctx line gen =>
      let t := s.tileD k.dst
      let c := ctxNum ctx
      if !s.inOrder i k || s.savedCtx t then s
      else
        let s1 := { s with net := ldel s.net i }
        if gen == (t.ctxs[c]).gen.toNat then
          s1.modCtx k.dst c (fun x => { x with intp := Word.setBit x.intp line true })
        else
          (s1.deadLetter k.dst 1 gen (s.drawn 0).toNat (s.drawn 1).toNat (s.drawn 2).toNat (s.drawn 3).toNat
            (bytesOfNat 16 line)).spend 4
    | _ => s
  | none => s

def execInterruptPacketArrive (i : Nat) (s : State) : Out := .next (intrArrive i s)

/-! ### Acknowledgements -/

/-- One write of an exchange command has been acknowledged: when an entry has none left, the timeline rises in
number order (R237). -/
def Exchange.acked (x : Exchange) (num : Nat) : Exchange :=
  { x with inflight := x.inflight.map (fun e => if e.1 == num then (e.1, e.2 - 1) else e) }

/-- The timeline counter of the exchange engine: the largest n for which command n and every earlier one have
completed (R162, R237). -/
def exchangeSettle : Nat → Exchange → Exchange
  | 0, x => x
  | n + 1, x =>
    match x.inflight with
    | (k, 0) :: r => if k = x.tl + 1 then exchangeSettle n { x with tl := k, inflight := r } else x
    | _ => x

/-- MSG_ACK (R210): acknowledgement i reaches its sender, which owes the fault that it carries. -/
def msgAck (i : Nat) (s : State) : State :=
  match s.acks[i]? with
  | none => s
  | some a =>
    let s1 := { s with acks := ldel s.acks i }
    let s2 := s1.modTile a.dst (fun t => { t with unacked := t.unacked - 1 })
    let s3 := match a.xnum with
      | some n =>
        s2.modTile a.dst (fun t =>
          let x := t.xch.acked n
          let x1 := match a.fault with
            | some e => { x with faults := x.faults ++ [({ num := n, tile := t.phys, ctx := 0, gen := 0, exc := e } : CmdFault)] }
            | none => x
          { t with xch := exchangeSettle x1.inflight.length x1 })
      | none =>
        match a.fault with
        | some e => s2.modCtx a.dst a.ctx (fun c => { c with deferred := if c.gen == a.gen then c.deferred ++ [e] else c.deferred })
        | none => s2
    let s4 := if (s3.tileD a.dst).xch.tl == (s.tileD a.dst).xch.tl then s3 else s3.progress (s.tileD a.dst).forme
    s4.noteArrival a.dst

def execMsgAck (i : Nat) (s : State) : Out := .next (msgAck i s)

end Sys2Proof.Machine
end

