-- ==== Sys2Proof/Machine/Task.lean ====
section
/-! DEFINITION. The TICK and TASK majors (R195 to R202, R224 to R232): ticks and alignment, sync and gsync, the
waiting-task instructions, and the dispatcher, with the events that end their waits. -/

namespace Sys2Proof.Machine

/-! ### Ticks and alignment (R195 to R199) -/

/-- The die of the acting tile. -/
def State.ownDie (s : State) : Die := s.die (physDie s.actor.tile)

/-- The value that tkrd reads (R197). -/
def State.tickValue (s : State) (sel : Nat) : Word :=
  match sel with
  | 0 => s.ownDie.l
  | 1 => s.ownDie.p
  | _ => BitVec.ofNat 64 s.tile.alignCtr

/-- tkrd (R197): tainted. -/
def execTkrd (d sel : Nat) (s : State) : Out := issue (.tkrd d sel) (fun s => okXd s d (s.tickValue sel) true) s

/-- P has come to within 24 ticks past T: P ≥ T + 24 (R198). -/
def aligned (p t : Word) : Bool := t.toNat + 24 ≤ p.toNat

/-- TKREP after the release of a tkal (Table 6-7): LAST, MAXSLIP, and LATE where it was late. -/
def tkrepAfter (r : Word) (slip : Nat) (late : Bool) : Word :=
  let last := min 0xFFFF slip
  let r1 := Word.setField (Word.setField r 0 16 last) 16 16 (max (Word.field r 16 16) last)
  if late then satInc r1 48 else r1

/-- A tkal of the acting context is released with its slip (R198): TKREP, the interval counter, the TKAL record, D. -/
def State.tkalDone (s : State) (d slip : Nat) (late : Bool) : State :=
  let s1 := s.onTile (fun t => { t with tkrep := tkrepAfter t.tkrep slip late, alignCtr := 0 })
  let c := s.actor.ctx.val
  (s1.emit s.actor.tile 8 c (BitVec.ofNat 8 c :: bytesOfNat 4 (min (2 ^ 32 - 1) slip))).writeXd d (BitVec.ofNat 64 slip) true

/-- tkal (R198): a commit point; a flit is consumed at issue. -/
def tkalEff (d a : Nat) : State → Eff :=
  atCommit (fun s =>
    let ra := s.readXs a
    if aligned s.ownDie.p ra.1 then .ok (ra.2.2.tkalDone d 0 true)
    else
      let port := if 41 ≤ a && a < 45 then some (a - 41, (s.headIn (a - 41)).val, (s.headIn (a - 41)).taint) else none
      .sent (ra.2.2.onCtx (fun c => { c with wait := .tkal ra.1 s.ownDie.l d port })))

def execTkal (d a : Nat) (s : State) : Out := issue (.tkal d a) (tkalEff d a) s

/-- TKAL_RELEASE (R198): P has reached T + 24. -/
def tkalRelease (tile : Nat) (c : Fin 4) (s0 : State) : State :=
  let s := s0.as tile c
  match s.ctx.wait with
  | .tkal t issued d _ =>
    if aligned s.ownDie.p t then (s.tkalDone d (s.ownDie.l - issued).toNat false).complete else s0
  | _ => s0

def execTkalRelease (tile ctx : Nat) (s : State) : Out := .next (tkalRelease tile (ctxNum ctx) s)

/-! ### sync and gsync (R201, R202, R233, R239) -/

/-- The work of fence.acqrel.sys, its commit point among it, before f. -/
def afterSysFence (f : State → Eff) : State → Eff := atCommit (windowsLanded (fenceWork 4 2 f))

/-- sync (R201): TASKF SYNCRTN in a routine (R233); the arrival is recorded and the context waits for the bank swap. -/
def syncEff (s : State) : Eff :=
  if s.ctx.running.isSome then s.raiseTaskf 7 none
  else afterSysFence (fun s =>
    .sent (((s.onTile (fun t => { t with synced := bvSet t.synced s.actor.ctx.val true })).onCtx
      (fun c => { c with wait := .sync, stall := some .sync })).noteArrival s.actor.tile)) s

def execSync (s : State) : Out := issue .sync syncEff s

/-- gsync (R202, R239): TASKF BLOCK where the tile has no block or GSMASK leaves the context out. -/
def gsyncEff (s : State) : Eff :=
  if s.tile.block.isNone || !s.tile.gsMask.getLsbD s.actor.ctx.val then s.raiseTaskf 8 none
  else afterSysFence (fun s =>
    .sent ((s.onTile (fun t => { t with gsynced := bvSet t.gsynced s.actor.ctx.val true })).onCtx
      (fun c => { c with wait := .gsync, stall := some .sync }))) s

def execGsync (s : State) : Out := issue .gsync gsyncEff s

/-! ### rdone, tpost, tinc (R226 to R229) -/

/-- The entry that launched a completed routine stands pending no longer (R225). -/
def Tile.endLaunch (t : Tile) (entry : Option Nat) : Tile :=
  match entry with
  | some n => { t with tasks := vset t.tasks n { vget t.tasks n {} with pend := false } }
  | none => t

/-- Payload of an RTN record (Table 14-1). -/
def rtnPayload (fin : Bool) (ctx routine : Nat) : List Byte :=
  [BitVec.ofNat 8 ((if fin then 128 else 0) + ctx), BitVec.ofNat 8 routine]

/-- The routine of the acting context is complete: its context is free for dispatch. -/
def State.endRoutine (s : State) (r : Running) : State :=
  let s1 := s.onCtx (fun c => { (c.setStat stCTNT false) with st := .noThread, running := none })
  let s2 := (s1.onTile (fun t => t.endLaunch r.entry)).emit s.actor.tile 12 s.actor.ctx.val (rtnPayload true s.actor.ctx.val r.routine)
  ((s2.fireDue s.actor.tile).progress s.tile.forme).noteArrival s.actor.tile

/-- Nothing that the acting context has sent to memory is still on its way: no store, no push of its tile's updates, no load
or atomic. -/
def State.ownSettled (s : State) : Bool :=
  !s.tile.sb.any (fun e => e.ctx == s.actor.ctx && e.st == .pending) && !s.pushes.any (fun u => u.tile == s.actor.tile) &&
  !s.reqs.any (fun r => r.tile == s.actor.tile && r.ctx == s.actor.ctx && !r.isDone)

/-- rdone (R229). -/
def rdoneEff (s : State) : Eff :=
  match s.ctx.running with
  | none => s.raiseTaskf 6 none
  | some r =>
    atCommit (fun s =>
      let s1 := s.pushAll
      if !s1.ownSettled then .wait .mem s1 else .placed (s1.endRoutine r)) s

def execRdone (s : State) : Out := issue .rdone rdoneEff s

/-- tpost (R227): ARMED, then THR, then RTN; the entry fires at once where its count suffices. -/
def tpostEff (a b : Nat) (s : State) : Eff :=
  let va := (s.readXs a).1
  let vb := (s.readXs b).1
  let n := Word.field va 0 5
  let e := vget s.tile.tasks n {}
  if e.arm then s.raiseTaskf 3 (some n)
  else if Word.field vb 0 16 = 0 then s.raiseTaskf 4 (some n)
  else if s.forme.img.routines.length ≤ Word.field va 5 6 then s.raiseTaskf 5 (some n)
  else
    let e' := { e with arm := true, rearm := va.getLsbD 11, routine := Word.field va 5 6, thr := Word.field vb 0 16 }
    .ok ((s.onTile (fun t => { t with tasks := vset t.tasks n e' })).fireDue s.actor.tile)

def execTpost (a b : Nat) (s : State) : Out := issue (.tpost a b) (tpostEff a b) s

/-- tinc (R228): raises a counter of the own tile. What the context has sent to memory comes first, since every access of it
happens before those of a routine that the increment launches (log entry 16). -/
def tincEff (a b : Nat) (s0 : State) : Eff :=
  let s := s0.pushAll
  if !s.ownSettled then .wait .mem s
  else
    let ra := s.readXs a
    let rb := ra.2.2.readXs b
    .ok (rb.2.2.raiseCount s.actor.tile (Word.field ra.1 0 5) (Word.field rb.1 0 16) s.tile.logical)

def execTinc (a b : Nat) (s : State) : Out := issue (.tinc a b) (tincEff a b) s

/-! ### The dispatcher (R230, R231) -/

/-- Two local ranges overlap. -/
def rangesMeet (l m : List (Nat × Nat)) : Bool :=
  l.any (fun x => m.any (fun y => x.1 < y.1 + y.2 && y.1 < x.1 + x.2))

/-- Two routines conflict (R231). -/
def Routine.conflicts (a b : Routine) : Bool :=
  rangesMeet a.wr (b.rd ++ b.wr) || rangesMeet b.wr (a.rd ++ a.wr) ||
  a.ws.any (fun n => b.rs.contains n || b.ws.contains n) || b.ws.any (fun n => a.rs.contains n || a.ws.contains n)

/-- The lowest-numbered dispatch context of a tile that is free. -/
def Tile.freeDispatch (t : Tile) : Option (Fin 4) :=
  ([0, 1, 2, 3] : List (Fin 4)).find? (fun c => t.dispMask.getLsbD c.val && t.ctxs[c].running.isNone && t.ctxs[c].st == .noThread)

/-- Launch i of the ready queue may start: it conflicts with no running routine and with none ahead of it (R231). -/
def State.startable (s : State) (t : Tile) (i : Nat) : Bool :=
  let rs := (s.formeOf t).img.routines
  match t.ready[i]? with
  | none => false
  | some l =>
    match rs[l.routine]? with
    | none => false
    | some d =>
      let others := (t.ctxs.toList.filterMap Ctx.running).map Running.routine ++ (t.ready.take i).map Launch.routine
      others.all (fun r => match rs[r]? with
        | some e => !d.conflicts e
        | none => true)

/-- A dispatch context as a routine finds it (R230): everything zero and untainted but what the rule keeps. A window that was
open at the rdone of the routine before closes in this one and then writes its register, since rdone closes none and R230 does
not speak of windows (log entry 39). -/
def Ctx.startRoutine (c : Ctx) (entry : Word) (xs : List Word) (r : Running) : Ctx :=
  let c1 := (c.setStat stCTNT false).setStat stPFXP false
  { c1 with
    st := .running
    pc := entry
    x := (List.range 32).foldl (fun v i => vset v i (if 10 ≤ i && i < 14 then xs.getD (i - 10) 0 else 0)) c.x
    v := Vector.replicate 32 (Vector.replicate 64 0)
    o := Vector.replicate 8 (Vector.replicate 8 0)
    lr := Vector.replicate 64 0
    m := Vector.replicate 8 0
    taint := {}
    loops := []
    fpctl := 0, qctl := 0, pfxpay := 0, pfxNext := none, pfxLost := false, vbeat := 0, redacc := 0
    mastr := 0, msstr := 0, mascl := 0, mbscl := 0
    csrTaint := [0x10, 0x11, 0x12, 0x13, 0x20, 0x21, 0x22, 0x23].foldl (fun t n => bvSet t n false) c.csrTaint
    fetched := [], wait := .nothing, stall := none, running := some r }

/-- ROUTINE_START (R231): the first launch of the ready queue that may start, on the lowest free dispatch context,
in the compute phase (R234). -/
def routineStart (tile : Nat) (s : State) : State :=
  match s.tileAt tile with
  | none => s
  | some t =>
    let f := s.formeOf t
    if f.phase != .compute || t.frozen then s
    else match t.freeDispatch, (List.range t.ready.length).find? (fun i => s.startable t i) with
      | some c, some i =>
        match t.ready[i]? with
        | none => s
        | some l =>
          match f.img.routines[l.routine]? with
          | none => s
          | some d =>
            let x11 := match l.entry with
              | some n => BitVec.ofNat 64 n
              | none => BitVec.ofNat 64 (f.k - t.stage)
            let xs := [BitVec.ofNat 64 f.k, x11, BitVec.ofNat 64 localBase, BitVec.ofNat 64 t.logical]
            let s1 := s.modTile tile (fun t =>
              { t.modCtx c (fun x => x.startRoutine d.entry xs { routine := l.routine, entry := l.entry }) with ready := ldel t.ready i })
            (s1.emit tile 12 c.val (rtnPayload false c.val l.routine)).noteArrival tile
      | _, _ => s

def execRoutineStart (tile : Nat) (s : State) : Out := .next (routineStart tile s)

/-! ### Commit points -/

/-- COMMIT_POINT (R114): the entries of a context that waits at a commit point are all confirmed or faulted: its first
deferred fault is delivered, or it proceeds. -/
def commitPoint (tile : Nat) (c : Fin 4) (s0 : State) : State :=
  let s := s0.as tile c
  if s.ctx.stall != some .commit || s.ctx.st != .running || s.tile.frozen || !s.forme.phase.runs then s0
  else match commitCheck s with
    | .wait => s0
    | .fault e s1 => s.deliverIn s1 e
    | .go => s.onCtx (fun x => { x with stall := none })

def execCommitPoint (tile ctx : Nat) (s : State) : Out := .next (commitPoint tile (ctxNum ctx) s)

end Sys2Proof.Machine
end

