-- ==== Sys2Proof/Machine/Engine.lean ====
section
/-! DEFINITION. Copy engines (R340 to R349) and stream ports (R338, R339, R345): the ENG major, the runs of copies
and streams, nodes, completion. -/

namespace Sys2Proof.Machine

/-! ### Descriptors (Table 11-9) -/

def Desc.w (d : Desc) (i : Nat) : Word := vget d i 0
def Desc.nk (d : Desc) : Nat := Word.field (d.w 0) 62 2
def Desc.inc (d : Desc) : Nat := Word.field (d.w 0) 58 4
def Desc.entry (d : Desc) : Nat := Word.field (d.w 0) 53 5
def Desc.tile (d : Desc) : Nat := Word.field (d.w 0) 41 12
def Desc.neng (d : Desc) : Nat := Word.field (d.w 0) 35 6
def Desc.nctx (d : Desc) : Nat := Word.field (d.w 0) 32 3
def Desc.nnode (d : Desc) : Nat := Word.field (d.w 0) 28 4

def fnEcpy : Nat := 1
def fnEcpy2 : Nat := 2
def fnEstrm : Nat := 3
def fnEnode : Nat := 4

/-- Rows and row bytes of a copy; a linear one is one row. -/
def Desc.rows (d : Desc) (fn : Nat) : Nat := if fn = fnEcpy2 then Word.field (d.w 3) 32 32 else 1
def Desc.rowBytes (d : Desc) (fn : Nat) : Nat :=
  if fn = fnEcpy2 then Word.field (d.w 3) 0 32 else if fn = fnEstrm then 32 * (d.w 3).toNat else (d.w 3).toNat

/-- Address, as a number, of row r of the source or destination, and the strides. -/
def Desc.sstr (d : Desc) (fn : Nat) : Int := if fn = fnEcpy2 ∨ fn = fnEstrm then (d.w 4).toInt else 0
def Desc.dstr (d : Desc) (fn : Nat) : Int := if fn = fnEcpy2 then (d.w 5).toInt else 0

/-- The port select of estrm: die, side, position, direction. -/
def Desc.portTile (d : Desc) : Nat :=
  let die := Word.field (d.w 2) 0 2
  let pos := Word.field (d.w 2) 4 5
  match Word.field (d.w 2) 2 2 with
  | 0 => 1024 * die + pos
  | 1 => 1024 * die + 32 * pos + 31
  | 2 => 1024 * die + 992 + pos
  | _ => 1024 * die + 32 * pos
def Desc.side (d : Desc) : Nat := Word.field (d.w 2) 2 2
def Desc.sink (d : Desc) : Bool := (d.w 2).getLsbD 9

/-- A field that the command does not use is nonzero, NK is reserved, or a value lies outside its range (R342). -/
def Desc.bad (d : Desc) (fn tiles : Nat) : Bool :=
  d.nk == 3 || Word.field (d.w 0) 0 28 != 0 ||
  (if d.nk = 1 then d.inc == 0 || tiles ≤ d.tile else d.inc != 0 || d.entry != 0 || d.tile != 0) ||
  (if d.nk = 2 then 48 ≤ d.neng else d.neng != 0 || d.nctx != 0 || d.nnode != 0) ||
  (if fn = fnEcpy2 then d.rows fn == 0 || 65535 < d.rows fn || d.rowBytes fn == 0
   else if fn = fnEstrm then (d.w 3).toNat == 0 || 2 ^ 32 ≤ (d.w 3).toNat
   else (d.w 3).toNat == 0 || 2 ^ 40 < (d.w 3).toNat) ||
  (if fn = fnEcpy2 then false
   else if fn = fnEstrm then Word.field (d.w 4) 0 5 != 0 || Word.field (d.w 1) 0 5 != 0 || Word.field (d.w 2) 10 54 != 0
   else d.w 4 != 0) ||
  (fn != fnEcpy2 && d.w 5 != 0) ||
  (if fn = fnEnode then Word.field (d.w 6) 16 16 == 0 || Word.field (d.w 6) 4 12 != 0 || Word.field (d.w 6) 32 32 != 0
   else d.w 6 != 0)

/-- A range from its lowest to its highest byte: address and length. -/
def extent (a : Word) (stride : Int) (rows n : Nat) : Word × Nat :=
  let last := stride * (rows - 1 : Nat)
  let lo := min 0 last
  (BitVec.ofInt 64 (a.toNat + lo), (max 0 last - lo).toNat + n)

/-- The memory ranges of a command: source and destination; of a stream, its one range. -/
def Desc.srcExt (d : Desc) (fn : Nat) : Word × Nat :=
  if fn = fnEstrm then extent (d.w 1) (d.sstr fn) (d.w 3).toNat 32 else extent (d.w 1) (d.sstr fn) (d.rows fn) (d.rowBytes fn)
def Desc.dstExt (d : Desc) (fn : Nat) : Word × Nat := extent (d.w 2) (d.dstr fn) (d.rows fn) (d.rowBytes fn)

/-- First bytes of the rows of a range. -/
def rowStarts (a : Word) (stride : Int) (rows : Nat) : List Int := (List.range rows).map (fun (r : Nat) => (a.toNat : Int) + stride * r)

/-- Source and destination bytes of ecpy or ecpy2 intersect (R343). -/
def Desc.overlaps (d : Desc) (fn : Nat) : Bool :=
  if fn ≠ fnEcpy ∧ fn ≠ fnEcpy2 then false
  else
    let n : Int := d.rowBytes fn
    (rowStarts (d.w 1) (d.sstr fn) (d.rows fn)).any (fun a =>
      (rowStarts (d.w 2) (d.dstr fn) (d.rows fn)).any (fun b => a < b + n && b < a + n))

/-! ### Engine contexts -/

def State.engAt (s : State) (e c : Nat) : Option EngCtx := s.engs.find? (fun x => x.eng == e && x.ctx == c)

def State.modEng (s : State) (e c : Nat) (f : EngCtx → EngCtx) : State :=
  { s with engs := s.engs.map (fun x => if x.eng == e && x.ctx == c then f x else x) }

/-- The engine context that a handle names, if it is bound to the acting context's forme (R162). -/
def State.engOfHandle (s : State) (h : Word) : Option EngCtx :=
  if Word.field h 14 2 = 2 && Word.field h 16 48 == 0 && Word.field h 9 5 == 0 then
    s.engs.find? (fun x => x.eng == Word.field h 3 6 && x.ctx == Word.field h 0 3 && x.forme == s.forme.id)
  else none

/-- A node of an engine context. -/
def EngCtx.node (x : EngCtx) (n : Nat) : Node := vget x.nodes n {}

/-- INFO0 of an engine fault: the command's number, and above it in bits 63 to 56 its function (R348, log entry 15). -/
def EngCmd.info0 (c : EngCmd) : Word := BitVec.ofNat 64 (c.fn * 2 ^ 56 + c.num)

/-- A deferred fault of a command (Table 12-8), with the taint of the descriptor's words that it takes (R360). Bits 63 to 48 of INFO1, above DONE, hold the page request that a PAGEF
carries (R330) and the failure code of the walk that made a WINF (R348, log entry 15). -/
def EngCmd.fault (c : EngCmd) (code sub : BitVec 8) (addr : Nat) (done : Nat) (more : Nat := 0) : Exc :=
  { code, sub, tval := BitVec.ofNat 64 addr, ipc := c.pc, step := c.step, info0 := c.info0
    info1 := BitVec.ofNat 64 (done + (if code == cPAGEF || code == cWINF then more * 2 ^ 48 else 0)), info2 := c.desc.w 7
    tnt := c.taint.extractLsb' 1 5 != 0, infoT := if c.taint.getLsbD 7 then 4 else 0 }

/-- A node that is installed fires in the first moment at which its count has reached its threshold; a frozen context runs
nothing further (R346, R349). -/
def EngCtx.fire (n : Nat) (x : EngCtx) : EngCtx :=
  let k := x.node n
  match k.cmd with
  | some c =>
    if x.frozen || k.cnt < k.thr then x
    else { x with nodes := vset x.nodes n { k with cmd := none, cnt := k.cnt - k.thr }, fired := x.fired ++ [c] }
  | none => x

/-- A command stands in the way of the queue until it is complete: it is no copy of a node, which the queue has set aside
(R340, R346). An enode refused with NODEBUSY completes by its fault. -/
def EngCtx.halts (d : EngCmd × Option Exc) : Bool := d.1.fn != fnEnode || d.2.any (fun e => e.code == cENGF && e.sub == 5)

/-- An enode at the head of the queue, its predecessors complete, is set aside: it installs its copy, or faults where its
node is in use (R346); and so on for those behind it. -/
def EngCtx.setAside : Nat → EngCtx → EngCtx
  | 0, x => x
  | n + 1, x =>
    match x.queue with
    | c :: r =>
      if c.fn != fnEnode || x.frozen || x.finished.any EngCtx.halts then x
      else
        let k := Word.field (c.desc.w 6) 0 4
        if (x.node k).cmd.isSome then
          { x with queue := r, finished := x.finished ++ [(c, some { c.fault cENGF 5 0 0 with tnt := false })] }
        else
          EngCtx.setAside n (EngCtx.fire k
            { x with queue := r, nodes := vset x.nodes k { x.node k with cmd := some c, thr := Word.field (c.desc.w 6) 16 16 } })
    | [] => x

/-- ENGF at issue with a subcode; USER is the descriptor's, with its taint, and what else the record holds is free (log entry
15). -/
def State.raiseEngf (s : State) (sub : BitVec 8) (user : Word) (t : Bool) : Eff :=
  .raiseIn { s.exc cENGF (s.drawn 0) sub (s.drawn 1) (s.drawn 2) user with infoT := if t then 4 else 0 } (s.spend 3)

/-- A range of a command: a local one or one through a span; the remote region is refused (R343). -/
def engRange (s : State) (k : AccKind) (x : Word × Nat) : Except Exc Target :=
  if isRemote x.1 then .error (s.spanf x.1 6) else checkAccess s k x.1 x.2

/-- The placement that a range records. -/
def Target.home : Target → Option Span
  | .span _ p => some p
  | _ => none

/-! ### The ENG major (R343, R346) -/

/-- The command of an ENG instruction, numbered after those of its engine context. -/
def State.engCmd (s : State) (x : EngCtx) (fn : Nat) (desc : Desc) (dt : BitVec 8) (sp dp : Option Span) : EngCmd :=
  { num := x.enq + 1, fn, desc, tile := s.actor.tile, ctx := s.actor.ctx, gen := s.ctx.gen, asid := s.forme.asid
    pc := s.ctx.pc, step := BitVec.ofNat 64 s.forme.k, srcHome := sp, dstHome := dp, pos := 0, taint := dt, ord := s.nextReq }

/-- The command enters: ENQ rises, D takes its number, and the command takes a place in the queue (R343). The tile's
update-only lines are pushed first, since what the context has done so far happens before the command's accesses (R135, log
entry 20). -/
def State.enqueueEng (s : State) (x : EngCtx) (d fn : Nat) (desc : Desc) (dt : BitVec 8) (sp dp : Option Span) : State :=
  let s0 := s.pushSome (fun _ => true)
  let c := s0.engCmd x fn desc dt sp dp
  let s1 := { s0 with nextReq := s0.nextReq + 1 }.modEng x.eng x.ctx (fun y =>
    EngCtx.setAside (y.queue.length + 1) { y with enq := y.enq + 1, queue := y.queue ++ [c] })
  s1.onCtx (fun z => z.writeX d (BitVec.ofNat 64 c.num) true)

/-- The ranges of a command pass their checks: SPANF, UNDECL, TAINTSINK (R343), then the command enters. -/
def engEnter (x : EngCtx) (d fn : Nat) (desc : Desc) (dt : BitVec 8) (rt : Bool) (s : State) : Eff :=
  let src := desc.srcExt fn
  let dst := desc.dstExt fn
  let two := fn != fnEstrm
  let sk := !two && desc.sink
  match engRange s (if sk then .write else .read) src, (if two then engRange s .write dst else .ok (.loc 0)) with
  | .error e, _ => .raise e
  | .ok _, .error e => .raise e
  | .ok ts, .ok td =>
    match undeclFault s ts src.1 src.2 sk, (if two then undeclFault s td dst.1 dst.2 true else none) with
    | some e, _ => .raise e
    | none, some e => .raise e
    | none, none =>
      let into := if two then td else ts
      if into.sink && (dt != 0 || rt) && (two || sk) then .raise (s.exc cTAINTSINK (if two then dst.1 else src.1))
      else if 64 ≤ x.queue.length then .wait .engine s
      else .ok (s.enqueueEng x d fn desc dt ts.home td.home)

/-- An ENG instruction: its checks in the order of R343. -/
def engEff (fn d a b : Nat) (s : State) : Eff :=
  let ra := s.ctx.readX a
  let rb := s.ctx.readX b
  let off := ra.1.toNat % 2 ^ 32
  if ra.1.toNat % 64 ≠ 0 then .raise (s.exc cALIGN ra.1)
  else if !(isLocal ra.1 && localOk s.forme off 64) then .raise (s.spanf ra.1 5)
  else match undeclFault s (.loc off) ra.1 64 false with
    | some e => .raise e
    | none =>
      if s.tile.poisoned off 64 then .sent (s.freezeCore s.actor.tile 3 s.ctx.pc)
      else match s.engOfHandle rb.1 with
        | none => s.raiseTlid
        | some x =>
          let desc : Desc := Vector.ofFn (fun i => s.tile.localWord (off + 8 * i.val))
          let dt := (List.range 8).foldl (fun b i => bvSet b i (ra.2 || s.tile.localTaint (off + 8 * i) 8)) (0 : BitVec 8)
          if desc.bad fn s.forme.count then s.raiseEngf 2 (desc.w 7) (dt.getLsbD 7)
          else if desc.overlaps fn then s.raiseEngf 3 (desc.w 7) (dt.getLsbD 7)
          else engEnter x d fn desc dt rb.2 s

def execEcpy (d a b : Nat) (s : State) : Out := issue (.ecpy d a b) (engEff fnEcpy d a b) s

def execEcpy2 (d a b : Nat) (s : State) : Out := issue (.ecpy2 d a b) (engEff fnEcpy2 d a b) s

def execEstrm (d a b : Nat) (s : State) : Out := issue (.estrm d a b) (engEff fnEstrm d a b) s

def execEnode (d a b : Nat) (s : State) : Out := issue (.enode d a b) (engEff fnEnode d a b) s

/-! ### Copies (R344) -/

/-- What one piece of a command comes to. -/
inductive Piece where
  /-- bytes or flits, and their taint -/
  | moved (n : Nat) (t : Bool)
  | fault (e : Exc)
  | poison
  | waits
deriving DecidableEq, Repr

/-- n bytes, few enough to touch two lines, read for a command: bytes, taint, poison; or code, subcode and page request. -/
def engRead (s : State) (c : EngCmd) (h : Option Span) (a n : Nat) :
    Except (BitVec 8 × BitVec 8 × Nat) (List Byte × Bool × Bool) × State :=
  match h with
  | none =>
    let t := s.tileD c.tile
    let off := a % 2 ^ 32
    (.ok (t.readLocal off n, t.localTaint off n, t.poisoned off n), s)
  | some p =>
    let r := readNow 3 s c.tile c.asid p a n [] false false
    (match r.1 with
      | .ok x => .ok x
      | .error e => .error (e.1, e.2.1, e.2.2.1), r.2)

/-- Bytes of one granule written for a command. -/
def engWrite (s : State) (c : EngCmd) (h : Option Span) (a : Nat) (bs : List Byte) (t : Bool) :
    Except (BitVec 8 × BitVec 8 × Nat) Unit × State :=
  match h with
  | none => (.ok (), s.modTile c.tile (fun x => x.writeLocal (a % 2 ^ 32) bs t))
  | some p =>
    let r := writeNow 3 s c.tile c.asid p a bs t 0
    (match r.1 with
      | .ok x => .ok x
      | .error e => .error (e.1, e.2.1, e.2.2.1), r.2)

/-- The granule at an address, all of whose bytes a command has copied in two halves: its taint bit becomes theirs (R148),
and it holds no poison. -/
def engCover (s : State) (c : EngCmd) (h : Option Span) (a : Nat) (t : Bool) : State :=
  match h with
  | none => s.modTile c.tile (fun x => x.coverLocal (a % 2 ^ 32) t)
  | some p =>
    let r := lineNow s (homeBySpan s c.tile p a) c.asid a p.dom 1
    match r.1 with
    | .error _ => r.2
    | .ok (l, thru) =>
      r.2.commitLine { l with taint := bvSet l.taint (a % 64 / 8) t, poison := bvSet l.poison (a % 64 / 8) false } thru

/-- Source and destination address, and length, of the piece of a copy at a place of its work: bytes of one row and of one
aligned word of the destination, the widest unit that is single-copy atomic (R344). -/
def EngCmd.piece (c : EngCmd) (pos : Nat) : Nat × Nat × Nat :=
  let rb := c.desc.rowBytes c.fn
  let r : Int := (pos / rb : Nat)
  let off := pos % rb
  let src := (BitVec.ofInt 64 ((c.desc.w 1).toNat + c.desc.sstr c.fn * r)).toNat + off
  let dst := (BitVec.ofInt 64 ((c.desc.w 2).toNat + c.desc.dstr c.fn * r)).toNat + off
  (src, dst, min (rb - off) (4 - dst % 4))

/-- The bytes that a copy moves in all. -/
def EngCmd.total (c : EngCmd) : Nat := c.desc.rows c.fn * c.desc.rowBytes c.fn

/-- The places of the pieces from one on that lie in the same row and in one line of the destination. -/
def EngCmd.linePieces (c : EngCmd) : Nat → Nat → List Nat
  | 0, _ => []
  | n + 1, pos =>
    let k := (c.piece pos).2.2
    let next := pos + k
    let same := next < c.total && next / c.desc.rowBytes c.fn == pos / c.desc.rowBytes c.fn &&
      (c.piece next).2.1 / 64 == (c.piece pos).2.1 / 64
    pos :: if same then c.linePieces n next else []

/-- The pieces of the line at hand that are still to be moved. -/
def EngCmd.lineLeft (c : EngCmd) : List Nat := (c.linePieces 16 c.pos).filter (fun p => !c.ahead.any (fun x => x.1 == p))

/-- The taint of the piece that makes up a granule of the destination with the piece at pos, where that has been moved in the
same row: both are whole words. -/
def EngCmd.partner (c : EngCmd) (pos : Nat) (moved : List (Nat × Nat × Bool)) : Option Bool :=
  let dst := (c.piece pos).2.1
  if (c.piece pos).2.2 ≠ 4 then none
  else
    (moved.find? (fun x => x.2.1 == 4 && x.1 / c.desc.rowBytes c.fn == pos / c.desc.rowBytes c.fn &&
      (if dst % 8 = 4 then x.1 + 4 == pos else x.1 == pos + 4))).map (fun x => x.2.2)

/-- One piece of a copy: its bytes move, with the taint of their source bytes (R148). -/
def copyBytes (c : EngCmd) (pos : Nat) (moved : List (Nat × Nat × Bool)) (s : State) : Piece × State :=
  match c.piece pos with
  | (src, dst, n) =>
  let r := engRead s c c.srcHome src n
  match r.1 with
  | .error e => (.fault (c.fault e.1 e.2.1 src c.pos e.2.2), r.2)
  | .ok (bs, t, poison) =>
    if poison then (.poison, r.2)
    else if t && (match c.dstHome with | some p => p.sink | none => false) then (.fault (c.fault cTAINTSINK 0 dst c.pos), r.2)
    else
      let w := engWrite r.2 c c.dstHome dst bs t
      match w.1 with
      | .error e => (.fault (c.fault e.1 e.2.1 dst c.pos e.2.2), w.2)
      | .ok _ =>
        (.moved n t, match c.partner pos moved with
          | some u => engCover w.2 c c.dstHome (dst / 8 * 8) (u || t)
          | none => w.2)

/-- n further pieces of a copy from a place on, each moved or not by a free choice; one that fails is not written, and one
moved already stays. -/
def copyAhead : Nat → Nat → Nat → List (Nat × Nat × Bool) → EngCmd → State → State
  | 0, _, _, _, _, s => s
  | n + 1, k, pos, moved, c, s =>
    if c.total ≤ pos then s
    else
      let next := pos + (c.piece pos).2.2
      if moved.any (fun x => x.1 == pos) then copyAhead n (k + 1) next moved c s
      else
        let r := copyBytes c pos moved s
        match (s.drawn (k / 64)).getLsbD (k % 64), r.1 with
        | true, .moved m t => copyAhead n (k + 1) next ((pos, m, t) :: moved) c r.2
        | _, _ => copyAhead n (k + 1) next moved c s

/-- A copy that failed: bytes at or above DONE may have been written or not (R344). How far on, and which, is free. -/
def copyFailed (c : EngCmd) (s : State) : State :=
  let n := (s.drawn 0).toNat % (c.total + 1)
  (copyAhead n 64 c.pos c.ahead c s).spend (2 + n / 64)

/-- DONE moves past the pieces that have been moved in their order. A granule's first half is remembered until its second
has been moved. -/
def EngCmd.settle : Nat → EngCmd → EngCmd
  | 0, c => c
  | n + 1, c =>
    match c.ahead.find? (fun x => x.1 == c.pos) with
    | some x => EngCmd.settle n { c with pos := c.pos + x.2.1 }
    | none => { c with ahead := c.ahead.filter (fun x => c.pos ≤ x.1 + 4) }

/-- The command after n bytes, or one flit, of its work at a place. -/
def EngCmd.moved (c : EngCmd) (pos n : Nat) (t : Bool) : EngCmd :=
  if c.fn = fnEstrm then { c with pos := c.pos + n } else EngCmd.settle 17 { c with ahead := (pos, n, t) :: c.ahead }

/-- The context with one of its commands replaced, or finished. -/
def EngCtx.setCmd (x : EngCtx) (c : EngCmd) : EngCtx :=
  let f (d : EngCmd) : EngCmd := if d.num == c.num then c else d
  { x with queue := x.queue.map f, fired := x.fired.map f }
def EngCtx.finish (x : EngCtx) (c : EngCmd) (e : Option Exc) : EngCtx :=
  { x with
    queue := x.queue.filter (fun d => d.num != c.num), fired := x.fired.filter (fun d => d.num != c.num)
    finished := x.finished ++ [(c, e)] }

/-- An engine context frozen (R349). -/
def State.freezeEngine (s : State) (e c : Nat) : State :=
  { s with engs := s.engs.map (fun x => if x.eng == e && x.ctx == c then { x with frozen := true } else x) }

/-- FREEZE of an engine context that read a poisoned granule (R430, R375). -/
def State.poisonEngine (s : State) (x : EngCtx) : State :=
  (s.freezeEngine x.eng x.ctx).raiseForme x.forme
    { code := cFREEZE, tval := BitVec.ofNat 64 (2 ^ 62 + x.eng * 8 + x.ctx), info0 := 3
      ipc := ((x.queue.head?).map EngCmd.pc).getD 0
      step := BitVec.ofNat 64 (((s.formeAt x.forme).map Forme.k).getD 0) } false

/-- The state after the piece at a place of command c of engine context x, whose work is `total` in all. -/
def State.afterPiece (s : State) (x : EngCtx) (c : EngCmd) (total pos : Nat) (p : Piece) : State :=
  match p with
  | .moved n t =>
    let c1 := c.moved pos n t
    s.modEng x.eng x.ctx (fun y => if total ≤ c1.pos then y.finish c1 none else y.setCmd c1)
  | .fault e => s.modEng x.eng x.ctx (fun y => y.finish c (some e))
  | .poison => s.poisonEngine x
  | .waits => s

/-- The commands of a function that an engine context may run now: the copies of fired nodes, and beside them the queue's
head once its predecessors have completed (R340, R346). -/
def EngCtx.running (x : EngCtx) (fn : Nat) : List EngCmd :=
  if x.frozen then []
  else
    (if fn = fnEcpy then x.fired else []) ++
    (match x.queue with
      | c :: _ => if c.fn = fn && !x.finished.any EngCtx.halts then [c] else []
      | [] => [])

/-- An access of the issuing context that happens before those of a command (R135) has not been performed yet: a store, a
push of its tile's updates, a load or an atomic. -/
def EngCmd.held (s : State) (c : EngCmd) : Bool :=
  (s.tileD c.tile).sb.any (fun e => e.ctx == c.ctx && e.st == .pending && e.ord < c.ord) ||
  s.pushes.any (fun p => p.tile == c.tile && p.id < c.ord) ||
  s.reqs.any (fun r => r.tile == c.tile && r.ctx == c.ctx && !r.isDone && r.id < c.ord)

/-- The command of a function that an engine context goes on with, and the state once it is chosen: which of several runs
first the spec does not say. -/
def State.runs (s : State) (x : EngCtx) (fn : Nat) : Option EngCmd × State :=
  match (x.running fn).filter (fun c => !c.held s) with
  | [] => (none, s)
  | [c] => (some c, s)
  | l => (l[(s.drawn 0).toNat % l.length]?, s.spend 1)

/-- A copy of an engine context moves piece i of those that are left of the line at hand: lines go in ascending order, the
words of a line in any (R344). -/
def copyStep (e c fn i : Nat) (s : State) : State :=
  match s.engAt e c with
  | none => s
  | some x =>
    match s.runs x fn with
    | (none, s1) => s1
    | (some cmd, s1) =>
      match cmd.lineLeft[i]? with
      | none => s
      | some pos =>
        match copyBytes cmd pos cmd.ahead s1 with
        | (.fault f, s2) => (copyFailed cmd s2).afterPiece x cmd cmd.total pos (.fault f)
        | (r, s2) => s2.afterPiece x cmd cmd.total pos r

/-- ECPY_EXEC (R344). -/
def execEcpyExec (eng ctx : Nat) (s : State) : Out := .next (copyStep eng ctx fnEcpy 0 s)

/-- ECPY2_EXEC (R344). -/
def execEcpy2Exec (eng ctx : Nat) (s : State) : Out := .next (copyStep eng ctx fnEcpy2 0 s)

/-! ### Streams (R338, R339, R345) -/

/-- The location of a stream access: by a valid window, with no walk, else by the walk of R329, whose failure code is kept. -/
def streamLoc (s : State) (x : StreamPort) (asid va access : Nat) : Except (BitVec 8) Loc × State :=
  match x.wins.find? (fun w => w.v && w.vbase * 4096 ≤ va && va < (w.vbase + w.pages) * 4096) with
  | some w => (.ok (.hbm (w.pbase * 4096 + (va - w.vbase * 4096))), s)
  | none =>
    let r := s.reach asid va access
    match r.1 with
    | .at loc _ => (.ok loc, r.2)
    | .fail c _ _ => (.error c, r.2)

/-- WINF (R339). -/
def EngCmd.winf (c : EngCmd) (va : Nat) (code : BitVec 8) : Exc := c.fault cWINF 0 va (32 * c.pos) code.toNat

/-- A flit of a stream read from memory: value and taint; or the reason why not. -/
def streamRead (s : State) (c : EngCmd) (x : StreamPort) (va : Nat) : Except Piece Flit × State :=
  let flit (bs : List Byte) (t : Bool) : Flit := { val := BitVec.ofNat 256 (natOfBytes bs), taint := t }
  match c.srcHome with
  | none =>
    let t := s.tileD c.tile
    let off := va % 2 ^ 32
    (if t.poisoned off 32 then .error .poison else .ok (flit (t.readLocal off 32) (t.localTaint off 32)), s)
  | some _ =>
    match streamLoc s x c.asid va 0 with
    | (.ok loc, s1) =>
      (if TaintSet.has s1.hbmPoison loc.key then .error .poison
       else .ok (flit (s1.readLoc loc 32) (TaintSet.has s1.hbmTaint loc.key)), s1)
    | (.error k, s1) => (.error (.fault (c.winf va k)), s1)

/-- A flit of a stream written to memory; a line of memory keeps one taint bit (R148). -/
def streamWrite (s : State) (c : EngCmd) (x : StreamPort) (va : Nat) (f : Flit) : Except Piece Unit × State :=
  let bs := bytesOfNat 32 f.val.toNat
  match c.srcHome with
  | none => (.ok (), s.modTile c.tile (fun t => t.writeLocal (va % 2 ^ 32) bs f.taint))
  | some p =>
    if f.taint && p.sink then (.error (.fault (c.fault cTAINTSINK 0 va (32 * c.pos))), s)
    else match streamLoc s x c.asid va 1 with
      | (.ok loc, s1) =>
        let s2 := s1.writeLoc loc bs
        (.ok (), if f.taint then { s2 with hbmTaint := TaintSet.add s2.hbmTaint loc.key } else s2)
      | (.error k, s1) => (.error (.fault (c.winf va k)), s1)

/-- One flit of the stream of command c of engine context x through its port. -/
def streamPiece (x : EngCtx) (c : EngCmd) (s : State) : Piece × State :=
  let pt := c.desc.portTile
  let side := c.desc.side
  let own := some (x.eng, x.ctx, c.num)
  let ours : Bool := match s.tileAt pt with
    | some t => t.forme == x.forme
    | none => false
  if !ours || (neighbour pt side).isSome then (.fault (c.fault cENGF 4 (c.desc.w 1).toNat 0), s)
  else
    let port := s.portAt pt side
    let va := (BitVec.ofInt 64 ((c.desc.w 1).toNat + c.desc.sstr fnEstrm * (c.pos : Nat))).toNat
    let e : LinkEnd := { dir := side, thru := false }
    if c.desc.sink then
      if port.snk.isSome && port.snk != own then (.waits, s)
      else
        let s1 := s.putPort { port with snk := own }
        match port.out with
        | [] => (.waits, s1)
        | f :: r =>
          match streamWrite s1 c port va f with
          | (.error p, s2) => (p, s2)
          | (.ok _, s2) => (.moved 1 f.taint, s2.putPort { s2.portAt pt side with out := r })
    else if port.src.isSome && port.src != own then (.waits, s)
    else
      let s1 := s.putPort { port with src := own }
      if 16 ≤ ((s1.tileD pt).fifo e).length then (.waits, s1)
      else match streamRead s1 c port va with
        | (.error p, s2) => (p, s2)
        | (.ok f, s2) => (.moved 1 f.taint, s2.modTile pt (fun t => t.setFifo e (t.fifo e ++ [f])))

/-- A port carries no longer the stream of a command that has ended. -/
def State.leavePort (s : State) (x : EngCtx) (c : EngCmd) : State :=
  let own := some (x.eng, x.ctx, c.num)
  { s with streams := s.streams.map (fun p =>
      { p with src := if p.src == own then none else p.src, snk := if p.snk == own then none else p.snk }) }

/-- ESTRM_EXEC (R345): one flit. -/
def streamStep (e c : Nat) (s : State) : State :=
  match s.engAt e c with
  | none => s
  | some x =>
    match s.runs x fnEstrm with
    | (none, s1) => s1
    | (some cmd, s0) =>
      let r := streamPiece x cmd s0
      let s1 := r.2.afterPiece x cmd (cmd.desc.w 3).toNat cmd.pos r.1
      match r.1 with
      | .moved _ _ =>
        -- a flit of the static network has moved (R367)
        let s2 := s1.progress x.forme
        if (cmd.desc.w 3).toNat ≤ cmd.pos + 1 then s2.leavePort x cmd else s2
      | .fault _ => s1.leavePort x cmd
      | _ => s1

def execEstrmExec (eng ctx : Nat) (s : State) : Out := .next (streamStep eng ctx s)

/-! ### Nodes and completion (R346 to R348) -/

/-- NODE_FIRE: an installed node whose count has reached its threshold. -/
def nodeFire (e c n : Nat) (s : State) : State := s.modEng e c (EngCtx.fire n)

def execNodeFire (eng ctx node : Nat) (s : State) : Out := .next (nodeFire eng ctx node s)

/-- The counter rises in number order over the commands that have completed (R162, R346). -/
def tlSettle : Nat → EngCtx → EngCtx
  | 0, x => x
  | n + 1, x =>
    if x.ahead.contains (x.tl + 1) then tlSettle n { x with tl := x.tl + 1, ahead := x.ahead.filter (· != x.tl + 1) } else x

/-- A node's count raised by 1, whereupon it may fire; a count beyond its 16 bits is free (log entry 20). -/
def State.notifyNode (s : State) (e c n : Nat) : State :=
  let s1 := s.modEng e c (fun y =>
    let k := y.node n
    EngCtx.fire n
      { y with nodes := vset y.nodes n { k with cnt := if k.cnt < 65535 then k.cnt + 1 else (s.drawn 0).toNat % 65536 } })
  if (s.engAt e c).any (fun y => 65535 ≤ (y.node n).cnt) then s1.spend 1 else s1

/-- The notification of a command that has completed without a fault (R347). CNTOVF names the issuing tile as the
source (log entry 20); the node may be one of any engine context, installed or not. -/
def State.notify (s : State) (x : EngCtx) (c : EngCmd) : State :=
  match c.desc.nk with
  | 1 =>
    match s.logicalTile x.forme c.desc.tile with
    | some t => s.raiseCount t.phys c.desc.entry c.desc.inc (s.tileD c.tile).logical
    | none => s
  | 2 => s.notifyNode c.desc.neng c.desc.nctx c.desc.nnode
  | _ => s

/-- A command's fault is kept for its context, or is a forme fault where that context's generation is another (R348). -/
def State.keepFault (s : State) (x : EngCtx) (c : EngCmd) (e : Exc) : State :=
  if ((s.tileD c.tile).ctxs[c.ctx]).gen == c.gen then
    s.modEng x.eng x.ctx (fun y =>
      { y with faults := y.faults ++ [({ num := c.num, tile := c.tile, ctx := c.ctx, gen := c.gen, exc := e } : CmdFault)] })
  else s.raiseForme x.forme e true

/-- ENGINE_COMMAND_COMPLETE: the oldest finished command is counted, notifies, or leaves its fault. -/
def engComplete (e c : Nat) (s : State) : State :=
  match s.engAt e c with
  | none => s
  | some x =>
    match x.finished with
    | [] => s
    | (cmd, f) :: r =>
      if x.frozen then s
      else
        let s1 := (s.modEng e c (fun y =>
          EngCtx.setAside (y.queue.length + 1) (tlSettle (y.ahead.length + 1) { y with finished := r, ahead := cmd.num :: y.ahead }))).progress x.forme
        match f with
        | some exc => s1.keepFault x cmd exc
        | none => s1.notify x cmd

def execEngineCommandComplete (eng ctx : Nat) (s : State) : Out := .next (engComplete eng ctx s)

end Sys2Proof.Machine
end

