-- ==== Sys2Proof/Machine/Complex.lean ====
section
/-! DEFINITION. The control complex's own accesses to memory (R344, R370, R396, R404), the events that it holds (R387),
completion of records (R384), trace frames as they are written (R404), and tiles that a forme gives up. -/

namespace Sys2Proof.Machine

/-! ### Accesses at the home slices

An access of the control complex reads the copy of a line that a slice holds and writes every copy; where no slice
holds the line, memory itself is read or written (log entry 22). -/

/-- The valid copies of a line of an ASID in the slices. -/
def State.copies (s : State) (asid line : Nat) : List L2Line :=
  s.l2.filter (fun l => l.asid == asid && l.line == line && l.fill == .valid)

/-- The pending exact sums of a line are folded before it is read (R153). -/
def State.foldAll (s : State) (asid line : Nat) : State :=
  (s.ofu.filter (fun o => o.asid == asid && o.va / 64 == line)).foldl (fun s o => foldSum s o false) s

/-- Why an access of the control complex failed: code, subcode and the failing address. -/
structure AccFail where
  code : BitVec 8
  sub : BitVec 8
  addr : Word
deriving DecidableEq, Repr

/-- A line as the control complex reads it: data and taint. -/
def ccLine (s0 : State) (asid va : Nat) : Except AccFail (Line × BitVec 8) × State :=
  let s := s0.foldAll asid (va / 64)
  let cs := s.copies asid (va / 64)
  match (cs.find? L2Line.dirty).or cs.head? with
  | some l => (.ok (l.data, l.taint), s)
  | none =>
    let r := s.reach asid va 0
    match r.1 with
    | .fail c b _ => (.error { code := c, sub := b, addr := BitVec.ofNat 64 va }, r.2)
    | .at loc _ => let d := r.2.loadLine loc; (.ok (d.1, d.2.1), r.2)

/-- n bytes read by the control complex, each with the taint of its granule. -/
def ccRead : Nat → State → Nat → Nat → Nat → List (Byte × Bool) → Except AccFail (List (Byte × Bool)) × State
  | 0, s, _, _, _, acc => (.ok acc, s)
  | fuel + 1, s, asid, va, n, acc =>
    if n = 0 then (.ok acc, s)
    else
      let k := min n (64 - va % 64)
      let r := ccLine s asid (va / 64 * 64)
      match r.1 with
      | .error e => (.error e, r.2)
      | .ok (d, t) =>
        let bs := (Line.bytes d (va % 64) k).zipIdx.map (fun b => (b.1, t.getLsbD ((va % 64 + b.2) / 8)))
        ccRead fuel r.2 asid (va + k) (n - k) (acc ++ bs)

/-- Lines that n bytes from an address touch, and one more. -/
def fuelOf (n : Nat) : Nat := n / 64 + 3

/-- 64-bit words read by the control complex, each with the taint of its granule. -/
def ccWords (s : State) (asid va n : Nat) : Except AccFail (List (Word × Bool)) × State :=
  let r := ccRead (fuelOf (8 * n)) s asid va (8 * n) []
  match r.1 with
  | .error e => (.error e, r.2)
  | .ok bs => (.ok ((List.range n).map (fun i =>
      let b := (bs.drop (8 * i)).take 8
      (wordOf (b.map (·.1)), b.any (·.2)))), r.2)

/-- Bytes written into a line from an offset on: data, taint granule by granule (R148), poison. -/
def putBytes (x : Line × BitVec 8 × BitVec 8) (off : Nat) (bs : List (Byte × Bool)) : Line × BitVec 8 × BitVec 8 :=
  let n := bs.length
  (Line.put x.1 off (bs.map (·.1)),
    (List.range 8).foldl (fun t g =>
      let lo := max off (8 * g)
      let hi := min (off + n) (8 * g + 8)
      if lo < hi then lineTaintStore t lo (hi - lo) (((bs.drop (lo - off)).take (hi - lo)).any (·.2)) else t) x.2.1,
    linePoisonStore x.2.2 off n)

/-- Bytes written into a copy of a line. -/
def L2Line.putBytes (l : L2Line) (off : Nat) (bs : List (Byte × Bool)) : L2Line :=
  let x := Machine.putBytes (l.data, l.taint, l.poison) off bs
  { l with data := x.1, taint := x.2.1, poison := x.2.2 }

/-- Bytes of one line written by the control complex. -/
def ccPut (s : State) (asid va : Nat) (bs : List (Byte × Bool)) : Except AccFail Unit × State :=
  let cs := s.copies asid (va / 64)
  match (cs.find? L2Line.dirty).or cs.head? with
  | some d =>
    (.ok (), cs.foldl (fun s l =>
      let m := l.putBytes (va % 64) bs
      s.putL2 (if l.slice == d.slice then { m with dirty := true } else m)) s)
  | none =>
    let r := s.reach asid va 1
    match r.1 with
    | .fail c b _ => (.error { code := c, sub := b, addr := BitVec.ofNat 64 va }, r.2)
    | .at loc _ =>
      let x := putBytes (r.2.loadLine loc) (va % 64) bs
      (.ok (), r.2.storeLine loc x.1 x.2.1 x.2.2)

/-- Bytes written by the control complex, line by line, up to the first that fails. -/
def ccWrite : Nat → State → Nat → Nat → List (Byte × Bool) → Except AccFail Unit × State
  | 0, s, _, _, _ => (.ok (), s)
  | fuel + 1, s, asid, va, bs =>
    match bs with
    | [] => (.ok (), s)
    | _ =>
      let k := min bs.length (64 - va % 64)
      let r := ccPut s asid va (bs.take k)
      match r.1 with
      | .error e => (.error e, r.2)
      | .ok _ => ccWrite fuel r.2 asid (va + k) (bs.drop k)

def wordBytes (ws : List (Word × Bool)) : List (Byte × Bool) := ws.flatMap (fun w => (bytesOf 8 w.1).map (fun b => (b, w.2)))

/-- Words written by the control complex. -/
def ccPutWords (s : State) (asid va : Nat) (ws : List (Word × Bool)) : Except AccFail Unit × State :=
  ccWrite (fuelOf (8 * ws.length)) s asid va (wordBytes ws)

/-- Chunks of words written by the control complex, each at its own offset from a base. -/
def ccPutChunks (s : State) (asid base : Nat) : List (Nat × List (Word × Bool)) → Except AccFail Unit × State
  | [] => (.ok (), s)
  | c :: r =>
    let x := ccPutWords s asid (base + c.1) c.2
    match x.1 with
    | .error e => (.error e, x.2)
    | .ok _ => ccPutChunks x.2 asid base r

/-- Every dirty line of an ASID that overlaps n bytes is written back, and stays valid. -/
def State.cleanRange (s : State) (asid va n : Nat) : State :=
  (s.l2.filter (fun l => l.asid == asid && l.dirty && va / 64 ≤ l.line && l.line ≤ (va + n - 1) / 64)).foldl (fun s l => s.cleanL2 l) s

/-! ### Events and page requests as they are written -/

/-- EVENT_RECORD_WRITE (R387): the oldest event held is written once the ring has room. -/
def eventRecordWrite (s : State) : State :=
  match s.host.held with
  | w :: r => if s.host.ev.room then ({ s with host := { s.host with held := r } }).putEvent w else s
  | [] => s

def execEventRecordWrite (s : State) : Out := .next (eventRecordWrite s)

/-- PAGE_REQUEST_RECORD_WRITE (R388): the record of an open page request. -/
def pageRequestRecord (c slot : Nat) (s : State) : State :=
  match (s.ctl c).slots.find? (fun x => x.slot == slot) with
  | some x =>
    let r := s.host.pr
    if x.recorded || !r.room then s
    else
      let w0 := BitVec.ofNat 64 (x.asid % 2 ^ 16 * 2 ^ 48 + x.access % 4 * 2 ^ 46 + x.size % 4 * 2 ^ 44 + 64 * c + slot)
      let s1 := s.writeHost (r.base.toNat + 32 * (r.tail.toNat % 2 ^ r.log2n)) ([w0, BitVec.ofNat 64 x.va, 0, 0].flatMap (bytesOf 8))
      let s2 := s1.modCtl c (fun k =>
        { k with slots := k.slots.map (fun y => if y.slot == slot then { y with recorded := true } else y) })
      ({ s2 with host := { s2.host with pr := { r with tail := r.tail + 1 } } }).signal r.vec
  | none => s

def execPageRequestRecordWrite (ctl slot : Nat) (s : State) : Out := .next (pageRequestRecord ctl slot s)

/-! ### Records of the queues (R384) -/

def State.queue (s : State) (q : Nat) : HQueue := vget s.host.queues q {}

def State.modQueue (s : State) (q : Nat) (f : HQueue → HQueue) : State :=
  { s with host := { s.host with queues := vset s.host.queues q (f (s.queue q)) } }

def HRec.w (r : HRec) (i : Nat) : Word := vget r.words i 0
def HRec.opc (r : HRec) : Nat := Word.field (r.w 0) 40 8
def HRec.user (r : HRec) : Word := r.w 30
/-- The forme that the body names. -/
def HRec.forme (r : HRec) : Nat := Word.field (r.w 10) 8 8

/-- A record belongs to the present start of its queue. -/
def HQueue.owns (q : HQueue) (r : HRec) : Bool := r.index / 2 ^ 32 == q.starts

/-- The records at the head of a queue that have completed leave it, the last DONEVAL among them published and the
queue's vector signalled; a queue that closes becomes all ones behind its last record (R384, R385). -/
def HQueue.settle : Nat → HQueue → HQueue × Bool
  | 0, q => (q, false)
  | n + 1, q =>
    match q.accepted with
    | r :: l => if r.complete then ((HQueue.settle n { q with accepted := l, done := r.w 1 }).1, true) else (q, false)
    | [] => (q, false)

/-- A closing queue with nothing left to run. -/
def HQueue.shut (q : HQueue) : HQueue :=
  if q.closing && q.accepted.isEmpty && q.fetched.isNone then { q with closing := false, done := BitVec.allOnes 64 } else q

/-- Records of an earlier start run on, and leave as they complete, without touching the queue's registers. -/
def State.settleQueue (s : State) (q : Nat) : State :=
  let x := s.queue q
  let r := HQueue.settle x.accepted.length { x with accepted := x.accepted.filter x.owns }
  let old := x.accepted.filter (fun r => !x.owns r && !r.complete)
  let s1 := s.modQueue q (fun _ => { r.1.shut with accepted := old ++ r.1.accepted })
  if r.2 then s1.signal (s.queue q).vec else s1

/-- Record `index` of a queue changed where it stands. -/
def State.modRec (s : State) (q index : Nat) (f : HRec → HRec) : State :=
  s.modQueue q (fun x => { x with accepted := x.accepted.map (fun r => if r.index == index then f r else r) })

/-- A record takes effect. -/
def State.recEffect (s : State) (q index : Nat) : State := s.modRec q index (fun r => { r with effect := true })

/-- A record that has not completed yet completes with a status: HQERR and an event where it is not OK. -/
def State.recDone (s : State) (q index status : Nat) (e : Exc := { code := 0 }) : State :=
  match (s.queue q).accepted.find? (fun r => r.index == index && !r.complete) with
  | none => s
  | some r =>
    let s1 := s.modRec q index (fun r => { r with effect := true, complete := true })
    let s2 :=
      if status = stOK then s1
      else (s1.modQueue q (fun x => { x with err := BitVec.ofNat 64 (status * 2 ^ 56 + index % 2 ^ 32) })).event
        (eventWords evRecerr status r.forme q index e r.user)
    s2.settleQueue q

/-- Every record of a kind that waits to take effect on a forme completes with a status. -/
def State.formeRecs (s : State) (opc forme status : Nat) (e : Exc := { code := 0 }) : State :=
  (List.range 64).foldl (fun s q =>
    match (s.queue q).accepted.find? (fun r => !r.effect && r.opc == opc && r.forme == forme) with
    | some r => s.recDone q r.index status e
    | none => s) s

/-- The record of a kind that waits to take effect in a queue: of each start of the queue one record waits at a time. A LAUNCH or a
RESUME takes none after FATAL (R377). -/
def State.pendingRec (s : State) (q opc : Nat) : Option HRec :=
  if s.fatal.isSome && (opc == 3 || opc == 6) then none
  else (s.queue q).accepted.find? (fun r => !r.effect && r.opc == opc)

/-- USER of the LAUNCH record of a forme, while the record stands in its queue. -/
def State.launchUser (s : State) (f : Forme) : Word :=
  (((s.queue f.queue).accepted.find? (fun r => r.index == f.hrec)).map HRec.user).getD 0

/-- An event of a forme, which names its LAUNCH record (log entry 23). -/
def State.formeEvent (s : State) (f : Forme) (kind status : Nat) (e : Exc := { code := 0 }) : State :=
  s.event (eventWords kind status f.id f.queue f.hrec e (s.launchUser f))

/-! ### Trace frames (R403 to R405) -/

def Forme.traceBase (f : Forme) (logical : Nat) : Nat := f.img.savebase.toNat + 65536 * f.count + 65536 * logical

/-- The oldest closed frame of a tile is written to its ring; where its translation fails it is discarded, and its
records count as lost. A frame that is to be closed is closed once its tick is over. -/
def writeFrame (p : Nat) (s0 : State) : State :=
  let s := s0.modTile p (fun t =>
    if (t.trace.haltDue || t.trace.swapDue) && t.trace.curP != (s0.die (physDie p)).p then { t with trace := t.trace.flush t.logical } else t)
  let t := s.tileD p
  match t.trace.waiting with
  | [] => s
  | (n, bs, recs) :: r =>
    let f := s.formeOf t
    let x := ccWrite (fuelOf 256) s f.asid (f.traceBase t.logical + 256 * (n % 256)) (bs.map (fun b => (b, true)))
    let s1 := x.2.modTile p (fun t => { t with trace := Trace.settle { t.trace with waiting := r } })
    match x.1 with
    | .ok _ => s1
    | .error _ => s1.modTile p (fun t => { t with trace := { t.trace with lost := min 65535 (t.trace.lost + recs) } })

/-- TRACE_FRAME_WRITE. -/
def execTraceFrameWrite (tile : Nat) (s : State) : Out := .next (writeFrame tile s)

/-- Every frame of a tile is closed and written, before the tile is given up. -/
def State.flushTrace (s : State) (p : Nat) : State :=
  let s1 := s.modTile p (fun t => { t with trace := (t.trace.flush t.logical).close })
  (List.range (s1.tileD p).trace.waiting.length).foldl (fun s _ => writeFrame p s) s1

/-! ### Tiles that a forme gives up (R18, R425) -/

/-- What an idle tile keeps at retention voltage: its local store. -/
def Tile.asIdle (t : Tile) : Tile :=
  { phys := t.phys, main := t.main, bankA := t.bankA, bankB := t.bankB, mainTaint := t.mainTaint
    bankATaint := t.bankATaint, bankBTaint := t.bankBTaint, poison := t.poison }

/-- The generations of a tile's contexts outlive its forme (R29). -/
def State.keepGens (s : State) (t : Tile) : State :=
  { s with gens := ([0, 1, 2, 3] : List (Fin 4)).map (fun c => (t.phys, c, (t.ctxs[c]).gen)) ++ s.gens.filter (fun g => g.1 != t.phys) }

/-- A forme ends or is killed: its trace is written, its tiles become idle, its engine contexts and its ID are free,
and what its masters had in flight is gone (log entry 24). -/
def State.dropForme (s : State) (f : Nat) : State :=
  let own := s.tiles.filter (fun t => t.forme == f)
  let mine (p : Nat) : Bool := own.any (fun t => t.phys == p)
  let s1 := own.foldl (fun s t => (s.flushTrace t.phys).keepGens t) s
  let gone := s1.tiles.filter (fun t => t.forme == f)
  { s1 with
    tiles := s1.tiles.filter (fun t => t.forme != f)
    idle := gone.map Tile.asIdle ++ s1.idle
    formes := s1.formes.filter (fun g => g.id != f)
    engs := s1.engs.filter (fun x => x.forme != f)
    streams := s1.streams.filter (fun x => !mine x.tile)
    reqs := s1.reqs.filter (fun r => !mine r.tile)
    net := s1.net.filter (fun k => !mine k.src && !mine k.dst)
    acks := s1.acks.filter (fun a => !mine a.dst)
    edge := s1.edge.filter (fun e => !mine e.tile)
    holds := s1.holds.filter (fun h => !mine h.tile)
    sc := s1.sc.filter (fun o => !mine o.tile)
    mapq := s1.mapq.filter (fun m => !mine m.tile) }

end Sys2Proof.Machine
end

