-- ==== Sys2Proof/Machine/Scalar.lean ====
section
/-! DEFINITION. Scalar arithmetic: the majors ALU, addi to addiw, SHI, lui, adpc and MULDIV (R74 to R78). Every
operand is read before D is written; the result is tainted where a register operand is (R71). -/

namespace Sys2Proof.Machine

/-- sext(IMM14, 14). -/
def imm14 (i : Nat) : Word := sext i 14

/-- sext(IMM20, 20) << 14. -/
def imm20 (i : Nat) : Word := sext i 20 <<< 14

/-- A MULDIV instruction: the operands are read at issue and the result opens a window (R78). -/
def mdEff (d a b l : Nat) (f : Word → Word → Word) (s : State) : Eff :=
  let ra := s.readXs a
  let rb := ra.2.2.readXs b
  let t := ra.2.1 || rb.2.1
  .ok (rb.2.2.openWindow l d false .value (.bound (f ra.1 rb.1) t) t)

/-- A divide: it waits while the core's one divider is busy, and keeps it until its result lands (R73). AUX
marks the window of a divide. -/
def divEff (d a b l : Nat) (f : Word → Word → Word) (s : State) : Eff :=
  if s.tile.divBusy then .wait .muldiv s
  else
    let ra := s.readXs a
    let rb := ra.2.2.readXs b
    let t := ra.2.1 || rb.2.1
    .ok ((rb.2.2.openWindow l d false .value (.bound (f ra.1 rb.1) t) t 0 1).onTile
      (fun u => { u with divBusy := true }))

/-- add (Table 3-4): A + B. -/
def execAdd (d a b : Nat) (s : State) : Out := issue (.add d a b) (eff2 d a b ((· + ·))) s

/-- sub (Table 3-4): A − B. -/
def execSub (d a b : Nat) (s : State) : Out := issue (.sub d a b) (eff2 d a b ((· - ·))) s

/-- and (Table 3-4): A & B. -/
def execAnd (d a b : Nat) (s : State) : Out := issue (.and d a b) (eff2 d a b ((· &&& ·))) s

/-- or (Table 3-4): A | B. -/
def execOr (d a b : Nat) (s : State) : Out := issue (.or d a b) (eff2 d a b ((· ||| ·))) s

/-- xor (Table 3-4): A ^ B. -/
def execXor (d a b : Nat) (s : State) : Out := issue (.xor d a b) (eff2 d a b ((· ^^^ ·))) s

/-- andn (Table 3-4): A & ~B. -/
def execAndn (d a b : Nat) (s : State) : Out := issue (.andn d a b) (eff2 d a b (fun a b => a &&& ~~~b)) s

/-- orn (Table 3-4): A | ~B. -/
def execOrn (d a b : Nat) (s : State) : Out := issue (.orn d a b) (eff2 d a b (fun a b => a ||| ~~~b)) s

/-- sll (Table 3-4): A << n(B), 0 from 64 on. -/
def execSll (d a b : Nat) (s : State) : Out := issue (.sll d a b) (eff2 d a b (aluSll)) s

/-- srl (Table 3-4): A >> n(B), 0 from 64 on. -/
def execSrl (d a b : Nat) (s : State) : Out := issue (.srl d a b) (eff2 d a b (aluSrl)) s

/-- sra (Table 3-4): s(A) >> min(n(B), 63). -/
def execSra (d a b : Nat) (s : State) : Out := issue (.sra d a b) (eff2 d a b (aluSra)) s

/-- slt (Table 3-4): 1 if s(A) < s(B). -/
def execSlt (d a b : Nat) (s : State) : Out := issue (.slt d a b) (eff2 d a b (aluSlt)) s

/-- sltn (Table 3-4): 1 if n(A) < n(B). -/
def execSltn (d a b : Nat) (s : State) : Out := issue (.sltn d a b) (eff2 d a b (aluSltn)) s

/-- min (Table 3-4): the smaller of s(A), s(B). -/
def execMin (d a b : Nat) (s : State) : Out := issue (.min d a b) (eff2 d a b (aluMin)) s

/-- max (Table 3-4): the larger of s(A), s(B). -/
def execMax (d a b : Nat) (s : State) : Out := issue (.max d a b) (eff2 d a b (aluMax)) s

/-- minn (Table 3-4): the smaller of n(A), n(B). -/
def execMinn (d a b : Nat) (s : State) : Out := issue (.minn d a b) (eff2 d a b (aluMinn)) s

/-- maxn (Table 3-4): the larger of n(A), n(B). -/
def execMaxn (d a b : Nat) (s : State) : Out := issue (.maxn d a b) (eff2 d a b (aluMaxn)) s

/-- clz (Table 3-4): leading zero bits of A. -/
def execClz (d a : Nat) (s : State) : Out := issue (.clz d a) (eff1 d a aluClz) s

/-- ctz (Table 3-4): trailing zero bits of A. -/
def execCtz (d a : Nat) (s : State) : Out := issue (.ctz d a) (eff1 d a aluCtz) s

/-- popc (Table 3-4): 1 bits of A. -/
def execPopc (d a : Nat) (s : State) : Out := issue (.popc d a) (eff1 d a aluPopc) s

/-- bswap (Table 3-4): the bytes of A in reverse order. -/
def execBswap (d a : Nat) (s : State) : Out := issue (.bswap d a) (eff1 d a aluBswap) s

/-- addw (Table 3-4): sext((A + B)[31:0], 32). -/
def execAddw (d a b : Nat) (s : State) : Out := issue (.addw d a b) (eff2 d a b aluAddw) s

/-- subw (Table 3-4): sext((A − B)[31:0], 32). -/
def execSubw (d a b : Nat) (s : State) : Out := issue (.subw d a b) (eff2 d a b aluSubw) s

/-- sllw (Table 3-4): sext((A[31:0] << n(B))[31:0], 32), 0 from 32 on. -/
def execSllw (d a b : Nat) (s : State) : Out := issue (.sllw d a b) (eff2 d a b aluSllw) s

/-- srlw (Table 3-4): sext(zext(A[31:0], 32) >> n(B), 32), 0 from 32 on. -/
def execSrlw (d a b : Nat) (s : State) : Out := issue (.srlw d a b) (eff2 d a b aluSrlw) s

/-- sraw (Table 3-4): sext(A[31:0], 32) >> min(n(B), 31). -/
def execSraw (d a b : Nat) (s : State) : Out := issue (.sraw d a b) (eff2 d a b aluSraw) s

/-- czero (Table 3-4): 0 if B = 0, else A. -/
def execCzero (d a b : Nat) (s : State) : Out := issue (.czero d a b) (eff2 d a b aluCzero) s

/-- addi (Table 3-5): A + imm. -/
def execAddi (d a i : Nat) (s : State) : Out := issue (.addi d a i) (eff1 d a (fun a => a + imm14 i)) s

/-- andi (Table 3-5): A & imm. -/
def execAndi (d a i : Nat) (s : State) : Out := issue (.andi d a i) (eff1 d a (fun a => a &&& imm14 i)) s

/-- ori (Table 3-5): A | imm. -/
def execOri (d a i : Nat) (s : State) : Out := issue (.ori d a i) (eff1 d a (fun a => a ||| imm14 i)) s

/-- xori (Table 3-5): A ^ imm. -/
def execXori (d a i : Nat) (s : State) : Out := issue (.xori d a i) (eff1 d a (fun a => a ^^^ imm14 i)) s

/-- slti (Table 3-5): 1 if s(A) < imm. -/
def execSlti (d a i : Nat) (s : State) : Out := issue (.slti d a i) (eff1 d a (fun a => aluSlt a (imm14 i))) s

/-- sltni (Table 3-5): 1 if n(A) < zext(IMM14, 14). -/
def execSltni (d a i : Nat) (s : State) : Out := issue (.sltni d a i) (eff1 d a (fun a => aluSltn a (BitVec.ofNat 64 (i % 2 ^ 14)))) s

/-- addiw (Table 3-5): sext((A + imm)[31:0], 32). -/
def execAddiw (d a i : Nat) (s : State) : Out := issue (.addiw d a i) (eff1 d a (fun a => sx32 (a + imm14 i))) s

/-- slli (R76): sll with B = sh. -/
def execSlli (d a sh : Nat) (s : State) : Out := issue (.slli d a sh) (eff1 d a (fun a => aluSll a (BitVec.ofNat 64 sh))) s

/-- srli (R76): srl with B = sh. -/
def execSrli (d a sh : Nat) (s : State) : Out := issue (.srli d a sh) (eff1 d a (fun a => aluSrl a (BitVec.ofNat 64 sh))) s

/-- srai (R76): sra with B = sh. -/
def execSrai (d a sh : Nat) (s : State) : Out := issue (.srai d a sh) (eff1 d a (fun a => aluSra a (BitVec.ofNat 64 sh))) s

/-- lui (R77): sext(IMM20, 20) << 14, untainted by any operand. -/
def execLui (d i : Nat) (s : State) : Out := issue (.lui d i) (fun s => okXd s d (imm20 i) false) s

/-- adpc (R77): PC + (sext(IMM20, 20) << 14). -/
def execAdpc (d i : Nat) (s : State) : Out := issue (.adpc d i) (fun s => okXd s d (s.ctx.pc + imm20 i) false) s

/-- mul (Table 3-8). -/
def execMul (d a b l : Nat) (s : State) : Out := issue (.mul d a b l) (mdEff d a b l mdMul) s

/-- mulh (Table 3-8). -/
def execMulh (d a b l : Nat) (s : State) : Out := issue (.mulh d a b l) (mdEff d a b l mdMulh) s

/-- mulhn (Table 3-8). -/
def execMulhn (d a b l : Nat) (s : State) : Out := issue (.mulhn d a b l) (mdEff d a b l mdMulhn) s

/-- mulhsn (Table 3-8). -/
def execMulhsn (d a b l : Nat) (s : State) : Out := issue (.mulhsn d a b l) (mdEff d a b l mdMulhsn) s

/-- mulw (Table 3-8). -/
def execMulw (d a b l : Nat) (s : State) : Out := issue (.mulw d a b l) (mdEff d a b l mdMulw) s

/-- div (Table 3-8). -/
def execDiv (d a b l : Nat) (s : State) : Out := issue (.div d a b l) (divEff d a b l mdDiv) s

/-- divn (Table 3-8). -/
def execDivn (d a b l : Nat) (s : State) : Out := issue (.divn d a b l) (divEff d a b l mdDivn) s

/-- rem (Table 3-8). -/
def execRem (d a b l : Nat) (s : State) : Out := issue (.rem d a b l) (divEff d a b l mdRem) s

/-- remn (Table 3-8). -/
def execRemn (d a b l : Nat) (s : State) : Out := issue (.remn d a b l) (divEff d a b l mdRemn) s

/-- divw (Table 3-8). -/
def execDivw (d a b l : Nat) (s : State) : Out := issue (.divw d a b l) (divEff d a b l mdDivw) s

/-- divnw (Table 3-8). -/
def execDivnw (d a b l : Nat) (s : State) : Out := issue (.divnw d a b l) (divEff d a b l mdDivnw) s

end Sys2Proof.Machine
end

