-- ==== Sys2Proof/Machine/Control.lean ====
section
/-! DEFINITION. Branches, jumps and loop contexts (R79 to R95). The rules on loop state that are ILLOP with
subcode LOOPST stand in `loopFault` (Machine/Operands.lean). -/

namespace Sys2Proof.Machine

/-- CTNT is set where control read a tainted operand (R71). -/
def State.taintCtl (s : State) (t : Bool) : State :=
  if t then s.onCtx (fun c => c.setStat stCTNT true) else s

/-- A conditional branch (R79): both operands are read, and CTNT set where one is tainted, taken or not. -/
def branchEff (a b o : Nat) (cond : Word → Word → Bool) (s : State) : Eff :=
  let ra := s.readXs a
  let rb := ra.2.2.readXs b
  let s' := rb.2.2.taintCtl (ra.2.1 || rb.2.1)
  if cond ra.1 rb.1 then .jump (s.ctx.pc + 4 * sext o 14) s' else .ok s'

/-- beq (Table 3-9): branches where A = B. -/
def execBeq (a b o : Nat) (s : State) : Out := issue (.beq a b o) (branchEff a b o condEq) s
/-- bne (Table 3-9): branches where A ≠ B. -/
def execBne (a b o : Nat) (s : State) : Out := issue (.bne a b o) (branchEff a b o condNe) s
/-- blt (Table 3-9): branches where s(A) < s(B). -/
def execBlt (a b o : Nat) (s : State) : Out := issue (.blt a b o) (branchEff a b o condLt) s
/-- bge (Table 3-9): branches where s(A) ≥ s(B). -/
def execBge (a b o : Nat) (s : State) : Out := issue (.bge a b o) (branchEff a b o condGe) s
/-- bltn (Table 3-9): branches where n(A) < n(B). -/
def execBltn (a b o : Nat) (s : State) : Out := issue (.bltn a b o) (branchEff a b o condLtn) s
/-- bgen (Table 3-9): branches where n(A) ≥ n(B). -/
def execBgen (a b o : Nat) (s : State) : Out := issue (.bgen a b o) (branchEff a b o condGen) s

/-- jal (R80): D := PC + 4 and PC := PC + 4 × sext(OFF20, 20). -/
def execJal (d o : Nat) (s : State) : Out :=
  issue (.jal d o) (fun s => .jump (s.ctx.pc + 4 * sext o 20) (s.writeXd d (s.ctx.pc + 4) false)) s

/-- jalr (R80, R81): the target is A + sext(IMM14, 14), A read before D is written; a target that is no multiple
of 4 raises ALIGN. A tainted A sets CTNT and does not taint D by itself. -/
def jalrEff (d a i : Nat) (s : State) : Eff :=
  let ra := s.readXs a
  let t := ra.1 + imm14 i
  if t.toNat % 4 ≠ 0 then .raise (s.exc cALIGN t)
  else
    let s1 := ra.2.2.writeXd d (s.ctx.pc + 4) false
    .jump t (s1.taintCtl ra.2.1)

def execJalr (d a i : Nat) (s : State) : Out := issue (.jalr d a i) (jalrEff d a i) s

/-- loop.c (R85): N = 0 passes by the body, and counts as a departure to its end where an outer counted loop
ends there too (log entry 10); else the loop context becomes active. -/
def loopCEff (h a l : Nat) (s : State) : Eff :=
  let ra := s.readXs a
  let n : Lane := ra.1.setWidth 32
  let len := 64 * h + l
  let lp : LoopCtx :=
    { modulo := false, sm1 := 0, beg := s.ctx.pc + 4, len := len, v := 0, cnt := 0, n := n, j := 0, dr := false, stages := [] }
  .placed ((ra.2.2.taintCtl ra.2.1).onCtx (fun c =>
    if n = 0 then
      let e := sharedEnd lp.fin c.loops
      { c with loops := e.1, pc := e.2 }
    else { c with loops := lp :: c.loops, pc := c.pc + 4 }))

def execLoopC (h a l : Nat) (s : State) : Out := issue (.loopC h a l) (loopCEff h a l) s

/-- loop.m (R88, R89): the stage-map words are read as operands, and the passes begin. -/
def loopMEff (i a sm1 : Nat) (s : State) : Eff :=
  let w := (i + 16) / 16
  let r := fetchWords w s (s.ctx.pc + 4) []
  match r.1 with
  | .error e => .raiseIn e r.2
  | .ok ws =>
    if stagesOk ws (i + 1) sm1 then
      let ra := r.2.readXs a
      let lp : LoopCtx :=
        { modulo := true, sm1, beg := s.ctx.pc + 4 + BitVec.ofNat 64 (4 * w), len := i, v := 0, cnt := 0
          n := ra.1.setWidth 32, j := 0, dr := false, stages := stagesOf ws (i + 1) }
      .placed ((ra.2.2.taintCtl ra.2.1).onCtx (fun c => c.enterModulo lp))
    else .raiseIn (s.exc cILLOP (instrWord (.loopM i a sm1)) 1) r.2

def execLoopM (i a s : Nat) (st : State) : Out := issue (.loopM i a s) (loopMEff i a s) st

/-- lbrk (R92): acts where A = 0; a counted loop is left at once, a modulo loop drains. -/
def lbrkEff (a : Nat) (s : State) : Eff :=
  let ra := s.readXs a
  let s' := ra.2.2.taintCtl ra.2.1
  if ra.1 ≠ 0 then .ok s'
  else match s.ctx.loops with
    | l :: r =>
      if l.modulo then .ok (s'.onCtx (fun c => { c with loops := { l with dr := true } :: r }))
      else
        let e := sharedEnd l.fin r
        .left (s'.onCtx (fun c => { c with loops := e.1, pc := e.2 }))
    | [] => .ok s'

def execLbrk (a : Nat) (s : State) : Out := issue (.lbrk a) (lbrkEff a) s

/-- One loop context's value under a selector of Table 3-13: CNT, N − CNT or 0, V (1 for a counted loop). -/
def LoopCtx.sel (l : LoopCtx) (k : Nat) : Word :=
  match k with
  | 0 => l.cnt.setWidth 64
  | 1 => BitVec.ofNat 64 (l.n.toNat - l.cnt.toNat)
  | _ => if l.modulo then l.v.setWidth 64 else 1

/-- The loop state that lctx reads; 0 where that loop context is not active. -/
def Ctx.lctx (c : Ctx) (sel : Nat) : Word :=
  match c.loops with
  | [] => 0
  | i :: r =>
    if sel < 3 then i.sel sel
    else match r with
      | o :: _ => o.sel (sel - 3)
      | [] => 0

/-- lctx (R93): reads loop state, untainted. -/
def execLctx (d sel : Nat) (s : State) : Out :=
  issue (.lctx d sel) (fun s => okXd s d (s.ctx.lctx sel) false) s

end Sys2Proof.Machine
end

