-- ==== Sys2Proof/Machine/Crypto.lean ====
section
/-! DEFINITION. What the boot ROM and the attestation compute (R435, R436): SHA-384, ECDSA over the curve P-384, the digest
and the certificate of a firmware image. The spec names the two algorithms; their constants and steps are those of FIPS 180-4
and FIPS 186-4 (log entry 38). -/

namespace Sys2Proof.Machine

/-! ### SHA-384 -/

/-- The bytes of n, the most significant first. -/
def bigEndian (len n : Nat) : List Byte := (List.range len).map (fun i => BitVec.ofNat 8 (n / 256 ^ (len - 1 - i)))

def ofBigEndian (bs : List Byte) : Nat := bs.foldl (fun a b => 256 * a + b.toNat) 0

/-- The greatest r of at most n bits whose k-th power does not exceed v. -/
def floorRoot (k : Nat) : Nat → Nat → Nat
  | 0, _ => 0
  | n + 1, v =>
    let r := 2 * floorRoot k n (v / 2 ^ k)
    if (r + 1) ^ k ≤ v then r + 1 else r

/-- The primes below 410, of which there are 80: what has no divisor from 2 to 20 but itself. -/
def shaPrimes : List Nat :=
  (List.range 410).filter (fun p => 1 < p && (List.range 21).all (fun d => d < 2 || d == p || p % d != 0))

/-- The first 64 bits behind the point of the k-th root of p, where the root is below 8. -/
def rootBits (k p : Nat) : Word := BitVec.ofNat 64 (floorRoot k 67 (p * 2 ^ (64 * k)))

/-- The round constants: the cube roots of the first 80 primes. -/
def shaRounds : List Word := shaPrimes.map (rootBits 3)

/-- The initial hash value: the square roots of the ninth to the sixteenth prime. -/
def shaInit : List Word := ((shaPrimes.drop 8).take 8).map (rootBits 2)

/-- One round: the eight working variables, and the window of sixteen schedule words, whose first the round uses and whose
next it appends. -/
def shaRound (x : List Word × List Word) (k : Word) : List Word × List Word :=
  match x.1 with
  | [a, b, c, d, e, f, g, h] =>
    let w := fun i => x.2.getD i 0
    let t1 := h + (e.rotateRight 14 ^^^ e.rotateRight 18 ^^^ e.rotateRight 41) + ((e &&& f) ^^^ (~~~ e &&& g)) + k + w 0
    let t2 := (a.rotateRight 28 ^^^ a.rotateRight 34 ^^^ a.rotateRight 39) + ((a &&& b) ^^^ (a &&& c) ^^^ (b &&& c))
    let s0 := (w 1).rotateRight 1 ^^^ (w 1).rotateRight 8 ^^^ w 1 >>> 7
    let s1 := (w 14).rotateRight 19 ^^^ (w 14).rotateRight 61 ^^^ w 14 >>> 6
    ([t1 + t2, a, b, c, d + t1, e, f, g], x.2.tail ++ [s1 + w 9 + s0 + w 0])
  | _ => x

/-- One block of sixteen words into the hash value. -/
def shaBlock (h ws : List Word) : List Word := List.zipWith (· + ·) h (shaRounds.foldl shaRound (h, ws)).1

/-- A message padded to whole blocks of 128 bytes: a one bit, zeros, its length in bits. -/
def shaPad (m : List Byte) : List Byte :=
  m ++ [0x80] ++ List.replicate ((239 - m.length % 128) % 128) 0 ++ bigEndian 16 (8 * m.length)

/-- The 48 bytes of the SHA-384 digest of a message. -/
def sha384 (m : List Byte) : List Byte :=
  let p := shaPad m
  let word := fun i => BitVec.ofNat 64 (ofBigEndian ((p.drop (8 * i)).take 8))
  let h := (List.range (p.length / 128)).foldl (fun h b => shaBlock h ((List.range 16).map (fun i => word (16 * b + i)))) shaInit
  (h.take 6).flatMap (fun w => bigEndian 8 w.toNat)

/-! ### The curve P-384 -/

/-- The prime of the field, the order of the base point, and the coefficient b: y^2 = x^3 - 3x + b. -/
def curveP : Nat := 2 ^ 384 - 2 ^ 128 - 2 ^ 96 + 2 ^ 32 - 1
def curveN : Nat := 0xffffffffffffffffffffffffffffffffffffffffffffffffc7634d81f4372ddf581a0db248b0a77aecec196accc52973
def curveB : Nat := 0xb3312fa7e23ee7e4988e056be3f82d19181d9c6efe8141120314088f5013875ac656398d8a2ed19d2a85c8edd3ec2aef

/-- The base point. -/
def curveG : Nat × Nat :=
  (0xaa87ca22be8b05378eb1c71ef320ad746e1d3b628ba79b9859f741e082542a385502f25dbf55296c3a545e3872760ab7,
   0x3617de4a96262c6f5d9e98bf9292dc29f8f41dbd289a147ce9da3113b5f0b8c00a60b1ce1d7e819d7a431d7c90ea0e5f)

/-- b ^ e modulo m, for an exponent of at most fuel bits. -/
def powMod (m : Nat) : Nat → Nat → Nat → Nat
  | 0, _, _ => 1
  | fuel + 1, b, e => (if e % 2 = 1 then b else 1) * powMod m fuel (b * b % m) (e / 2) % m

/-- The inverse modulo a prime of at most 384 bits. -/
def invMod (m b : Nat) : Nat := powMod m 384 b (m - 2)

/-- A point in Jacobian coordinates: x = X / Z^2, y = Y / Z^3, the point at infinity where Z = 0. -/
abbrev CurvePoint := Int × Int × Int

def CurvePoint.double (q : CurvePoint) : CurvePoint :=
  match q with
  | (x, y, z) =>
    let p : Int := curveP
    let b := x * (y * y) % p
    let a := 3 * (x - z * z) * (x + z * z) % p
    let x' := (a * a - 8 * b) % p
    (x', (a * (4 * b - x') - 8 * (y * y % p) * (y * y % p)) % p, 2 * y * z % p)

def CurvePoint.add (q r : CurvePoint) : CurvePoint :=
  match q, r with
  | (x1, y1, z1), (x2, y2, z2) =>
    let p : Int := curveP
    if z1 = 0 then r
    else if z2 = 0 then q
    else
      let u := x1 * (z2 * z2 % p) % p
      let s := y1 * (z2 * z2 % p) * z2 % p
      let h := (x2 * (z1 * z1 % p) - u) % p
      let d := (y2 * (z1 * z1 % p) * z1 - s) % p
      if h = 0 then (if d = 0 then q.double else (1, 1, 0))
      else
        let h2 := h * h % p
        let x' := (d * d - h * h2 - 2 * u * h2) % p
        (x', (d * (u * h2 - x') - s * (h * h2 % p)) % p, h * z1 * z2 % p)

/-- k times a point, for k of at most fuel bits. -/
def CurvePoint.times : Nat → Nat → CurvePoint → CurvePoint
  | 0, _, _ => (1, 1, 0)
  | fuel + 1, k, q =>
    let r := CurvePoint.times fuel (k / 2) q.double
    if k % 2 = 1 then r.add q else r

/-- The x coordinate, 0 for the point at infinity. -/
def CurvePoint.x (q : CurvePoint) : Nat :=
  (q.1 % curveP).toNat * invMod curveP (q.2.2 * q.2.2 % curveP).toNat % curveP

def toCurve (k : Nat × Nat) : CurvePoint := (k.1, k.2, 1)

/-- A public key is a point of the curve. -/
def onCurve (k : Nat × Nat) : Bool :=
  k.1 < curveP && k.2 < curveP && (k.2 * k.2) % curveP == (k.1 ^ 3 + (curveP - 3) * k.1 + curveB) % curveP

/-! ### ECDSA over SHA-384 digests -/

/-- The signature (r, s) of a digest by a private key with the secret number k of that signature. -/
def ecdsaSign (key k : Nat) (digest : List Byte) : Nat × Nat :=
  let r := ((toCurve curveG).times 384 k).x % curveN
  (r, invMod curveN k * (ofBigEndian digest + r * key) % curveN)

def ecdsaVerify (key : Nat × Nat) (digest : List Byte) (sig : Nat × Nat) : Bool :=
  let w := invMod curveN sig.2
  let q := ((toCurve curveG).times 384 (ofBigEndian digest * w % curveN)).add ((toCurve key).times 384 (sig.1 * w % curveN))
  onCurve key && 0 < sig.1 && sig.1 < curveN && 0 < sig.2 && sig.2 < curveN && q.2.2 != 0 && q.x % curveN == sig.1

/-! ### Firmware images (R435) -/

/-- A public key as bytes: x, then y, each of 48 bytes. -/
def keyBytes (k : Nat × Nat) : List Byte := bigEndian 48 k.1 ++ bigEndian 48 k.2

/-- The SHA-384 digest of an image: its body and its version. -/
def FwImage.digest (f : FwImage) : List Byte := sha384 (f.body ++ (bigEndian 4 f.version.toNat).reverse)

/-- The boot ROM accepts an image: the version is at least the rollback counter, the root key's digest is the fused one, the
root key signed the signing key, and the signing key signed the image. -/
def FwImage.accepted (f : FwImage) (fuses : Fuses) (rootKey : Nat × Nat) (rollback : Lane) : Bool :=
  decide (rollback.toNat ≤ f.version.toNat) && sha384 (keyBytes rootKey) == fuses.rootDigest &&
  ecdsaVerify rootKey (sha384 (keyBytes f.key)) f.cert && ecdsaVerify f.key f.digest f.sig

end Sys2Proof.Machine
end

