-- ==== Sys2Proof/Machine/Mapping.lean ====
section
/-! DEFINITION. The mapping commands (R323 to R328), the answer to a page request (R335) and migration (R336, R337). -/

namespace Sys2Proof.Machine

/-! ### Fields and pages (Tables 11-3 to 11-6) -/

def xmCmd (x : Word) : Nat := Word.field x 56 8
def xmSZ (x : Word) : Nat := Word.field x 54 2
def xmKIND (x : Word) : Nat := Word.field x 52 2
def xmUC (x : Word) : Bool := x.getLsbD 51
def xmRSP (x : Word) : Nat := Word.field x 48 3
def xmPKG (x : Word) : Nat := Word.field x 16 4
def xmASID (x : Word) : Nat := Word.field x 0 16

def mOK : Nat := 0
def mFORM : Nat := 1
def mBUSY : Nat := 2
def mNOASID : Nat := 3
def mEXISTS : Nat := 4
def mABSENT : Nat := 5
def mNOSPACE : Nat := 6

/-! ### The tables (R323) -/

/-- Bytes that a controller's tables take: 2 MiB for a root, 4 KiB for any other (Table 11-2). -/
def Controller.tableBytes (k : Controller) : Nat := 2 ^ 21 * k.roots.length + 4096 * k.tables.length

/-- The tables below the root on the path to a page: ASID, level, and the virtual-address bits that lead to the table. -/
def pathTables (asid va sz : Nat) : List (Nat × Nat × Nat) :=
  ((asid, 1, va / 2 ^ 39) :: (if sz = 3 then [] else (asid, 2, va / 2 ^ 30) :: (if sz = 2 then [] else [(asid, 3, va / 2 ^ 21)])))

/-- The tables of a path that a controller has not allocated yet. -/
def Controller.missing (k : Controller) (asid va sz : Nat) : List (Nat × Nat × Nat) :=
  (pathTables asid va sz).filter (fun x => !k.tables.contains x)

/-- A controller's reserved region has room for n bytes of tables more. -/
def Controller.fits (k : Controller) (n : Nat) : Bool := k.tableBytes + n ≤ k.region

/-- A leaf entry of a page. -/
def leafWord (sz st kind : Nat) (uc : Bool) (pn pkg : Nat) : Word :=
  BitVec.ofNat 64 (2 ^ 63 + 2 ^ 62 + sz * 2 ^ 60 + st * 2 ^ 57 + kind * 2 ^ 55 + (if uc then 2 ^ 54 else 0) + pn % 2 ^ 40 * 2 ^ 12 + pkg * 2 ^ 8)

/-- The controllers that a page concerns (R327). -/
def concerned (sz va : Nat) : List Nat := if sz = 0 then [colour va] else List.range 12

/-- The present leaf of an ASID that covers an address, at the controller of its colour. -/
def State.leafAt (s : State) (asid va : Nat) : Option Leaf := (s.ctl (colour va)).leaf asid va

/-- The state with a function applied to the leaves of a page at every controller that it concerns. -/
def State.onPage (s : State) (l : Leaf) (f : Controller → Controller) : State :=
  (concerned (leafSZ l.entry) l.va).foldl (fun s c => s.modCtl c f) s

/-- The entry of a page rewritten wherever it stands. -/
def State.setEntry (s : State) (l : Leaf) (f : Word → Word) : State :=
  s.onPage l (fun k => { k with leaves := k.leaves.map (fun x => if x.asid == l.asid && x.va == l.va then { x with entry := f x.entry } else x) })

/-- An address lies in the page of a leaf. -/
def Leaf.covers (l : Leaf) (va : Nat) : Bool := l.va ≤ va && va < l.va + pageBytes (leafSZ l.entry)

/-- Every access that was translated by a leaf and has not been performed yet is performed (R328). -/
def State.drainPage (s : State) (l : Leaf) : State :=
  (s.l2.filter (fun x => x.asid == l.asid && l.covers (x.line * 64) && (match x.fill with
    | .found _ _ => true
    | _ => false))).foldl (fun s x => fillLine s x) s

/-- Every stream window of the ASID that covers the page of a leaf becomes invalid (R338). -/
def State.dropWindows (s : State) (l : Leaf) : State :=
  { s with streams := s.streams.map (fun p =>
      if (s.formeOf (s.tileD p.tile)).asid == l.asid then
        { p with wins := p.wins.map (fun w =>
            if w.vbase * 4096 < l.va + pageBytes (leafSZ l.entry) && l.va < (w.vbase + w.pages) * 4096 then { w with v := false } else w) }
      else p) }

/-! ### The commands (R327, R335, R336) -/

/-- ASIDON. -/
def mapAsidon (asid : Nat) (s : State) : Nat × State :=
  if (s.ctl 0).roots.contains asid then (mNOASID, s)
  else if !s.ctls.toList.all (fun k => k.fits (2 ^ 21)) then (mNOSPACE, s)
  else (mOK, (List.range 12).foldl (fun s c => s.modCtl c (fun k => { k with roots := k.roots ++ [asid] })) s)

/-- ASIDOFF. -/
def mapAsidoff (asid : Nat) (s : State) : Nat × State :=
  if !(s.ctl 0).roots.contains asid then (mNOASID, s)
  else if s.ctls.toList.any (fun k => k.leaves.any (fun l => l.asid == asid)) then (mEXISTS, s)
  else (mOK, (List.range 12).foldl (fun s c => s.modCtl c (fun k =>
    { k with roots := k.roots.filter (· != asid), tables := k.tables.filter (fun x => x.1 != asid) })) s)

/-- A leaf written at every controller that its page concerns, with the tables on its path; a REQ leaf of exactly its page is
replaced. -/
def State.writeLeaf (s : State) (asid va : Nat) (entry : Word) : State :=
  (concerned (leafSZ entry) va).foldl (fun s c => s.modCtl c (fun k =>
    { k with
      tables := k.tables ++ k.missing asid va (leafSZ entry)
      leaves := k.leaves.filter (fun l => !(l.asid == asid && l.va == va)) ++ [{ asid, va, entry, used := false }] })) s

/-- Some present leaf overlaps a page; a MAP passes over a REQ leaf of exactly its page. -/
def State.overlapsLeaf (s : State) (asid va sz : Nat) (isMap : Bool) : Bool :=
  (concerned sz va).any (fun c => (s.ctl c).leaves.any (fun l =>
    l.asid == asid && l.va < va + pageBytes sz && va < l.va + pageBytes (leafSZ l.entry) &&
    !(isMap && l.va == va && leafSZ l.entry == sz && leafST l.entry == 1)))

/-- Every controller that a page concerns has room for the tables on its path. -/
def State.roomFor (s : State) (asid va sz : Nat) : Bool :=
  (concerned sz va).all (fun c => (s.ctl c).fits (4096 * ((s.ctl c).missing asid va sz).length))

/-- MAP and MAPREQ; one for which a controller's region has no room writes nothing (log entry 21). Frame, host bus address or target VA stands in XMC2 as an address (log entry 21). -/
def mapLeaf (isMap : Bool) (x : Vector Word 4) (s : State) : Nat × State :=
  let x0 := vget x 0 0
  let va := (vget x 1 0).toNat
  let pa := (vget x 2 0).toNat
  let sz := xmSZ x0
  if va % pageBytes sz ≠ 0 || 2 ^ 57 ≤ va || (isMap && (xmKIND x0 == 3 || pa % pageBytes sz != 0 || 2 ^ 52 ≤ pa)) then (mFORM, s)
  else if !(s.ctl 0).roots.contains (xmASID x0) then (mNOASID, s)
  else if s.overlapsLeaf (xmASID x0) va sz isMap then (mEXISTS, s)
  else if !s.roomFor (xmASID x0) va sz then (mNOSPACE, s)
  else
    (mOK, s.writeLeaf (xmASID x0) va
      (if isMap then leafWord sz 0 (xmKIND x0) (xmUC x0) (pa / 4096) (xmPKG x0) else leafWord sz 1 0 false 0 0))

/-- UNMAP: the leaf that covers the VA goes, with the frame records of its page. -/
def mapUnmap (x : Vector Word 4) (s : State) : Nat × State :=
  let asid := xmASID (vget x 0 0)
  let va := (vget x 1 0).toNat
  if !(s.ctl 0).roots.contains asid then (mNOASID, s)
  else match s.leafAt asid va with
    | none => (mABSENT, s)
    | some l =>
      if leafST l.entry = 3 then (mBUSY, s)
      else
        let lo := l.va / 4096
        let hi := lo + pageBytes (leafSZ l.entry) / 4096
        (mOK, ((s.drainPage l).onPage l (fun k =>
          { k with
            leaves := k.leaves.filter (fun y => !(y.asid == asid && y.va == l.va))
            frames := k.frames.filter (fun f => !(f.2.2.1 == asid && lo ≤ f.2.2.2 && f.2.2.2 < hi)) })).dropWindows l)

/-- MIGRATE starts: the new frame is claimed and the page is MIGRATING (R336, step 1). A leaf that is no NORMAL HBM
leaf of 4 KiB gives ABSENT, a target frame that is not placed or not free FORM (log entry 21). -/
def mapMigrate (x : Vector Word 4) (s : State) : Nat × State :=
  let asid := xmASID (vget x 0 0)
  let va := (vget x 1 0).toNat
  let pa := (vget x 2 0).toNat
  let c := colour va
  let fr := pa / 4096
  if !(s.ctl 0).roots.contains asid then (mNOASID, s)
  else match s.leafAt asid va with
    | none => (mABSENT, s)
    | some l =>
      if leafST l.entry = 3 || 4 ≤ (s.ctl c).migs.length then (mBUSY, s)
      else if leafST l.entry ≠ 0 || leafKIND l.entry ≠ 0 || leafSZ l.entry ≠ 0 then (mABSENT, s)
      else if pa % 4096 ≠ 0 || colour pa ≠ c || !frameExists fr ||
          (s.ctl c).frames.any (fun f => f.1 ≤ fr && fr < f.1 + f.2.1) then (mFORM, s)
      else
        let s1 := (s.drainPage l).setEntry l (fun e => Word.setField e 57 3 3)
        (mOK, (s1.modCtl c (fun k =>
          { k with
            frames := k.frames ++ [(fr, 1, asid, l.va / 4096)]
            migs := k.migs ++ [{ asid, va := l.va, old := leafPN l.entry, new := fr, next := 0 }] })).dropWindows l)

/-- QUERY: the leaf entry, or 0. -/
def mapQuery (x : Vector Word 4) (s : State) : Nat × Word :=
  let asid := xmASID (vget x 0 0)
  if !(s.ctl 0).roots.contains asid then (mNOASID, vget x 2 0)
  else (mOK, ((s.leafAt asid (vget x 1 0).toNat).map Leaf.entry).getD 0)

/-- A deposit of the control complex into mb3 of a context (R335, R217): the register, or a dead letter whose header
fields of a sender are free, since no tile sent it (log entry 15). -/
def State.depositMb3 (s : State) (p : Nat) (c : Fin 4) (gen : Nat) (val : Word) : State :=
  match s.tileAt p with
  | none => s
  | some t =>
    let dead (reason : Nat) : State :=
      (s.deadLetter p reason gen (s.drawn 0).toNat (s.drawn 1).toNat (s.drawn 2).toNat (s.drawn 3).toNat
        (bytesOf 8 val ++ bytesOf 8 (s.drawn 4))).spend 5
    if s.savedCtx t then dead 4
    else if gen != (t.ctxs[c]).gen.toNat then dead 3
    else s.modCtx p c (fun x =>
      { x with
        mb := vset x.mb 3 val, mbTaint := bvSet x.mbTaint 3 false
        mbstat := Word.setBit (if x.mbstat.getLsbD 3 then Word.setBit x.mbstat 7 true else x.mbstat) 3 true })

/-- PRESP (R335). -/
def mapPresp (x : Vector Word 4) (s : State) : Nat × State :=
  let id := (vget x 1 0).toNat
  if 1 < xmRSP (vget x 0 0) then (mFORM, s)
  else match (s.ctl (id / 64)).slots.find? (fun y => y.slot == id % 64) with
    | none => (mABSENT, s)
    | some y =>
      let lf := s.leafAt y.asid y.va
      let good := match lf with
        | some l => leafST l.entry == 0 || leafST l.entry == 3
        | none => false
      let s1 := match lf with
        | some l => if leafST l.entry = 1 then s.setEntry l (fun e => Word.setField e 57 3 2) else s
        | none => s
      let s2 := s1.modCtl (id / 64) (fun k => { k with slots := k.slots.filter (fun z => z.slot != id % 64) })
      let val := BitVec.ofNat 64 (2 ^ 63 + (if good then 0 else 0x82) * 2 ^ 48 + id * 2 ^ 32)
      (mOK, y.waiters.foldl (fun s w => s.depositMb3 w.1 (ctxNum w.2.1) w.2.2 val) s2)

/-- A mapping command applied: status, XMC2 afterwards, state (R327). -/
def applyMap (x : Vector Word 4) (s : State) : Nat × Word × State :=
  let x2 := vget x 2 0
  let keep (r : Nat × State) : Nat × Word × State := (r.1, x2, r.2)
  match xmCmd (vget x 0 0) with
  | 1 => keep (mapAsidon (xmASID (vget x 0 0)) s)
  | 2 => keep (mapAsidoff (xmASID (vget x 0 0)) s)
  | 3 => keep (mapLeaf true x s)
  | 4 => keep (mapLeaf false x s)
  | 5 => keep (mapUnmap x s)
  | 6 => keep (mapMigrate x s)
  | 7 => let r := mapQuery x s; (r.1, r.2, s)
  | 8 => keep (mapPresp x s)
  | _ => (mFORM, x2, s)

/-- XMST after a command (Table 11-4). -/
def xmstWord (code : Nat) : Word := BitVec.ofNat 64 (2 ^ 63 + code)

/-- The oldest command on its way to the controllers, if it has a code, is applied; its context goes on with the
status in XMST and the result of QUERY in XMC2 (R326). -/
def mapEvent (code : Nat) (s : State) : State :=
  match s.mapq with
  | [] => s
  | m :: r =>
    if xmCmd (vget m.xmc 0 0) ≠ code then s
    else
      let res := applyMap m.xmc { s with mapq := r }
      let s1 := res.2.2
      let a := s1.as m.tile m.ctx
      if a.ctx.wait == .mapping then
        { (a.onCtx (fun c => { c with xmst := xmstWord res.1, xmc := vset c.xmc 2 res.2.1 })).complete with actor := s.actor }
      else s1

def execAsidon (s : State) : Out := .next (mapEvent 1 s)
def execAsidoff (s : State) : Out := .next (mapEvent 2 s)
def execMap (s : State) : Out := .next (mapEvent 3 s)
def execMapreq (s : State) : Out := .next (mapEvent 4 s)
def execUnmap (s : State) : Out := .next (mapEvent 5 s)
def execMigrate (s : State) : Out := .next (mapEvent 6 s)
def execQuery (s : State) : Out := .next (mapEvent 7 s)
def execPresp (s : State) : Out := .next (mapEvent 8 s)

/-! ### Migration (R336, R337) -/

/-- MIGRATION_COPY_LINE: the next line of migration i of a controller, read and written as one action with its taint
and poison; after line 63 the page is NORMAL in its new frame. An uncorrectable read error leaves it BROKEN. -/
def migrateLine (c i : Nat) (err : Bool) (s : State) : State :=
  match (s.ctl c).migs[i]? with
  | none => s
  | some m =>
    match (s.ctl c).leaf m.asid m.va with
    | none => s
    | some l =>
      let drop (s : State) : State := s.modCtl c (fun k => { k with migs := ldel k.migs i })
      if err then drop (s.setEntry l (fun e => Word.setField e 57 3 4))
      else
        let s0 := (s.l2.filter (fun x => x.asid == m.asid && x.line == m.va / 64 + m.next && (match x.fill with
          | .found _ _ => true
          | _ => false))).foldl (fun s x => fillLine s x) s
        let d := s0.loadLine (.hbm (m.old * 4096 + 64 * m.next))
        let s1 := s0.storeLine (.hbm (m.new * 4096 + 64 * m.next)) d.1 d.2.1 d.2.2
        if m.next < 63 then
          s1.modCtl c (fun k => { k with migs := k.migs.zipIdx.map (fun y => if y.2 == i then { y.1 with next := m.next + 1 } else y.1) })
        else
          drop ((s1.setEntry l (fun e => Word.setField (Word.setField e 57 3 0) 12 40 m.new)).modCtl c (fun k =>
            { k with frames := k.frames.filter (fun f => !(f == (m.old, 1, m.asid, m.va / 4096))) }))

def execMigrationCopyLine (ctl i : Nat) (err : Bool) (s : State) : Out := .next (migrateLine ctl i err s)

end Sys2Proof.Machine
end

