-- ==== Sys2Proof/Machine/Matrix.lean ====
section
/-! DEFINITION. The matrix unit: the instructions of MLD, MMAC and MACC, which enqueue commands, the sequencer's
runs of them, and power tokens (R303 to R320). -/

namespace Sys2Proof.Machine

/-! ### Instructions (R306 to R313) -/

/-- Word 0 of a command of the acting context. -/
def State.mxWord0 (s : State) (opc t asrc acc type rtag rnd sat vreg : Nat) : Word :=
  BitVec.ofNat 64 (opc * 2 ^ 60 + t * 2 ^ 59 + asrc * 2 ^ 58 + acc * 2 ^ 55 + type * 2 ^ 51 + rtag * 2 ^ 47 +
    (if s.ctx.qctl.getLsbD 2 then 2 ^ 46 else 0) + rnd * 2 ^ 44 + sat * 2 ^ 43 + s.actor.ctx.val * 2 ^ 40 +
    s.ctx.gen.toNat * 2 ^ 32 + vreg)

/-- The mask operand: register 0 selects full masks (R301). -/
def State.mxMask (s : State) (b : Nat) : Word × Bool := if b = 0 then (BitVec.ofNat 64 (2 ^ 64 - 1), false) else s.ctx.readX b

/-- A matrix instruction: the checks of R315, then a place in the queue, for which the context waits (R296). -/
def mxEff (w addr mask stride scale : Word) (taint : Bool) (f : State → State) (s : State) : Eff :=
  match mxCheck s w addr mask stride scale with
  | some e => .raise e
  | none =>
    if s.tag0Poison w scale then .sent (s.freezeCore s.actor.tile 3 s.ctx.pc)
    else if s.tile.mxFull then .wait .engine s else .ok (f (s.enqueueMx w addr mask stride scale 0 taint))

/-- mld and mld.t (R307): register 0 as A selects an accumulator source. -/
def mldEff (tr d a b : Nat) (s : State) : Eff :=
  let p := s.ctx.pay
  let ra := s.ctx.readX a
  let rb := s.mxMask b
  let asrc := if a = 0 then 1 else 0
  let w := s.mxWord0 mxLD tr asrc d (orTy (payTD p) tyBf16) (payRTAG p) (payRND p) (if paySAT p then 1 else 0) 0
  mxEff w (if a = 0 then 0 else ra.1) rb.1 0 s.ctx.mbscl (ra.2 || rb.2) id s

def execMld (d a b : Nat) (s : State) : Out := issue (.mld d a b) (mldEff 0 d a b) s

def execMldT (d a b : Nat) (s : State) : Out := issue (.mldT d a b) (mldEff 1 d a b) s

/-- mswap (R308). -/
def execMswap (s : State) : Out :=
  issue .mswap (fun s => mxEff (s.mxWord0 mxSWAP 0 0 0 0 0 0 0 0) 0 0 0 0 false id s) s

/-- mmac and mmacz (R309). -/
def mmacEff (opc d a b : Nat) (s : State) : Eff :=
  let p := s.ctx.pay
  let ra := s.ctx.readX a
  let rb := s.mxMask b
  mxEff (s.mxWord0 opc 0 0 d (orTy (payTA p) tyBf16) (payRTAG p) 0 0 0) ra.1 rb.1 s.ctx.mastr s.ctx.mascl (ra.2 || rb.2) id s

def execMmac (d a b : Nat) (s : State) : Out := issue (.mmac d a b) (mmacEff mxMAC d a b) s

def execMmacz (d a b : Nat) (s : State) : Out := issue (.mmacz d a b) (mmacEff mxMACZ d a b) s

/-- mst and mwr (R311, R312). -/
def mstEff (opc d a b : Nat) (s : State) : Eff :=
  let ra := s.ctx.readX a
  let rb := s.mxMask b
  mxEff (s.mxWord0 opc 0 0 d 0 0 0 0 0) ra.1 rb.1 s.ctx.msstr 0 (ra.2 || rb.2) id s

def execMst (d a b : Nat) (s : State) : Out := issue (.mst d a b) (mstEff mxST d a b) s

def execMwr (d a b : Nat) (s : State) : Out := issue (.mwr d a b) (mstEff mxWR d a b) s

/-- mzero (R312). -/
def execMzero (d b : Nat) (s : State) : Out :=
  issue (.mzero d b) (fun s =>
    mxEff (s.mxWord0 mxZERO 0 0 d 0 0 0 0 0) 0 (s.mxMask b).1 0 0 (s.mxMask b).2 id s) s

/-- A fifth window with a vector destination waits at issue (R361). -/
def Ctx.vecFull (c : Ctx) : Bool := 4 ≤ (c.wins.filter Window.vec).length

/-- mrd (R313): opens a window that the command's run settles; the row group stands in the command's mask word. -/
def execMrd (d a b l : Nat) (s : State) : Out :=
  issue (.mrd d a b l) (fun s =>
    if s.ctx.vecFull then .wait .engine s
    else
      let rb := s.ctx.readX b
      mxEff (s.mxWord0 mxRD 0 0 a 0 0 0 0 d) 0 rb.1 0 0 rb.2
        (fun s => s.openWindow l d true (.mrd s.tile.mx.enq) .waiting (rb.2 || s.ctx.ctnt) 0 0 64) s) s

/-! ### Planes and values -/

/-- Code number i of width w among packed bytes. -/
def packedCode (bs : List Byte) (w i : Nat) : Nat :=
  let at_ := i * w / 8
  if w = 16 then (bs.getD at_ 0).toNat + 256 * (bs.getD (at_ + 1) 0).toNat
  else if w = 8 then (bs.getD at_ 0).toNat
  else (bs.getD at_ 0).toNat / 2 ^ (4 * (i % 2)) % 16

/-- Codes of width w packed into bytes. -/
def packBytes (w : Nat) (cs : List Nat) : List Byte :=
  if w = 16 then cs.flatMap (fun c => bytesOfNat 2 c)
  else if w = 8 then cs.map (BitVec.ofNat 8)
  else (List.range (cs.length / 2)).map (fun i => BitVec.ofNat 8 (cs.getD (2 * i) 0 + 16 * cs.getD (2 * i + 1) 0))

/-- The value of a code of a type under its scale word (R303, R304). -/
def mxVal (t sw code : Nat) : FVal :=
  if mxWidth t = 16 then (fltFmt t).decode code
  else if swZero sw then .fin false 0 0
  else if swNan sw then .nan false
  else
    let c := codesOf t (swKtype sw)
    match c.decode code with
    | .nan => .nan false
    | .inf n => .inf n
    | .int v =>
      let neg := v < 0 || ((c == .e4m3 || c == .e5m2) && 128 ≤ code)
      .fin neg (v.natAbs * swMant sw) (c.step + swExp sw)

/-- The exact product of two values (R304). -/
def fvMul (a b : FVal) : FVal :=
  match a, b with
  | .nan _, _ | _, .nan _ => .nan false
  | .inf m, .inf n => .inf (m != n)
  | .inf m, .fin n k _ => if k = 0 then .nan false else .inf (m != n)
  | .fin n k _, .inf m => if k = 0 then .nan false else .inf (m != n)
  | .fin m j x, .fin n k y => .fin (m != n) (j * k) (x + y)

def FVal.isInf (n : Bool) : FVal → Bool
  | .inf m => m == n
  | _ => false

/-- A finite value as signed mantissa and exponent; 0 for the others. -/
def FVal.exact : FVal → Int × Int
  | .fin n m x => (if n then -((m : Nat) : Int) else ((m : Nat) : Int), x)
  | _ => (0, 0)

/-- The value is −0. -/
def FVal.negZero : FVal → Bool
  | .fin n m _ => n && m == 0
  | _ => false

/-- One chunk: the exact sum of the products and the accumulator, rounded once (R303, R304). -/
def chunkSum (acc : Lane) (ps : List FVal) : Lane :=
  let vs := fmtF32.decode acc.toNat :: ps
  if vs.any FVal.isNan || (vs.any (FVal.isInf false) && vs.any (FVal.isInf true)) then nanF32
  else if vs.any (FVal.isInf false) then BitVec.ofNat 32 (fmtF32.infCode false)
  else if vs.any (FVal.isInf true) then BitVec.ofNat 32 (fmtF32.infCode true)
  else
    let es := vs.map FVal.exact
    let x := es.foldl (fun m e => if e.1 = 0 then m else min m e.2) 200
    let tot : Int := es.foldl (fun a e => if e.1 = 0 then a else a + e.1 * 2 ^ (e.2 - x).toNat) 0
    BitVec.ofNat 32 (fmtF32.ofExact 0 0 tot x (vs.all FVal.negZero)).1

/-! ### The sequencer -/

/-- Bytes, taint and poison of n bytes at a local address of a tile. -/
def Tile.mxRead (t : Tile) (a : Word) (n : Nat) : List Byte × Bool × Bool :=
  let off := a.toNat % 2 ^ 32
  (t.readLocal off n, t.localTaint off n, t.poisoned off n)

/-- Some range that a command reads holds a poisoned granule (R430). -/
def Tile.mxPoisoned (t : Tile) (rs : List (Word × Nat × Bool)) : Bool := rs.any (fun r => !r.2.2 && (t.mxRead r.1 r.2.1).2.2)

/-- The head command has completed: tl.mx takes its number (R296). -/
def State.mxDone (s : State) (p : Nat) (c : MxCmd) : State :=
  (s.modTile p (fun t => { t with mx := { t.mx with queue := t.mx.queue.drop 1, tl := c.num } })).progress (s.tileD p).forme

/-- The acting view of a command: its tile and context. -/
def State.cmdRanges (s : State) (p : Nat) (c : MxCmd) : List (Word × Nat × Bool) :=
  let v := s.as p c.ctx
  let strip := if mxScaled c.word0 && c.seedOk then
      let j := mxWords (mxDepth (mxType c.word0)) (mxBlock (mxBlk0 c.word0) c.tag0 (((v.forme.seed c.tag0).map (·.2)).getD 1))
      (mxLines c.word0 c.mask).map (fun m => (stripAddr c.scale + BitVec.ofNat 64 (2 * m * j), 2 * j, false))
    else []
  mxRanges c.word0 c.addr c.mask c.stride ++ strip

/-- A run-time fault of a command (R317): deferred to its context, or a forme fault where that context's generation is
another by now. The two tags are those compared. -/
def State.mxFault (s : State) (p : Nat) (c : MxCmd) (code sub : BitVec 8) (t1 t2 : Nat) : State :=
  let t := s.tileD p
  let e : Exc :=
    { code, sub, ipc := c.pc, step := c.step, info0 := BitVec.ofNat 64 c.num
      info1 := BitVec.ofNat 64 (mxOpc c.word0 * 2 ^ 60 + t1 * 16 + t2), info2 := c.user
      -- OPC and the tags come from the command, from the scale words that it reads, and from the plane
      infoT := (if c.taint || t.mx.active.taint || (s.cmdRanges p c).any (fun r => !r.2.2 && t.localTaint (r.1.toNat % 2 ^ 32) r.2.1)
        then 2 else 0) ||| (if c.userT then 4 else 0) }
  let gen := BitVec.ofNat 8 (Word.field c.word0 32 8)
  if (t.ctxs[c.ctx]).gen == gen then
    s.modTile p (fun t => { t with mx := { t.mx with
      faults := t.mx.faults ++ [({ num := c.num, tile := p, ctx := c.ctx, gen := gen, exc := e } : CmdFault)] } })
  else s.raiseForme t.forme e true

/-- A command failed its run-time checks and has no effect. -/
def State.mxFailed (s : State) (p : Nat) (c : MxCmd) (f : BitVec 8 × BitVec 8 × Nat × Nat) : State :=
  (s.mxFault p c f.1 f.2.1 f.2.2.1 f.2.2.2).mxDone p c

/-- The scale words of a strip as they stand: for each line, its J words. -/
def Tile.stripWords (t : Tile) (c : MxCmd) (j : Nat) (m : Nat) : List Nat :=
  (List.range j).map (fun k => natOfBytes (t.mxRead (stripAddr c.scale + BitVec.ofNat 64 (2 * (m * j + k))) 2).1)

/-- The head command of a tile, if it is one of the operations of a run. -/
def State.mxHead (s : State) (p : Nat) (opc : Nat) : Option MxCmd :=
  match (s.tileD p).mx.queue with
  | c :: _ => if mxOpc c.word0 = opc then some c else none
  | [] => none

/-- A run of the head command of an operation: a poisoned operand freezes the core (R430), else f. -/
def runHead (p opc : Nat) (f : MxCmd → State → State) (s : State) : State :=
  match s.mxHead p opc with
  | none => s
  | some c => if (s.tileD p).mxPoisoned (s.cmdRanges p c) then s.freezeCore p 3 c.pc else f c s

/-- The local store as a running command sees it (R316). -/
def MxCmd.view (c : MxCmd) (t : Tile) : Tile := t.withSeen c.seen

/-- An element that mst stores, where it has not yet. -/
def MxCmd.putCell (c : MxCmd) (x : Nat × Word) (t : Tile) : Tile :=
  let off := x.2.toNat % 2 ^ 32
  let acc := vget t.mx.acc (mxAcc c.word0) (Vector.replicate 256 0)
  if c.wrote.contains x.1 then t
  else t.writeLocal off (bytesOfNat 4 (vget acc x.1 0).toNat) (t.mx.accTaint.getLsbD (mxAcc c.word0))

/-- The head command of a tile reads, or writes, one aligned word of local store before the rest of its accesses: a core
access that nothing orders after the command may come between, each word being seen old or new (R316). -/
def mxWord (p off : Nat) (s : State) : State :=
  match (s.tileD p).mx.queue with
  | [] => s
  | c :: cs =>
    let put (d : MxCmd) (t : Tile) : Tile := { t with mx := { t.mx with queue := d :: cs } }
    if mxOpc c.word0 = mxST then
      match (accCells c.addr (strideOf c.stride) c.mask).find? (fun x => x.2.toNat % 2 ^ 32 == off && !c.wrote.contains x.1) with
      | some x => s.modTile p (fun t => put { c with wrote := x.1 :: c.wrote } (c.putCell x t))
      | none => s
    else
      let t := s.tileD p
      let reads := (s.cmdRanges p c).any (fun r => !r.2.2 && r.1.toNat % 2 ^ 32 ≤ off + 3 && off < r.1.toNat % 2 ^ 32 + r.2.1)
      if off % 4 = 0 && reads && !t.poisoned off 4 && !c.seen.any (fun x => x.1 == off) then
        s.modTile p (put { c with seen := c.seen ++ [(off, t.readLocal off 4, t.localTaint off 4)] })
      else s

/-- Block length of a command by the tag fixed at issue. -/
def State.cmdBlock (s : State) (p : Nat) (c : MxCmd) : Nat :=
  mxBlock (mxBlk0 c.word0) c.tag0 ((((s.formeOf (s.tileD p)).seed c.tag0).map (·.2)).getD 1)

/-- The checks of a memory mld when it runs (R307): the first that fails. -/
def mldCheck (c : MxCmd) (ws : List Nat) (l : Nat) : Option (BitVec 8 × BitVec 8 × Nat × Nat) :=
  let ty := mxType c.word0
  if !c.seedOk then some (cMTAG, 2, c.tag0, c.tag0)
  else if mxWidth ty = 16 then none
  else match ws.find? (fun w => swTag w != c.tag0) with
    | some w => some (cMTAG, 1, c.tag0, swTag w)
    | none =>
      if mxDepth ty % l ≠ 0 then some (cMCMD, 4, 0, 0)
      else if ws.any (fun w => swBad w || (mxWidth ty == 8 && swKtype w != 0)) then some (cMCMD, 2, 0, 0)
      else none

/-- mld from memory. -/
def mldMemory (p : Nat) (c : MxCmd) (s : State) : State :=
  let t := c.view (s.tileD p)
  let ty := mxType c.word0
  let w := mxWidth ty
  let k := mxDepth ty
  let l := if w = 16 then 16 else s.cmdBlock p c
  let j := mxWords k l
  let ws := if w = 16 then [] else rows16.flatMap (t.stripWords c j)
  match mldCheck c ws l with
  | some f => s.mxFailed p c f
  | none =>
    let src := t.mxRead c.addr 512
    let code (d n : Nat) : Nat :=
      if colBit c.mask n && depthBit c.mask ty d then packedCode src.1 w (if mxT c.word0 then n * k + d else d * 16 + n) else 0
    let strip := w != 16 && (t.mxRead (stripAddr c.scale) (32 * j)).2.1
    let pl : Plane :=
      { ty := ty, tag := c.tag0, len := l
        codes := packBytes w ((List.range (16 * k)).map (fun i => code (i / 16) (i % 16)))
        scales := ws.map (BitVec.ofNat 16), taint := src.2.1 || strip || c.taint }
    (s.modTile p (fun t => { t with mx := { t.mx with shadow := pl } })).mxDone p c

/-- mld from an accumulator. -/
def mldAcc (p : Nat) (c : MxCmd) (s : State) : State :=
  let t := s.tileD p
  let ty := mxType c.word0
  let a := vget t.mx.acc (mxAcc c.word0) (Vector.replicate 256 0)
  let code (d n : Nat) : Nat :=
    if colBit c.mask n && depthBit c.mask ty d then
      (convert (.flt fmtF32) (.flt (fltFmt ty)) (mxRnd c.word0) (mxSat c.word0) (vget a (16 * d + n) 0).toNat).1 else 0
  let pl : Plane :=
    { ty := ty, tag := 0, len := 16, scales := []
      codes := packBytes 16 ((List.range 256).map (fun i => code (i / 16) (i % 16)))
      taint := t.mx.accTaint.getLsbD (mxAcc c.word0) || c.taint }
  (s.modTile p (fun t => { t with mx := { t.mx with shadow := pl } })).mxDone p c

/-- MLD_EXEC (R307). -/
def execMldExec (tile : Nat) (s : State) : Out :=
  .next (runHead tile mxLD (fun c s => if mxAsrc c.word0 then mldAcc tile c s else mldMemory tile c s) s)

/-- MSWAP_EXEC (R308). -/
def execMswapExec (tile : Nat) (s : State) : Out :=
  .next (runHead tile mxSWAP (fun c s =>
    (s.modTile tile (fun t => { t with mx := { t.mx with active := t.mx.shadow, shadow := t.mx.active } })).mxDone tile c) s)

/-! ### Power tokens (R320) -/

/-- The clusters of a forme on a die, ascending. -/
def State.formeClusters (s : State) (forme die : Nat) : List Nat :=
  (List.range 64).map (64 * die + ·) |>.filter (fun pc => s.tiles.any (fun t => t.forme == forme && clusterOf t.phys == pc))

/-- A tile's cluster holds a token of its forme. -/
def State.hasToken (s : State) (t : Tile) : Bool :=
  let d := physDie t.phys
  match s.formeAt t.forme with
  | some f => f.tokens.any (fun k => k.1 == d && (s.formeClusters t.forme d)[k.2]? == some (clusterOf t.phys))
  | none => false

/-- The head of a tile's queue is a product that waits for a power token. -/
def State.tokenWait (s : State) (t : Tile) : Bool :=
  match t.mx.queue with
  | c :: _ => (mxOpc c.word0 == mxMAC || mxOpc c.word0 == mxMACZ) && !t.mx.bursting && !s.hasToken t
  | [] => false

/-- MXSTAT with a field of 32 bits raised by 1, saturating. -/
def mxCount (w : Word) (lo : Nat) : Word := Word.setField w lo 32 (min (2 ^ 32 - 1) (Word.field w lo 32 + 1))

/-- The tile bursts, from the start of a product on. -/
def Tile.burst (t : Tile) : Tile :=
  { t with
    mxstat := if t.mx.bursting then t.mxstat else mxCount t.mxstat 0
    mx := { t.mx with bursting := true, idleTicks := 0 } }

/-! ### Products (R303 to R305, R309) -/

/-- A depth mask covers part of a block of the plane and leaves the rest of it. -/
def partBlock (mask : Word) (ty l : Nat) : Bool :=
  let k := mxDepth ty
  (List.range (mxWords k l)).any (fun j =>
    let bs := ((List.range l).filter (fun i => j * l + i < k)).map (fun i => depthBit mask ty (j * l + i))
    bs.any id && !bs.all id)

/-- The checks of a product when it runs, in the order of R309; ws are the A scale words under the row mask. -/
def mmacCheck (c : MxCmd) (pl : Plane) (ws : List Nat) (l : Nat) : Option (BitVec 8 × BitVec 8 × Nat × Nat) :=
  let ty := mxType c.word0
  let w := mxWidth ty
  let rtag := mxRtag c.word0
  if !c.seedOk then some (cMTAG, 2, c.tag0, pl.tag)
  else if w ≠ mxWidth pl.ty then some (cMCMD, 3, 0, 0)
  else if rtag ≠ 0 ∧ rtag ≠ pl.tag then some (cMTAG, 1, rtag, pl.tag)
  else match ws.find? (fun x => swTag x != pl.tag) with
    | some x => some (cMTAG, 1, swTag x, pl.tag)
    | none =>
      if w ≠ 16 ∧ l ≠ pl.len then some (cMTAG, 3, c.tag0, pl.tag)
      else if ws.any (fun x => swBad x || (w == 8 && swKtype x != 0)) then some (cMCMD, 2, 0, 0)
      else if pl.tag ≠ 0 ∧ partBlock c.mask ty pl.len then some (cMCMD, 4, 0, 0)
      else none

/-- The four chunks of one accumulator element. -/
def product (ty k : Nat) (mask : Word) (a b : Nat → FVal) (acc : Lane) : Lane :=
  (List.range 4).foldl (fun acc c =>
    chunkSum acc ((List.range (k / 4)).map (fun i =>
      let d := c * (k / 4) + i
      if depthBit mask ty d then fvMul (a d) (b d) else .fin false 0 0))) acc

/-- MMAC_EXEC and MMACZ_EXEC: a tile that is not bursting starts only with a token in its cluster (R320). -/
def mmacRun (p : Nat) (z : Bool) (c : MxCmd) (s0 : State) : State :=
  if s0.tokenWait (s0.tileD p) then s0
  else
    let s := s0.modTile p Tile.burst
    let t := c.view (s.tileD p)
    let pl := t.mx.active
    let ty := mxType c.word0
    let w := mxWidth ty
    let k := mxDepth ty
    let l := if w = 16 then 16 else s.cmdBlock p c
    let j := mxWords k l
    let rows := rows16.filter (rowBit c.mask)
    let strips := if w = 16 || !c.seedOk then [] else rows.map (fun m => (m, t.stripWords c j m))
    match mmacCheck c pl (strips.flatMap (·.2)) l with
    | some f => s.mxFailed p c f
    | none =>
      let rowOf (m : Nat) := t.mxRead (c.addr + BitVec.ofNat 64 m * strideOf c.stride) 32
      let tnt := rows.any (fun m => (rowOf m).2.1 ||
        (w != 16 && (t.mxRead (stripAddr c.scale + BitVec.ofNat 64 (2 * m * j)) (2 * j)).2.1)) || pl.taint || c.taint
      let colVals (n : Nat) : List FVal := (List.range k).map (fun d =>
        mxVal pl.ty ((pl.scales.getD (n * j + d / l) 0).toNat) (packedCode pl.codes w (d * 16 + n)))
      let cols := (rows16.filter (colBit c.mask)).map (fun n => (n, colVals n))
      let i := mxAcc c.word0
      let acc := vget t.mx.acc i (Vector.replicate 256 0)
      let acc' := rows.foldl (fun acc m =>
        let bs := (rowOf m).1
        let sws := ((strips.find? (fun x => x.1 == m)).map (·.2)).getD []
        let as_ := (List.range k).map (fun d => mxVal ty (sws.getD (d / l) 0) (packedCode bs w d))
        cols.foldl (fun acc col =>
          vset acc (16 * m + col.1) (product ty k c.mask (fun d => as_.getD d (.fin false 0 0))
            (fun d => col.2.getD d (.fin false 0 0)) (if z then 0 else vget acc (16 * m + col.1) 0))) acc) acc
      (s.modTile p (fun t => { t with mx := { t.mx with
        acc := vset t.mx.acc i acc'
        accTaint := bvSet t.mx.accTaint i (t.mx.accTaint.getLsbD i || tnt) } })).mxDone p c

def execMmacExec (tile : Nat) (s : State) : Out := .next (runHead tile mxMAC (mmacRun tile false) s)

def execMmaczExec (tile : Nat) (s : State) : Out := .next (runHead tile mxMACZ (mmacRun tile true) s)

/-! ### Accumulators and memory (R311 to R313) -/

/-- MST_EXEC: the selected elements, in ascending row and column. -/
def execMstExec (tile : Nat) (s : State) : Out :=
  .next (runHead tile mxST (fun c s =>
    (s.modTile tile (fun t => (accCells c.addr (strideOf c.stride) c.mask).foldl (fun t x => c.putCell x t) t)).mxDone tile c) s)

/-- MWR_EXEC. -/
def execMwrExec (tile : Nat) (s : State) : Out :=
  .next (runHead tile mxWR (fun c s =>
    let t := c.view (s.tileD tile)
    let i := mxAcc c.word0
    let cells := accCells c.addr (strideOf c.stride) c.mask
    let acc := cells.foldl (fun a x => vset a x.1 (BitVec.ofNat 32 (natOfBytes (t.mxRead x.2 4).1)))
      (vget t.mx.acc i (Vector.replicate 256 0))
    let tnt := t.mx.accTaint.getLsbD i || cells.any (fun x => (t.mxRead x.2 4).2.1) || c.taint
    (s.modTile tile (fun t => { t with mx := { t.mx with
      acc := vset t.mx.acc i acc, accTaint := bvSet t.mx.accTaint i tnt } })).mxDone tile c) s)

/-- MZERO_EXEC. -/
def execMzeroExec (tile : Nat) (s : State) : Out :=
  .next (runHead tile mxZERO (fun c s =>
    let i := mxAcc c.word0
    let full := rows16.all (rowBit c.mask) && rows16.all (colBit c.mask)
    (s.modTile tile (fun t =>
      let acc := rows16.foldl (fun a m => rows16.foldl (fun a n =>
        if rowBit c.mask m && colBit c.mask n then vset a (16 * m + n) 0 else a) a) (vget t.mx.acc i (Vector.replicate 256 0))
      { t with mx := { t.mx with
          acc := vset t.mx.acc i acc
          accTaint := bvSet t.mx.accTaint i (c.taint || (!full && t.mx.accTaint.getLsbD i)) } })).mxDone tile c) s)

/-- MRD_EXEC (R313): the row group lands in the command's window. -/
def execMrdExec (tile : Nat) (s : State) : Out :=
  .next (runHead tile mxRD (fun c s =>
    let t := s.tileD tile
    let i := mxAcc c.word0
    let acc := vget t.mx.acc i (Vector.replicate 256 0)
    let g := Word.field c.mask 0 2
    let vs := (List.range 64).map (fun e => vget acc (16 * (4 * g + e / 16) + e % 16) 0)
    let tnt := t.mx.accTaint.getLsbD i || c.taint
    (s.modCtx tile c.ctx (fun x => Ctx.closeReady { x with
      wins := x.wins.map (fun u => if u.kind == .mrd c.num && u.st == .waiting then { u with st := .landedV vs tnt } else u) })).mxDone tile c) s)

/-! ### Events of the tokens -/

/-- Some tile of a cluster bursts. -/
def State.clusterBursts (s : State) (forme pc : Nat) : Bool :=
  s.tiles.any (fun t => t.forme == forme && clusterOf t.phys == pc && t.mx.bursting)

/-- The tokens of a die that stay where they are, of n clusters: those of `stay`, and every one whose next cluster keeps its
own (a cluster holds one at most). -/
def stayingTokens (n : Nat) (tokens : List (Nat × Nat)) : Nat → List (Nat × Nat) → List (Nat × Nat)
  | 0, stay => stay
  | fuel + 1, stay => stayingTokens n tokens fuel (tokens.filter (fun k => stay.contains k || stay.contains (k.1, (k.2 + 1) % max n 1)))

/-- One forme's tokens of a die move on together: each to the next cluster, where its own does not burst and the next keeps no
token. While the die is throttled a token that would move is withdrawn, all but the last (R428). -/
def passTokens (s : State) (die : Nat) (f0 : Forme) : Forme :=
  let cs := s.formeClusters f0.id die
  let n := cs.length
  let bursts (k : Nat × Nat) : Bool := s.clusterBursts f0.id (cs.getD k.2 0)
  let f := f0.tokens.foldl (fun f k =>
    if k.1 == die && !bursts k && (s.die die).throt && 1 < (f.tokens.filter (fun x => x.1 == die)).length then
      { f with tokens := f.tokens.filter (· != k), withdrawn := f.withdrawn ++ [die] }
    else f) f0
  let mine := f.tokens.filter (fun k => k.1 == die)
  let stay := stayingTokens n mine n (mine.filter bursts)
  { f with tokens := f.tokens.map (fun k => if k.1 == die && !stay.contains k then (k.1, (k.2 + 1) % max n 1) else k) }

/-- TOKEN_PASS (R320). -/
def execTokenPass (die : Nat) (s : State) : Out := .next { s with formes := s.formes.map (passTokens s die) }

/-- BURST_END (R320): 64 ticks have passed with no product. -/
def execBurstEnd (tile : Nat) (s : State) : Out :=
  .next (s.modTile tile (fun t =>
    if t.mx.bursting && 64 ≤ t.mx.idleTicks then { t with mx := { t.mx with bursting := false } } else t))

end Sys2Proof.Machine
end

