-- ==== Sys2Proof/Machine/VecMem.lean ====
section
/-! DEFINITION. Vector loads and stores (R266 to R269): vld, vst, vgather, vscatter. -/

namespace Sys2Proof.Machine

/-! ### Addresses and their checks -/

/-- The first misaligned address. -/
def misaligned (eas : List Word) : Option Word := eas.find? (fun a => a.toNat % 4 != 0)

/-- Where each element of an access goes, or its first fault: ALIGN, then SPANF, then UNDECL, each in ascending element
order (R266, R267). -/
def checkElems (s : State) (k : AccKind) (eas : List Word) : Except Exc (List Target) :=
  match misaligned eas with
  | some a => .error (s.exc cALIGN a)
  | none =>
    match eas.findSome? (fun a => match checkAccess s k a 4 with
        | .error e => some e
        | .ok _ => none) with
    | some e => .error e
    | none =>
      let ts := eas.filterMap (fun a => (checkAccess s k a 4).toOption)
      match (eas.zip ts).findSome? (fun p => undeclFault s p.2 p.1 4 (k != .read)) with
      | some e => .error e
      | none => .ok ts

/-! ### Loads -/

/-- Every element of a load begins (R98, R100, R113): what each comes to, in order. -/
def beginReads (win : Nat) : List (Word × Target) → Nat → State → List ReadRes × State
  | [], _, s => ([], s)
  | p :: r, e, s =>
    let x := beginRead s p.2 p.1 4 (.vload win e)
    let y := beginReads win r (e + 1) x.2
    (x.1 :: y.1, y.2)

/-- The value of an element that was bound at issue stands beside the answers to those that were asked. -/
def State.boundReq (s : State) (win e : Nat) (ea v : Word) (t : Bool) : State :=
  let id := s.nextReq
  (s.sendReq {} ea 4 (.vload win e)).modReq id (fun r => { r with st := .done v t })

/-- A vector load begins and its window opens; none where a poisoned granule freezes the core instead (R430). -/
def vloadOpen (d l : Nat) (eas : List Word) (ts : List Target) (kind : WinKind) (addr aux : Word) (t : Bool) (s : State) :
    Bool × State :=
  let win := s.ctx.nextWin
  let r := beginReads win (eas.zip ts) 0 s
  if r.1.any (· == .poison) then (false, r.2)
  else if r.1.all (fun x => x != .asked) then
    let vs := r.1.map (fun x => match x with
      | .bound v b => (v.setWidth 32, b)
      | _ => ((0 : Lane), false))
    (true, r.2.openWindow l d true kind (.boundV (vs.map (·.1)) (t || vs.any (·.2))) t addr aux eas.length)
  else
    let s1 := ((r.1.zip eas).zipIdx).foldl (fun s p => match p.1.1 with
      | .bound v b => s.boundReq win p.2 p.1.2 v b
      | _ => s) r.2
    (true, s1.openWindow l d true kind .waiting t addr aux eas.length)

/-- A vector load whose addresses are known: a window (R51, R266), one of at most four (R361). -/
def vloadEff (d l : Nat) (eas : List Word) (kind : WinKind) (addr aux : Word) (t : Bool) (s : State) : Eff :=
  match checkElems s .read eas with
  | .error e => .raise e
  | .ok ts =>
    if s.ctx.vecFull then .wait .mem s
    else
      let r := vloadOpen d l eas ts kind addr aux (t || s.ctx.ctnt) s
      if r.1 then .ok r.2 else .sent r.2

/-- Element addresses of vld and vst: the stride is 4 where B is x0 (R266). -/
def strideAddrs (a : Word) (b : Nat) (vb : Word) (n : Nat) : List Word :=
  (List.range n).map (fun e => a + BitVec.ofNat 64 e * (if b = 0 then 4 else vb))

/-- vld (R266). -/
def execVld (d a b l n h : Nat) (s : State) : Out :=
  issue (.vld d a b l n h) (fun s =>
    let ra := s.ctx.readX a
    let rb := s.ctx.readX b
    vloadEff d l (strideAddrs ra.1 b rb.1 (8 * (n + 1))) .vld ra.1 (if b = 0 then 4 else rb.1) (ra.2 || rb.2) s) s

/-- Offsets of a gather or scatter, and their addresses (R268). -/
def Ctx.offsets (c : Ctx) (b n : Nat) : List Lane := (List.range n).map (fun e => (c.readVElem b e).1)
def offAddrs (a : Word) (offs : List Lane) : List Word := offs.map (fun o => a + o.setWidth 64)

/-- vgather (R268). -/
def execVgather (d a b l n : Nat) (s : State) : Out :=
  issue (.vgather d a b l n) (fun s =>
    let ra := s.ctx.readX a
    let offs := s.ctx.offsets b (8 * (n + 1))
    vloadEff d l (offAddrs ra.1 offs) (.gather offs) ra.1 0 (ra.2 || (s.ctx.readVElem b 0).2) s) s

/-! ### Stores -/

/-- The race checks of every element that goes to a CHECKED span, made together at the home slices before the first beat
(R145, R267): RACE, or the state in which the words' records are this tile's. An element whose line fails
translation passes (log entry 12). -/
def raceNow (s : State) (cells : List (Word × Span)) : Except Exc State :=
  let t := s.tile
  let phase := s.phaseOf t.phys
  let look (s : State) (c : Word × Span) := lineNow s (homeOf s t c.2 c.1.toNat) s.forme.asid c.1.toNat c.2.dom 1
  let s1 := cells.foldl (fun s c => (look s c).2) s
  let words (c : Word × Span) := wordsOf (c.1.toNat % 64) 4
  match cells.findSome? (fun c => match (look s1 c).1 with
      | .ok (l, none) => (raceOther l.shadow (words c) t.logical phase).map (fun o => s.exc cRACE c.1 0 (BitVec.ofNat 64 o))
      | _ => none) with
  | some e => .error e
  | none => .ok (cells.foldl (fun s c => match (look s c).1 with
      | .ok (l, none) => s.putL2 { l with shadow := raceSet l.shadow (words c) t.logical phase }
      | _ => s) s1)

/-- The 32-byte chunks that elements of a beat write: address, mask, data, span (R112). A later element wins. -/
def chunksOf (cells : List (Word × Span × Lane)) : List (Word × BitVec 32 × BitVec 256 × Span) :=
  cells.foldl (fun acc c =>
    let off := c.1.toNat % 32
    let base := c.1 - BitVec.ofNat 64 off
    let put (m : BitVec 32) (d : BitVec 256) : BitVec 32 × BitVec 256 :=
      (m ||| BitVec.ofNat 32 (15 * 2 ^ off),
        (d &&& ~~~ BitVec.ofNat 256 ((2 ^ 32 - 1) * 2 ^ (8 * off))) ||| BitVec.ofNat 256 (c.2.2.toNat * 2 ^ (8 * off)))
    if acc.any (fun x => x.1 == base) then
      acc.map (fun x => if x.1 == base then (x.1, (put x.2.1 x.2.2.1).1, (put x.2.1 x.2.2.1).2, x.2.2.2) else x)
    else acc ++ [(base, (put 0 0).1, (put 0 0).2, c.2.1)]) []

/-- A vector store: its source, the beats from the first on, each element's address and target where it participates,
the taint of everything but the source, and the word. -/
structure VecStore where
  src : Nat
  cells : List (Nat × Word × Target)
  taint : Bool
  word : Word

/-- Taint of a beat's source, a flit left at its port (R119, R267). -/
def State.peekVec (s : State) (n : Nat) : Bool := if 41 ≤ n then (s.headIn (n - 41)).taint else (s.ctx.readVElem n 0).2

/-- One beat of a vector store, wholly or not at all (R267). -/
def VecStore.beat (v : VecStore) (j : Nat) (s : State) : Eff :=
  let cells := v.cells.filter (fun c => c.1 / 8 == j)
  if !vPorts [v.src] none s.tile then .wait .port s
  else
    let t := s.peekVec v.src || v.taint || s.ctx.ctnt
    match (if t then cells.find? (fun c => c.2.2.sink) else none) with
    | some c => .raiseIn (s.exc cTAINTSINK c.2.1) (s.onCtx (fun x => x.vInit.vMark j))
    | none =>
      let r := s.readBeat v.src j
      let lane (e : Nat) : Lane := r.1.getD (e % 8) 0
      let spans := cells.filterMap (fun c => match c.2.2 with
        | .span _ p => some (c.2.1, p, lane c.1)
        | _ => none)
      let remotes := cells.filterMap (fun c => match c.2.2 with
        | .remote dst off => some (dst, off, lane c.1)
        | _ => none)
      let locals := cells.filterMap (fun c => match c.2.2 with
        | .loc off => some (off, bytesOfNat 4 (lane c.1).toNat)
        | _ => none)
      let chunks := chunksOf spans
      if s.tile.sbFull chunks.length then .wait .mem s
      else if remotes != [] && 8 < s.tile.injq.length + remotes.length then .wait .msg s
      else match r.2.2.storeLocal v.word locals t with
        | .error (e, n) =>
          let s1 := s.spend n
          .raiseIn e (if j = 0 then s1 else s1.onCtx (fun x => x.vInit.vMark j))
        | .ok s1 =>
          let s2 := chunks.foldl (fun s c => s.addEntry c.2.2.2 c.1 c.2.1 c.2.2.1 t) s1
          .ok ((remotes.foldl (fun s c =>
            s.inject (s.packet c.1 t (.remoteStore c.2.1 (bytesOfNat 4 c.2.2.toNat) s.actor.ctx s.ctx.pc))) s2).onCtx
            (fun c => c.vInit.vRead t))

/-- The beats j on of a vector store: n of them. -/
def VecStore.beats (v : VecStore) : Nat → Nat → State → Eff
  | 0, _, s => .ok s
  | n + 1, j, s =>
    match v.beat j s with
    | .ok s' => VecStore.beats v n (j + 1) (if n = 0 then s' else s'.onCtx (fun c => c.vMark (j + 1)))
    | e => e

/-- A fault of the queue window that one of the next n beats from j on would raise, with the free values that it uses: it
is raised before the first beat (R250), as far as the elements are known by then (log entry 17). -/
def VecStore.windowFault (v : VecStore) : Nat → Nat → State → Option (Exc × Nat)
  | 0, _, _ => none
  | n + 1, j, s =>
    if !vPorts [v.src] none s.tile then none
    else
    let r := s.readBeat v.src j
    let locals := v.cells.filterMap (fun c => match c.2.2 with
      | .loc off => if c.1 / 8 == j then some (off, bytesOfNat 4 (r.1.getD (c.1 % 8) 0).toNat) else none
      | _ => none)
    match r.2.2.storeLocal v.word locals (r.2.1 || v.taint || s.ctx.ctnt) with
    | .error e => some e
    | .ok s1 => v.windowFault n (j + 1) s1

/-- A vector store whose element addresses are known, checked as accesses of kind k; elements of beats that have issued are
not looked at again, and those of the beats left are checked as registers and spans then stand (log entry 17). -/
def vstoreEff (word : Word) (k : AccKind) (src n msk : Nat) (eas : List Word) (t : Bool) (s : State) : Eff :=
  let j0 := s.ctx.vStart
  let es := (eas.zipIdx).filter (fun p => 8 * j0 ≤ p.2 && s.ctx.participates msk p.2)
  match checkElems s k (es.map (·.1)) with
  | .error e => .raise e
  | .ok ts =>
    let cells := (es.zip ts).map (fun p => (p.1.2, p.1.1, p.2))
    let chk := cells.filterMap (fun c => match c.2.2 with
      | .span _ p => if p.chk then some (c.2.1, p) else none
      | _ => none)
    let v : VecStore := { src, cells, taint := t || s.ctx.predTaint msk, word }
    if s.ctx.vAct then v.beats (n + 1 - j0) j0 s
    else match (if chk.isEmpty then .ok s else raceNow s chk) with
      | .error e => .raise e
      | .ok s1 =>
        match v.windowFault (n + 1) 0 s1 with
        | some e => .raiseIn e.1 (s.spend e.2)
        | none => v.beats (n + 1) 0 s1

/-- vst (R267). -/
def execVst (s a b n m h : Nat) (st : State) : Out :=
  issue (.vst s a b n m h) (fun st =>
    let ra := st.ctx.readX a
    let rb := st.ctx.readX b
    vstoreEff (instrWord (.vst s a b n m h)) .write s n m (strideAddrs ra.1 b rb.1 (8 * (n + 1))) (ra.2 || rb.2) st) st

/-- vscatter (R268): as vst, without a mask; the remote region refuses it as it does an update (R99). -/
def execVscatter (s a b n : Nat) (st : State) : Out :=
  issue (.vscatter s a b n) (fun st =>
    let ra := st.ctx.readX a
    vstoreEff (instrWord (.vscatter s a b n)) .upd s n 0 (offAddrs ra.1 (st.ctx.offsets b (8 * (n + 1))))
      (ra.2 || (st.ctx.readVElem b 0).2) st) st

end Sys2Proof.Machine
end

