-- ==== Sys2Proof/Machine/System.lean ====
section
/-! DEFINITION. The CSR and TRAP majors (R350 to R358), frames as tret and uret read them (R359 to R362), and the
events of wfi and of interrupts. -/

namespace Sys2Proof.Machine

/-! ### The CSR map (R352, Table 12-2) -/

/-- TASKE[n] (Table 7-8). -/
def TaskE.word (e : TaskE) : Word :=
  BitVec.ofNat 64 ((if e.arm then 2 ^ 63 else 0) + (if e.rearm then 2 ^ 62 else 0) + (if e.pend then 2 ^ 61 else 0) +
    e.routine % 64 * 2 ^ 48 + e.thr % 2 ^ 16 * 2 ^ 32 + e.cnt % 2 ^ 16)

/-- SEEDINFO (Table 9-6) and SEEDM[t] (Table 9-5). -/
def Forme.seedInfo (f : Forme) : Word :=
  BitVec.ofNat 64 (f.img.seeds.foldl (fun a e => a ||| 2 ^ e.1 ||| (if e.2.2 then 2 ^ (16 + e.1) else 0)) 1)
def Forme.seedMask (f : Forme) (t : Nat) : Word := ((f.img.seeds.find? (fun e => e.1 == t)).map (·.2.1)).getD 0

/-- CTXID of the acting context. -/
def State.ctxId (s : State) : Word :=
  BitVec.ofNat 64 (s.tile.logical * 2 ^ 16 + s.actor.ctx.val * 2 ^ 14 + s.ctx.gen.toNat * 2 ^ 6)

/-- TILECFG. -/
def Tile.cfgWord (t : Tile) : Word :=
  BitVec.ofNat 64 (t.logical * 2 ^ 16 + t.gsMask.toNat * 2 ^ 8 + t.barMask.toNat * 2 ^ 4 + t.dispMask.toNat)

/-- A CSR of a context below 0x100, apart from those that the tile or the forme decides. -/
def Ctx.csr (c : Ctx) (n : Nat) : Word :=
  if n = 0x000 then c.status
  else if n = 0x001 then c.tvec
  else if n = 0x002 then c.tfp
  else if n = 0x003 then c.uvec
  else if n = 0x004 then c.ufp
  else if n ≤ 0x007 then vget c.udeleg (n - 5) 0
  else if n = 0x008 then c.intp
  else if n = 0x00B then c.tscr
  else if n = 0x010 then c.fpctl
  else if n = 0x011 then c.qctl
  else if n = 0x012 then c.pfxpay
  else if n = 0x013 then c.vbeat
  else if n = 0x014 then c.redacc.extractLsb' 0 64
  else if n = 0x015 then c.redacc.extractLsb' 64 64
  else if n = 0x016 then c.redacc.extractLsb' 128 64
  else if n = 0x017 then c.redacc.extractLsb' 192 64
  else if n = 0x018 then c.mbstat
  else if n = 0x020 then c.mastr
  else if n = 0x021 then c.msstr
  else if n = 0x022 then c.mascl
  else if n = 0x023 then c.mbscl
  else if n ≤ 0x02F then 0
  else if n ≤ 0x033 then vget c.xmc (n - 0x30) 0
  else if n = 0x035 then c.xmst
  else 0

/-- A CSR of a tile from 0x200 on, apart from those that the forme decides. -/
def Tile.csr (t : Tile) (n : Nat) : Word :=
  if n = 0x200 then t.tkrep
  else if n = 0x201 then t.dlstat
  else if n = 0x202 then t.mqwin
  else if n = 0x203 then BitVec.ofNat 64 t.mx.enq
  else if n = 0x204 then t.mxstat
  else if n = 0x205 then t.imba
  else if n = 0x206 then t.imbb
  else if n = 0x207 then t.cfgWord
  else if n = 0x208 then t.fpxpc
  else if n = 0x209 then t.fpxinf
  else if n < 0x218 then (t.galley (n - 0x210)).cfg
  else if n < 0x220 then (t.galley (n - 0x218)).ptr
  else if n < 0x240 then (vget t.tasks (n - 0x220) {}).word
  else vget t.fpxpend (n - 0x240) 0

/-- The value of CSR n for the acting context. -/
def State.csr (s : State) (n : Nat) : Word :=
  if n = 0x009 then s.ctxId
  else if n = 0x00A then BitVec.ofNat 64 s.forme.k
  else if n < 0x100 then s.ctx.csr n
  else if n < 0x120 then (vget s.ctx.spans (n - 0x100) {}).b
  else if n < 0x140 then (vget s.ctx.spans (n - 0x120) {}).l
  else if n < 0x160 then (vget s.ctx.spans (n - 0x140) {}).a
  else if n < 0x280 then s.tile.csr n
  else if n = 0x280 then s.forme.seedInfo
  else if n < 0x290 then s.forme.seedMask (n - 0x280)
  else vget s.hashdom (n - 0x290) 0

/-- The fields of CSR n that a write changes: RW, and W1C (R7 and each register's table). TVEC and UVEC hold addresses of
instructions, multiples of 4 (R39, log entry 19). -/
def csrFields (n : Nat) : Word × Word :=
  if n = 0x000 then (0x5C00000000000000, 0)
  else if n = 0x008 then (0, 0xFFFF)
  else if n = 0x001 ∨ n = 0x003 then (0xFFFFFFFFFFFFFFFC, 0)
  else if (0x001 ≤ n ∧ n ≤ 0x007) ∨ n = 0x00B then (0xFFFFFFFFFFFFFFFF, 0)
  else if n = 0x010 then (0x1F1F, 0)
  else if n = 0x011 then (0x7, 0)
  else if n = 0x012 then (0x7FFFF, 0)
  else if n = 0x018 then (0, 0xF0)
  else if 0x020 ≤ n ∧ n ≤ 0x023 then (0xFFFFF, 0)
  else if n = 0x030 then (0xFFFF0000000FFFFF, 0)
  else if n = 0x031 ∨ n = 0x032 then (0xFFFFFFFFFFFFFFFF, 0)
  else if 0x100 ≤ n ∧ n < 0x140 then (0x01FFFFFFFFFFF000, 0)
  else if 0x140 ≤ n ∧ n < 0x160 then (0xFF8000000000FFFF, 0)
  else if n = 0x200 ∨ n = 0x201 ∨ n = 0x204 then (0xFFFFFFFFFFFFFFFF, 0)
  else if n = 0x202 then (0x800000000007FFC0, 0)
  else if 0x210 ≤ n ∧ n < 0x218 then (0xE0F000000007F000, 0)
  else if 0x218 ≤ n ∧ n < 0x220 then (0x00000000FFFFFFFF, 0)
  else if 0x240 ≤ n ∧ n < 0x280 then (0, 0xFFFFFFFFFFFFFFFF)
  else if 0x290 ≤ n then (0x0FFFF1FF000000FF, 0)
  else (0, 0)

/-- What csrw (1), csrs (2) and csrc (3) leave in CSR n, from its old value and the operand (R355). -/
def csrNew (op n : Nat) (old a : Word) : Word :=
  let f := csrFields n
  let v := if op = 1 then a else if op = 2 then old ||| a else old &&& ~~~ a
  let rw := (old &&& ~~~ f.1) ||| (v &&& f.1)
  if op = 3 then rw else rw &&& ~~~ (a &&& f.2)

/-- The context with one of its CSRs below 0x100 replaced. -/
def Ctx.putCsr (c : Ctx) (n : Nat) (v : Word) : Ctx :=
  if n = 0x000 then { c with status := v }
  else if n = 0x001 then { c with tvec := v }
  else if n = 0x002 then { c with tfp := v }
  else if n = 0x003 then { c with uvec := v }
  else if n = 0x004 then { c with ufp := v }
  else if 0x005 ≤ n ∧ n ≤ 0x007 then { c with udeleg := vset c.udeleg (n - 5) v }
  else if n = 0x008 then { c with intp := v }
  else if n = 0x00B then { c with tscr := v }
  else if n = 0x010 then { c with fpctl := v }
  else if n = 0x011 then { c with qctl := v }
  else if n = 0x012 then { c with pfxpay := v }
  else if n = 0x018 then { c with mbstat := v }
  else if n = 0x020 then { c with mastr := v }
  else if n = 0x021 then { c with msstr := v }
  else if n = 0x022 then { c with mascl := v }
  else if n = 0x023 then { c with mbscl := v }
  else if 0x030 ≤ n ∧ n ≤ 0x033 then { c with xmc := vset c.xmc (n - 0x30) v }
  else c

/-- The tile with one of its CSRs replaced. -/
def Tile.putCsr (t : Tile) (n : Nat) (v : Word) : Tile :=
  if n = 0x200 then { t with tkrep := v }
  else if n = 0x201 then { t with dlstat := v }
  else if n = 0x202 then { t with mqwin := v }
  else if n = 0x204 then { t with mxstat := v }
  else if 0x210 ≤ n ∧ n < 0x218 then { t with gal := vset t.gal (n - 0x210) { t.galley (n - 0x210) with cfg := v } }
  else if 0x218 ≤ n ∧ n < 0x220 then { t with gal := vset t.gal (n - 0x218) { t.galley (n - 0x218) with ptr := v } }
  else if 0x240 ≤ n ∧ n < 0x280 then { t with fpxpend := vset t.fpxpend (n - 0x240) v }
  else t

/-- The state with CSR n of the acting context replaced, the package's apart. -/
def State.putCsr (s : State) (n : Nat) (v : Word) : State :=
  let span (i : Nat) (f : Span → Span) : State := s.onCtx (fun c => { c with spans := vset c.spans i (f (vget c.spans i {})) })
  if n < 0x100 then s.onCtx (fun c => c.putCsr n v)
  else if n < 0x120 then span (n - 0x100) (fun p => { p with b := v })
  else if n < 0x140 then span (n - 0x120) (fun p => { p with l := v })
  else if n < 0x160 then span (n - 0x140) (fun p => { p with a := v })
  else s.onTile (fun t => t.putCsr n v)

/-- The taint bit of CSR n (R353). -/
def State.csrBit (s : State) (n : Nat) : Bool :=
  if n < 0x200 then s.ctx.csrTaint.getLsbD n
  else if n < 0x290 then s.tile.csrTaint.getLsbD (n - 0x200)
  else s.domTaint.getLsbD (n - 0x290)

/-- The state with the taint bit of CSR n written. -/
def State.setCsrBit (s : State) (n : Nat) (t : Bool) : State :=
  if n < 0x200 then s.onCtx (fun c => { c with csrTaint := bvSet c.csrTaint n t })
  else if n < 0x290 then s.onTile (fun x => { x with csrTaint := bvSet x.csrTaint (n - 0x200) t })
  else { s with domTaint := bvSet s.domTaint (n - 0x290) t }

/-- Table 12-2 marks a read of CSR n as tainted. -/
def csrTainted (n : Nat) : Bool :=
  n == 0x018 || n == 0x200 || n == 0x201 || (0x203 ≤ n && n ≤ 0x206) || n == 0x208 || n == 0x209 ||
  (0x218 ≤ n && n < 0x280)

/-- A write-only CSR: it reads as 0, untainted (R352). -/
def csrWriteOnly (n : Nat) : Bool := n == 0x034

/-! ### CSR instructions (R354, R355) -/

/-- csrr. -/
def csrrEff (d n : Nat) (s : State) : Eff :=
  if csrWriteOnly n then okXd s d 0 false else okXd s d (s.csr n) (s.csrBit n || csrTainted n)

def execCsrr (d n : Nat) (s : State) : Out := issue (.csrr d n) (csrrEff d n) s

/-- A write of HASHDOM[d] is under way: started, or waiting to start (R108). -/
def State.domBusy (s : State) : Bool :=
  !s.domWrites.isEmpty || s.tiles.any (fun t => t.ctxs.toList.any (fun c => match c.wait with
    | .hashdom _ _ => true
    | _ => false))

/-- csrw, csrs and csrc: a write of XMGO sends the command held in XMC0 to XMC3 and waits for it (R326); one of
HASHDOM waits until the change is complete (R108). -/
def csrPutEff (op a n : Nat) (s : State) : Eff :=
  let r := s.ctx.readX a
  let t := r.2 || s.ctx.ctnt
  if n = 0x034 then
    let code := xmCmd (vget s.ctx.xmc 0 0)
    if code = 0 || 8 < code then .ok ((s.setCsrBit n t).onCtx (fun c => { c with xmst := xmstWord mFORM }))
    else
      .sent { ((s.setCsrBit n t).onCtx (fun c => { c with wait := .mapping })) with
        mapq := s.mapq ++ [{ xmc := s.ctx.xmc, tile := s.actor.tile, ctx := s.actor.ctx }] }
  else
    let v := csrNew op n (s.csr n) r.1
    if n < 0x290 then .ok ((s.putCsr n v).setCsrBit n t)
    else if s.domBusy then .wait .mem s
    else .sent ((s.setCsrBit n t).onCtx (fun c => { c with wait := .hashdom (n - 0x290) v }))

def execCsrw (a n : Nat) (s : State) : Out := issue (.csrw a n) (csrPutEff 1 a n) s

def execCsrs (a n : Nat) (s : State) : Out := issue (.csrs a n) (csrPutEff 2 a n) s

def execCsrc (a n : Nat) (s : State) : Out := issue (.csrc a n) (csrPutEff 3 a n) s

/-! ### HASHDOM writes (R108) -/

/-- A slice finishes the fill of a line, answers its waiters, writes the line back and drops it. -/
def State.flushLine (s : State) (l : L2Line) : State :=
  let find (s : State) := s.l2At l.slice l.asid l.line
  let s1 := match l.fill with
    | .walking => walkLine s l
    | _ => s
  let s2 := match find s1 with
    | some m => fillLine s1 m
    | none => s1
  match find s2 with
  | some m => (s2.cleanL2 m).dropL2 m
  | none => s2

/-- Every slice and every tile takes up a new record of domain d: GEN rises, and the domain's lines leave L2. An exact sum
that is pending for a word of the domain goes to the word's new home (log entry 32). -/
def State.newDom (s : State) (d : Nat) (v : Word) : State :=
  let old := vget s.hashdom d 0
  let rec_ := Word.setField v 60 4 (domGen old + 1)
  let s1 := { s with hashdom := vset s.hashdom d rec_, domWrites := s.domWrites ++ [(d, domGen old)] }
  let s2 := (s1.l2.filter (fun l => l.dom == d)).foldl (fun s l => s.flushLine l) s1
  { s2 with
    ofu := s2.ofu.map (fun o => if o.dom == some d && !domEmpty rec_ then { o with slice := hashHome rec_ o.va } else o)
    tiles := s2.tiles.map (fun t => { t with doms := vset t.doms d rec_ }) }

/-- The context that waits for its write of a domain record. -/
def State.domWaiter (s : State) (p : Nat → Word → Bool) : Option (Nat × Fin 4) :=
  s.tiles.findSome? (fun t => (([0, 1, 2, 3] : List (Fin 4)).find? (fun c => match t.ctxs[c].wait with
    | .hashdom d v => p d v
    | _ => false)).map (fun c => (t.phys, c)))

/-- HASHDOM_WRITE: the write of a context that waits takes effect at the slices and the tiles. -/
def hashdomWrite (d : Nat) (v : Word) (s : State) : State :=
  if s.domWrites.isEmpty && (s.domWaiter (fun e w => e == d && w == v)).isSome then s.newDom d v else s

def execHashdomWrite (dom : Nat) (val : Word) (s : State) : Out := .next (hashdomWrite dom val s)

/-- HASHDOM_WRITE_COMPLETE: every request issued under the previous generation has been answered. -/
def hashdomDone (d : Nat) (s : State) : State :=
  match s.domWrites.find? (fun w => w.1 == d) with
  | none => s
  | some w =>
    if s.reqs.any (fun r => r.dom == some w && !r.isDone) || s.pushes.any (fun p => p.dom == some w) then s
    else
      let s1 := { s with domWrites := s.domWrites.filter (fun x => x != w) }
      match s1.domWaiter (fun e _ => e == d) with
      | some p => { (s1.as p.1 p.2).complete with actor := s.actor }
      | none => s1

def execHashdomWriteComplete (dom : Nat) (s : State) : Out := .next (hashdomDone dom s)

/-! ### TRAP (R356, R357) -/

/-- trap: UTRAP, kind after. -/
def execTrap (h l : Nat) (s : State) : Out :=
  issue (.trap h l) (fun s => .after { s.exc cUTRAP (BitVec.ofNat 64 (64 * h + l)) with kind := kAfter } s) s

/-- A forme is asked to stop at the exchange boundary of its current superstep (R23, R413). A request that comes when a
tile has already swapped its banks concerns the superstep that has begun there. -/
def State.askStop (s : State) (forme reason tile ctx code : Nat) (pc : Word := 0) : State :=
  let late := ((s.formeAt forme).map Forme.phaseNow) == some .swapping
  s.modForme forme (fun f => { f with stops := f.stops ++ [{ reason, tile, ctx, pc, code, late }] })

/-- brk: BRKPT where it has a handler, else a stop request for the forme. -/
def brkEff (code : Nat) (s : State) : Eff :=
  match s.ctx.route cBRKPT with
  | .freeze => .ok (s.askStop s.tile.forme 1 s.tile.logical s.actor.ctx.val code s.ctx.pc)
  | _ => .raise (s.exc cBRKPT (BitVec.ofNat 64 code))

def execBrk (h l : Nat) (s : State) : Out := issue (.brk h l) (brkEff (64 * h + l)) s

/-- mark: a MARK record (Table 14-1). -/
def execMark (a c : Nat) (s : State) : Out :=
  issue (.mark a c) (fun s =>
    let r := s.readXs a
    .ok (r.2.2.emit s.actor.tile 6 s.actor.ctx.val (BitVec.ofNat 8 (s.actor.ctx.val * 64 + c) :: bytesOf 8 r.1))) s

/-- A line of INTP is set. -/
def Ctx.intSet (c : Ctx) : Bool := c.intp.extractLsb' 0 16 != 0

/-- wfi: waits for a bit of INTP. -/
def execWfi (s : State) : Out :=
  issue .wfi (fun s => if s.ctx.intSet then .ok s else .sent (s.onCtx (fun c => { c with wait := .wfi }))) s

/-- WFI_WAKE. -/
def wfiWake (tile : Nat) (c : Fin 4) (s : State) : State :=
  let s1 := s.as tile c
  if s1.ctx.wait == .wfi && s1.ctx.intSet then s1.complete else s

def execWfiWake (tile ctx : Nat) (s : State) : Out := .next (wfiWake tile (ctxNum ctx) s)

/-- halt: the context stops; its state stays in place. -/
def execHalt (s : State) : Out := issue .halt (fun s => .ok (s.onCtx (fun c => { c with st := .halted }))) s

/-- frz (R376). An engine context stops where it stands. -/
def frzEff (a : Nat) (s : State) : Eff :=
  let m := (s.ctx.readX a).1
  match Word.field m 62 2 with
  | 0 =>
    match (if Word.field m 0 12 < s.forme.count then s.logicalTile s.tile.forme (Word.field m 0 12) else none) with
    | some t => .ok (s.freezeCore t.phys 4 s.ctx.pc)
    | none => s.raiseDesc
  | 1 =>
    let e := Word.field m 3 6
    let c := Word.field m 0 3
    if s.engs.any (fun x => x.eng == e && x.ctx == c && x.forme == s.tile.forme) then
      .ok ((s.freezeEngine e c).raiseForme s.tile.forme
        { code := cFREEZE, tval := BitVec.ofNat 64 (2 ^ 62 + e * 8 + c), info0 := 4, ipc := s.ctx.pc, step := BitVec.ofNat 64 s.forme.k } false)
    else s.raiseTlid
  | _ => .raise (s.exc cILLOP (instrWord (.frz a)))

def execFrz (a : Nat) (s : State) : Out := issue (.frz a) (frzEff a) s

/-! ### Reading a frame (R360, R362) -/

/-- A window record as a frame holds it (Table 12-6), with the elements of its vector slot. -/
structure WinRec where
  v : Bool
  st : Nat
  rem : Nat
  dst : Nat
  vec : Bool
  tnt : Bool
  ipc : Word
  val : Word × Bool
  aux : Word × Bool
  lanes : List Lane
deriving DecidableEq, Repr

/-- What a frame holds for a return. -/
structure FrameIn where
  pc : Word × Bool
  status : Word × Bool
  info0 : Word
  info1 : Word
  pfxpay : Word × Bool
  vbeat : Word × Bool
  redacc : BitVec 256
  outer : Option LoopCtx
  inner : Option LoopCtx
  nwin : Nat
  wins : List WinRec
deriving DecidableEq, Repr

/-- Words of 64 bits as lanes. -/
def wordLanes (ws : List Word) : List Lane := ws.flatMap (fun w => [w.extractLsb' 0 32, w.extractLsb' 32 32])

/-- A loop record, its stages still to be read; none where it is not active. -/
def loopOfWords (a b c : Word) : Option LoopCtx :=
  if b.getLsbD 63 then
    some
      { modulo := b.getLsbD 62, sm1 := Word.field b 60 2, beg := BitVec.ofNat 64 (Word.field b 8 48 * 4)
        len := Word.field a 60 4 + Word.field b 0 8 * 16, v := BitVec.ofNat 4 (Word.field a 56 4)
        cnt := BitVec.ofNat 32 (Word.field a 0 32), n := BitVec.ofNat 32 (Word.field c 0 32)
        j := Word.field c 32 6, dr := c.getLsbD 40, stages := [] }
  else none

/-- The frame of 224 words, each with the taint of its granule; of its NWIN window records those in use (V). -/
def parseFrame (ws : List (Word × Bool)) : FrameIn :=
  let w (i : Nat) : Word × Bool := ws.getD i (0, false)
  let v (i : Nat) : Word := (w i).1
  let rec_ (i : Nat) : WinRec :=
    let b := 32 + 4 * i
    let h := v b
    { v := h.getLsbD 63, st := Word.field h 61 2, rem := Word.field h 57 4, dst := Word.field h 51 6, vec := h.getLsbD 50, tnt := h.getLsbD 47
      ipc := v (b + 1), val := w (b + 2), aux := w (b + 3)
      lanes := wordLanes ((List.range 32).map (fun k => v (96 + 32 * Word.field h 48 2 + k))) }
  let nwin := Word.field (v 11) 0 5
  { pc := w 0, status := w 1, info0 := v 6, info1 := v 7, pfxpay := w 9, vbeat := w 10, nwin
    redacc := (v 15 ++ v 14 ++ v 13 ++ v 12 : BitVec 256)
    outer := loopOfWords (v 16) (v 17) (v 18), inner := loopOfWords (v 20) (v 21) (v 22)
    wins := ((List.range (min nwin 16)).map rec_).filter WinRec.v }

/-- The destination of a record lies in its class (R361, R362). -/
def WinRec.dstOk (r : WinRec) : Bool := if r.vec then OpClass.vmD.admits r.dst else OpClass.xmD.admits r.dst

/-- The loop records break R82 or R83: an outer loop without an inner one, a loop within a modulo loop, a body outside
its outer body, or a modulo loop with more slots than it may have. -/
def FrameIn.loopsBad (f : FrameIn) : Bool :=
  (match f.outer, f.inner with
    | some _, none => true
    | some o, some i => o.modulo || i.beg.toNat < o.beg.toNat || o.fin.toNat < i.fin.toNat
    | _, _ => false) ||
  (f.inner.toList ++ f.outer.toList).any (fun l => l.modulo && (64 ≤ l.len || l.len < l.j))

/-- The checks of R362 on a frame, in order: code and subcode, with TVAL. -/
def FrameIn.bad (f : FrameIn) (word : Word) : Option (BitVec 8 × BitVec 8 × Word) :=
  if f.pc.1.toNat % 4 ≠ 0 then some (cALIGN, 0, f.pc.1)
  else if 16 < f.nwin || f.wins.any (fun r => r.st == 3 || !r.dstOk) || 4 < (f.wins.filter WinRec.vec).length then
    some (cILLOP, 0, word)
  else if f.loopsBad then some (cILLOP, 1, word)
  else none

/-- The stages of a modulo loop, read again from the stage-map words before its body (R88; log entry 19). -/
def loopStages (s : State) (word : Word) (l : LoopCtx) : Except Exc LoopCtx × State :=
  if !l.modulo then (.ok l, s)
  else
    let ii := l.len + 1
    let w := (ii + 15) / 16
    match fetchWords w s (l.beg - BitVec.ofNat 64 (4 * w)) [] with
    | (.error e, s1) => (.error e, s1)
    | (.ok ws, s1) =>
      if stagesOk ws ii l.sm1 then (.ok { l with stages := stagesOf ws ii }, s1)
      else (.error (s1.exc cILLOP word 1), s1)

/-- The stages of each active loop. -/
def loopsIn (s : State) (word : Word) : List LoopCtx → Except Exc (List LoopCtx) × State
  | [] => (.ok [], s)
  | l :: r =>
    match loopStages s word l with
    | (.error e, s1) => (.error e, s1)
    | (.ok l1, s1) =>
      match loopsIn s1 word r with
      | (.error e, s2) => (.error e, s2)
      | (.ok ls, s2) => (.ok (l1 :: ls), s2)

/-- A record whose instruction cannot be performed again opens a window that delivers the fault. -/
def State.openFailed (s : State) (r : WinRec) (e : Exc) : State :=
  s.openWindow r.rem r.dst r.vec .value (.failed e) (r.val.2 || r.aux.2) r.val.1 r.aux.1

/-- The word at the instruction address of a record, which lies at a multiple of 4 (R39). -/
def State.wordAt (s : State) (a : Word) : Except Exc Lane :=
  if a.toNat % 4 ≠ 0 then .error (s.exc cALIGN a) else (fetchAt s a).1

/-- The elements that the vector load at the instruction address of a record has, where one stands there. -/
def State.elemsAt (s : State) (a : Word) : Option Nat :=
  match s.wordAt a with
  | .error _ => none
  | .ok w =>
    match decode w.toNat with
    | .ok (.vld _ _ _ _ n _) | .ok (.vgather _ _ _ _ n) => some (8 * (n + 1))
    | _ => none

/-- The window of a vector load whose record names x0: later windows have written over all of its result (R53). -/
def State.asGone (s : State) : State :=
  s.onCtx (fun c => { c with wins := c.wins.map (fun w => if w.id + 1 = c.nextWin then { w with written := 64, chk := false } else w) })

/-- The load, gather or tlwait of a record is performed again from VAL and AUX (R362); its size, or its number of
elements, is that of the instruction at IPC (log entry 19). The context's PC stands at IPC meanwhile. -/
def State.reissue (s : State) (r : WinRec) : State :=
  let tnt := r.val.2 || r.aux.2 || (r.vec && r.tnt)
  let scalar (z : Nat) : State :=
    let size := 2 ^ (z / 2)
    if r.val.1.toNat % size ≠ 0 then s.openFailed r (s.exc cALIGN r.val.1)
    else match checkDecl s .read r.val.1 size with
      | .error e => s.openFailed r e
      | .ok tgt => (loadOpen r.dst r.rem size (z % 2 == 0) r.val.1 tgt tnt s).2
  let vector (eas : List Word) (kind : WinKind) : State :=
    match checkElems s .read eas with
    | .error e => s.openFailed r e
    | .ok ts =>
      if r.vec then (vloadOpen r.dst r.rem eas ts kind r.val.1 r.aux.1 tnt s).2
      else (vloadOpen 64 r.rem eas ts kind r.val.1 r.aux.1 tnt s).2.asGone
  match s.wordAt r.ipc with
  | .error e => s.openFailed r e
  | .ok w =>
    match decode w.toNat with
    | .ok (.ld _ _ _ z _) => scalar z
    | .ok (.ldx _ _ _ _ z _) => scalar z
    | .ok (.vld _ _ _ _ n _) => vector ((List.range (8 * (n + 1))).map (fun e => r.val.1 + BitVec.ofNat 64 e * r.aux.1)) .vld
    | .ok (.vgather _ _ _ _ n) =>
      let offs := r.lanes.take (8 * (n + 1))
      vector (offAddrs r.val.1 offs) (.gather offs)
    | .ok (.tlwait _ _ _ _) =>
      match s.timeline r.aux.1 with
      | some _ => s.openWindow r.rem r.dst false .tlwait .waiting tnt r.val.1 r.aux.1
      | none => (s.openFailed r (s.exc cENGF (s.drawn 0) 1 (s.drawn 1) (s.drawn 2) (s.drawn 3))).spend 4
    | _ => s.openFailed r (s.exc cILLOP (w.setWidth 64))

/-- One record reopens its window (R362). A landed vector result has as many elements as the instruction at IPC gives it. -/
def State.reopen (s : State) (r : WinRec) : State :=
  let pc := s.ctx.pc
  let s1 := s.onCtx (fun c => { c with pc := r.ipc })
  let full := vRegSize r.dst
  let s2 :=
    if r.st = 0 then
      s1.openWindow r.rem r.dst r.vec .value
        (if r.vec then .landedV (r.lanes.take (min full ((s.elemsAt r.ipc).getD full))) r.tnt else .landed r.val.1 r.tnt) r.tnt r.val.1 r.aux.1
    else s1.reissue r
  s2.onCtx (fun c => { c with pc := pc })

/-- The context with the control state of a frame and its loops (R362, steps 3 and 5). A prefix that the frame holds
applies to the instruction at PC (R277). -/
def Ctx.restore (c : Ctx) (f : FrameIn) (loops : List LoopCtx) (status : Word) : Ctx :=
  { c with
    status := status, pc := f.pc.1, loops := loops
    vbeat := f.vbeat.1 &&& 0x1FFFFFFFFF, redacc := f.redacc
    pfxpay := f.pfxpay.1 &&& 0x7FFFF
    pfxNext := none, pfxLost := false, fetched := [] }

/-- The CSR taint bits of a context after a return: those of STATUS, PFXPAY and VBEAT are those of their granules (R360);
uret keeps fields of STATUS, and with them its bit. -/
def frameTaint (t : BitVec 512) (f : FrameIn) (keep : Bool) : BitVec 512 :=
  bvSet (bvSet (bvSet t 0x00 (f.status.2 || (keep && t.getLsbD 0x00))) 0x12 f.pfxpay.2) 0x13 f.vbeat.2

/-- The implemented bits of STATUS. -/
def statusBits : Word := 0xFF00000000000000

/-- The words of a frame in the tile's local store. -/
def Tile.frameIn (t : Tile) (off : Nat) : List (Word × Bool) :=
  (List.range 224).map (fun i => (t.localWord (off + 8 * i), t.localTaint (off + 8 * i) 8))

/-- STATUS after a return, from the present one and the frame's: all of it for tret; PFXP and CTNT for uret, which
clears UEXL (R362). -/
def returnStatus (priv : Bool) (now saved : Word) : Word :=
  if priv then saved &&& statusBits
  else
    let m : Word := (1 <<< stPFXP) ||| (1 <<< stCTNT)
    Word.setBit ((now &&& ~~~ m) ||| (saved &&& m)) stUEXL false

/-- tret and uret (R362). A frame of which a granule that they read is poisoned freezes the core (R430). -/
def returnEff (i : Instr) (priv : Bool) (s : State) : Eff :=
  let fp := if priv then s.ctx.tfp else s.ctx.ufp
  if !frameOk s.forme fp then .raise (s.exc cILLOP (instrWord i))
  else if s.tile.poisoned (fp.toNat % 2 ^ 32) 0x700 then .sent (s.freezeCore s.actor.tile 3 s.ctx.pc)
  else
    let f := parseFrame (s.tile.frameIn (fp.toNat % 2 ^ 32))
    match f.bad (instrWord i) with
    | some b => .raise { s.exc b.1 b.2.2 b.2.1 with tnt := b.1 == cALIGN && f.pc.2 }
    | none =>
      match loopsIn s (instrWord i) (f.inner.toList ++ f.outer.toList) with
      | (.error e, s1) => .raiseIn e s1
      | (.ok loops, s1) =>
        let s2 := s1.onCtx (fun c =>
          { c.restore f loops (returnStatus priv c.status f.status.1) with csrTaint := frameTaint c.csrTaint f (!priv) })
        .returned (f.wins.foldl (fun s r => s.reopen r) s2)

def execTret (s : State) : Out := issue .tret (returnEff .tret true) s

def execUret (s : State) : Out := issue .uret (returnEff .uret false) s

/-! ### Interrupts (R358, R364, R365) -/

/-- The context's instruction has been tried, raises nothing, and waits for something other than its windows or a
fault's: a boundary at which an interrupt may come before it. -/
def State.blocked (s : State) : Bool :=
  match s.ctx.stall with
  | some .port | some .msg | some .engine | some .muldiv | some .near | some .matrix => true
  | some .commit => commitCheck s == .wait
  | _ => false

/-- INTERRUPT_TAKE: an interrupt that is due is taken at a boundary where the context's instruction waits, or where a
window with no instruction left holds it. Where nothing holds it, the step that issues the instruction takes it first
(`issueState`). -/
def interruptTake (tile : Nat) (c : Fin 4) (s0 : State) : State :=
  let s := s0.as tile c
  if s.ctx.intDue && s.ctx.dstoreAt != some s.ctx.pc && (match gate s with
    | .go => s.blocked
    | .closed _ => true
    | _ => false) then s.interrupt else s0

def execInterruptTake (tile ctx : Nat) (s : State) : Out := .next (interruptTake tile (ctxNum ctx) s)

end Sys2Proof.Machine
end

