-- ==== Sys2Proof/Machine/Dump.lean ====
section
/-! DEFINITION. Tile dumps (R415 to R419, Table 14-4): what is written at a stop, and how RESUME takes it back. Where the
table gives no bit positions, those of log entry 25 are used. -/

namespace Sys2Proof.Machine

/-! ### Writing a dump -/

/-- Words of little-endian bytes, untainted. -/
def packWords (bs : List Byte) : List (Word × Bool) :=
  (List.range ((bs.length + 7) / 8)).map (fun i => (wordOf ((bs.drop (8 * i)).take 8), false))

/-- A side of a tile across which its input queues are edge buffers: a die edge, or an outer edge. -/
def edgeSide (p d : Nat) : Bool :=
  match neighbour p d with
  | some q => physDie q != physDie p
  | none => true

/-- The sides and lanes in the order of the dump: N E S W, scheduled then through. -/
def laneEnds : List LinkEnd := [0, 1, 2, 3].flatMap (fun d => [{ dir := d, thru := false }, { dir := d, thru := true }])

/-- The queues of a tile in the order of the dump's blocks: core in-queues, core out-queues, link FIFOs, the bus latch,
edge buffers. -/
def Tile.dumpQueues (t : Tile) : List (List Flit) :=
  [0, 1, 2, 3].map t.inQ ++ [0, 1, 2, 3].map t.outQ ++
  laneEnds.map (fun e => if edgeSide t.phys e.dir then [] else t.fifo e) ++
  [t.sw.latch.toList] ++
  laneEnds.map (fun e => if edgeSide t.phys e.dir then t.fifo e else [])

/-- A queue's occupancy and the taint bits of its flits, in nine bytes. -/
def queueBytes (q : List Flit) : List Byte :=
  BitVec.ofNat 8 q.length :: bytesOfNat 8 (q.zipIdx.foldl (fun a f => a + (if f.1.taint then 2 ^ f.2 else 0)) 0)

/-- The words of n flits of a queue, head first; zero behind its last. -/
def flitWords (q : List Flit) (n : Nat) : List (Word × Bool) :=
  (List.range n).flatMap (fun i =>
    let f := q.getD i { val := 0, taint := false }
    (List.range 4).map (fun k => (f.val.extractLsb' (64 * k) 64, f.taint)))

/-- Switch state, alignment counter and queue occupancies (offset 0x100), one field behind another. -/
def Tile.dumpState (t : Tile) : List (Word × Bool) :=
  taintWord2 (packWords (bytesOfNat 2 t.sw.spc ++ (List.range 4).flatMap (fun i => bytesOfNat 2 (vget t.sw.c i 0).toNat) ++
    bytesOfNat 2 t.sw.rem ++ [BitVec.ofNat 8 t.sw.rrow] ++ bytesOfNat 2 t.sw.rpass ++
    [BitVec.ofNat 8 ((if t.sw.halted then 1 else 0) + (if t.sw.inRing.isSome then 2 else 0))] ++
    bytesOfNat 4 t.alignCtr ++ t.dumpQueues.flatMap queueBytes))
where
  /-- the word that holds the alignment interval counter, a count of ticks, is tainted (R147, R197) -/
  taintWord2 (l : List (Word × Bool)) : List (Word × Bool) := l.zipIdx.map (fun x => (x.1.1, x.1.2 || x.2 == 2))

/-- A tile CSR with its taint as a read gives it (R353). -/
def Tile.csrCell (t : Tile) (n : Nat) : Word × Bool := (t.csr n, t.csrTaint.getLsbD (n - 0x200) || csrTainted n)

/-- Task table, galleys, timelines and counters (offset 0x5000). -/
def Tile.dumpRegs (t : Tile) (f : Forme) : List (Word × Bool) :=
  (List.range 32).map (fun n => t.csrCell (0x220 + n)) ++ (List.range 5).map (fun g => t.csrCell (0x210 + g)) ++
  (List.range 5).map (fun g => t.csrCell (0x218 + g)) ++
  [(BitVec.ofNat 64 t.xch.tl, true), (BitVec.ofNat 64 t.mx.tl, true), t.csrCell 0x203, t.csrCell 0x202, t.csrCell 0x200,
   t.csrCell 0x201, t.csrCell 0x204, (BitVec.ofNat 64 f.b, false), (BitVec.ofNat 64 f.k, false), (f.v, false)]

/-- A plane: codes, scale words, type, tag and length. -/
def Plane.words (p : Plane) : List (Word × Bool) :=
  let pad (n : Nat) (bs : List Byte) : List Byte := (bs ++ List.replicate (n - bs.length) 0).take n
  ((packWords (pad 512 p.codes ++ pad 128 (p.scales.flatMap (fun s => bytesOfNat 2 s.toNat)))).map (fun w => (w.1, p.taint))) ++
  [(BitVec.ofNat 64 p.ty, false), (BitVec.ofNat 64 p.tag, false), (BitVec.ofNat 64 p.len, false)]

/-- The matrix unit (offset 0x6000). -/
def Tile.dumpMatrix (t : Tile) : List (Word × Bool) :=
  t.mx.active.words ++ t.mx.shadow.words ++
  (List.range 8).flatMap (fun i =>
    (lanePairs (vget t.mx.acc i (Vector.replicate 256 0)).toList).map (fun w => (w, t.mx.accTaint.getLsbD i))) ++
  [(BitVec.ofNat 64 (t.mx.accTaint.toNat + (if t.mx.active.taint then 256 else 0) + (if t.mx.shadow.taint then 512 else 0)), false)]

/-- n words of a memory, each with the taint of its granule. -/
def memWords (m : Memory) (t : TaintSet) (n : Nat) : List (Word × Bool) :=
  (List.range n).map (fun i => (wordOf (Memory.read m (8 * i) 8), TaintSet.has t i))

/-- Taint bits of n granules, as words. -/
def taintWords (t : TaintSet) (n : Nat) : List (Word × Bool) :=
  (List.range (n / 64)).map (fun i =>
    (BitVec.ofNat 64 ((List.range 64).foldl (fun a b => a + (if TaintSet.has t (64 * i + b) then 2 ^ b else 0)) 0), false))

/-- Granules of main store and of one bank. -/
def Forme.mainGran (f : Forme) : Nat := f.mainSize / 8
def Forme.winGran (f : Forme) : Nat := f.winSize / 8

/-- The CSRs among the registers of a dump. -/
def dumpCsrs : List Nat :=
  (List.range 32).map (0x220 + ·) ++ (List.range 5).map (0x210 + ·) ++ (List.range 5).map (0x218 + ·) ++ [0x200, 0x201, 0x202, 0x203, 0x204]

/-- Tainted items of a tile's dump (R418): of its CSRs those whose own taint bit is set, not those that a read taints. -/
def Tile.taintedItems (t : Tile) (f : Forme) : Nat :=
  popNat 8 t.mx.accTaint.toNat + (if t.mx.active.taint then 1 else 0) + (if t.mx.shadow.taint then 1 else 0) +
  ((t.dumpQueues.flatten).filter Flit.taint).length +
  (dumpCsrs.filter (fun n => t.csrTaint.getLsbD (n - 0x200))).length +
  (t.mainTaint.filter (· < f.mainGran)).length + (t.bankATaint.filter (· < f.winGran)).length +
  (t.bankBTaint.filter (· < f.winGran)).length

/-- The dump of a tile as chunks from its base, every byte of the 524,288 among them. -/
def Tile.dumpChunks (t : Tile) (f : Forme) (p : Word) : List (Nat × List (Word × Bool)) :=
  let pad (n : Nat) (l : List (Word × Bool)) : List (Word × Bool) := (l ++ List.replicate (n - l.length) (0, false)).take n
  let qs := t.dumpQueues
  let q (i n : Nat) := flitWords (qs.getD i []) n
  [(0x0, pad 32 [(0x4B444D50, false), (BitVec.ofNat 64 f.k, false), (p, true), (BitVec.ofNat 64 (t.taintedItems f), false),
      (BitVec.ofNat 64 t.logical, false), (if t.activeA then 1 else 0, false)]),
   (0x100, pad 32 t.dumpState),
   (0x200, (List.range 8).flatMap (fun i => q i 4)),
   (0x600, (List.range 8).flatMap (fun i => q (8 + i) 4)),
   (0xA00, pad 192 (q 16 1)),
   (0x1000, (List.range 8).flatMap (fun i => q (17 + i) 64)),
   (0x5000, pad 512 (t.dumpRegs f)),
   (0x6000, pad 1536 t.dumpMatrix),
   (0x9000, pad 3584 (taintWords t.mainTaint f.mainGran ++ taintWords t.bankATaint f.winGran ++ taintWords t.bankBTaint f.winGran)),
   (0x10000, pad 40960 (memWords t.main t.mainTaint f.mainGran)),
   (0x60000, pad 8192 (memWords t.bankA t.bankATaint f.winGran)),
   (0x70000, pad 8192 (memWords t.bankB t.bankBTaint f.winGran))]

/-- The tiles of a forme in logical order. -/
def State.tilesOf (s : State) (f : Nat) : List Tile :=
  match s.formeAt f with
  | some g => (List.range g.count).filterMap (fun n => s.logicalTile f n)
  | none => []

def Forme.dumpBase (f : Forme) (logical : Nat) : Nat := f.img.savebase.toNat + 131072 * f.count + 524288 * logical

/-- The dumps of tiles written one after another, with a DUMP record for each. -/
def writeDumps (f : Forme) : List Tile → State → Except AccFail Unit × State
  | [], s => (.ok (), s)
  | t :: r, s =>
    let p := (s.die (physDie t.phys)).p
    let x := ccPutChunks s f.asid (f.dumpBase t.logical) (t.dumpChunks f p)
    match x.1 with
    | .error e => (.error e, x.2)
    | .ok _ => writeDumps f r (x.2.emit t.phys 14 0 (bytesOfNat 4 (min (2 ^ 32 - 1) (t.taintedItems f))))

/-! ### Taking a dump back -/

/-- The bytes of words. -/
def unpackWords (ws : List (Word × Bool)) : List Byte := ws.flatMap (fun w => bytesOf 8 w.1)

/-- A queue of n flits at most, from its occupancy bytes and the words of its block. -/
def readQueue (st : List Byte) (i : Nat) (ws : List (Word × Bool)) (at_ n : Nat) : List Flit :=
  let b := (st.drop (20 + 9 * i)).take 9
  (List.range (min (b.headD 0).toNat n)).map (fun k =>
    let w (j : Nat) : Word := (ws.getD (at_ + 4 * k + j) (0, false)).1
    { val := (w 3 ++ w 2 ++ w 1 ++ w 0 : BitVec 256), taint := (natOfBytes (b.drop 1)).testBit k })

/-- FIRST and II of the ring word at an index of a program. -/
def ringAt (prog : List Lane) (i : Nat) : Option (Nat × Nat) :=
  match decodeRoute (prog.getD i 0).toNat with
  | .ok (.ring f ii _) => some (f, ii + 1)
  | _ => none

/-- A plane from its words. -/
def planeOf (ws : List (Word × Bool)) (taint : Bool) : Plane :=
  let w (i : Nat) : Nat := (ws.getD i (0, false)).1.toNat
  { ty := w 80, tag := w 81, len := w 82, codes := unpackWords (ws.take 64), taint
    scales := (List.range 64).map (fun i => BitVec.ofNat 16 (natOfBytes (((unpackWords ((ws.drop 64).take 16)).drop (2 * i)).take 2))) }

/-- A galley, task entry or other register of a tile from its dump word. -/
def taskOf (w : Word) : TaskE :=
  { arm := w.getLsbD 63, rearm := w.getLsbD 62, pend := w.getLsbD 61, routine := Word.field w 48 6
    thr := Word.field w 32 16, cnt := Word.field w 0 16 }

/-- Granules whose bits are set in taint words. -/
def taintOf (ws : List (Word × Bool)) (n : Nat) : TaintSet :=
  (List.range n).filter (fun g => (ws.getD (g / 64) (0, false)).1.getLsbD (g % 64))

/-- A memory of n words. -/
def memOf (ws : List (Word × Bool)) (n : Nat) : Memory := Memory.write [] 0 (unpackWords (ws.take n))

/-- A dump is that of the boundary at which the forme stands. -/
def Forme.dumpIsNow (f : Forme) (ws : List (Word × Bool)) : Bool := (ws.getD 1 (0, false)).1 == BitVec.ofNat 64 f.k

/-- A tile as its dump of 65,536 words gives it (R419); what the image gives is left (R417). The dump has no place for faults
that a later run has left undelivered: a dump of another boundary drops them (log entry 28). -/
def Tile.reload (t : Tile) (f : Forme) (ws : List (Word × Bool)) : Tile :=
  let part (off n : Nat) : List (Word × Bool) := (ws.drop (off / 8)).take n
  let w (off : Nat) : Word := (ws.getD (off / 8) (0, false)).1
  let st := unpackWords (part 0x100 32)
  let num (at_ n : Nat) : Nat := natOfBytes ((st.drop at_).take n)
  let core := part 0x200 128
  let link := part 0x600 128
  let edge := part 0x1000 2048
  let flags := num 15 1
  let sw : Switch :=
    { t.sw with
      spc := num 0 2, c := Vector.ofFn (fun i => BitVec.ofNat 16 (num (2 + 2 * i.val) 2)), rem := num 10 2
      rrow := num 12 1, rpass := num 13 2, halted := flags.testBit 0
      inRing := if flags.testBit 1 then ringAt t.sw.prog (num 0 2) else none
      latch := (readQueue st 16 (part 0xA00 4) 0 1).head? }
  let fab : Fabric :=
    { t.fab with
      coreIn := Vector.ofFn (fun i => readQueue st i.val core (16 * i.val) 4)
      coreOut := Vector.ofFn (fun i => readQueue st (4 + i.val) core (64 + 16 * i.val) 4) }
  let t1 := (laneEnds.zipIdx).foldl (fun (t : Tile) x =>
    t.setFifo x.1 (if edgeSide t.phys x.1.dir then readQueue st (17 + x.2) edge (256 * x.2) 64
      else readQueue st (8 + x.2) link (16 * x.2) 4)) { t with sw, fab }
  let reg (i : Nat) : Word := w (0x5000 + 8 * i)
  let tb := w (0x6000 + 8 * (166 + 1024))
  let mx : Matrix :=
    { t.mx with
      active := planeOf (part 0x6000 83) (tb.getLsbD 8), shadow := planeOf (part (0x6000 + 664) 83) (tb.getLsbD 9)
      acc := Vector.ofFn (fun i => Vector.ofFn (fun e =>
        (w (0x6000 + 1328 + 1024 * i.val + 8 * (e.val / 2))).extractLsb' (32 * (e.val % 2)) 32))
      accTaint := tb.extractLsb' 0 8, tl := (reg 43).toNat, enq := (reg 44).toNat
      faults := if f.dumpIsNow ws then t.mx.faults else [] }
  let entries := t.xch.list.length
  let bits := part 0x9000 768
  { t1 with
    csrTaint := (0x202, 45) :: (List.range 5).map (fun g => (0x210 + g, 32 + g)) |>.foldl
      (fun b x => bvSet b (x.1 - 0x200) (ws.getD (0x5000 / 8 + x.2) (0, false)).2) t.csrTaint
    alignCtr := num 16 4
    tasks := Vector.ofFn (fun i => taskOf (reg i.val))
    gal := Vector.ofFn (fun i => { cfg := reg (32 + i.val) &&& (csrFields 0x210).1, ptr := reg (37 + i.val) })
    xch := { t1.xch with
      faults := if f.dumpIsNow ws then t.xch.faults else []
      tl := (reg 42).toNat, walks := if entries = 0 then 0 else (reg 42).toNat / entries }
    mqwin := reg 45 &&& (csrFields 0x202).1, tkrep := reg 46, dlstat := reg 47, mxstat := reg 48, mx
    activeA := w 0x28 == 1
    mainTaint := taintOf bits f.mainGran
    bankATaint := taintOf (bits.drop (f.mainGran / 64)) f.winGran
    bankBTaint := taintOf (bits.drop ((f.mainGran + f.winGran) / 64)) f.winGran
    poison := []
    main := memOf (part 0x10000 40960) f.mainGran
    bankA := memOf (part 0x60000 8192) f.winGran
    bankB := memOf (part 0x70000 8192) f.winGran }

/-- The dumps of tiles read, one after another, each with its tile. -/
def readDumps (f : Forme) : List Tile → State → Except AccFail (List (Tile × List (Word × Bool))) × State
  | [], s => (.ok [], s)
  | t :: r, s =>
    let x := ccWords s f.asid (f.dumpBase t.logical) 65536
    match x.1 with
    | .error e => (.error e, x.2)
    | .ok ws =>
      let y := readDumps f r x.2
      match y.1 with
      | .error e => (.error e, y.2)
      | .ok l => (.ok ((t, ws) :: l), y.2)

/-- HOLD as the edge buffers of a tile assert it (R189), and as the tile sees it at its own outputs. -/
def State.holdBits (s : State) (t : Tile) : Tile :=
  let asserts (u : Tile) (e : LinkEnd) : Bool := crossesEdge u.phys e.dir && s.holdEnAt u && 40 ≤ (u.fifo e).length
  let bits (f : LinkEnd → Bool) : BitVec 8 := laneEnds.foldl (fun b e => bvSet b e.bit (f e)) 0
  { t with fab := { t.fab with
      holdOut := bits (asserts t)
      holdSeen := bits (fun e => match neighbour t.phys e.dir with
        | some q => asserts (s.tileD q) { dir := opposite e.dir, thru := e.thru }
        | none => false) } }

/-- Every tile of a forme reloaded from its dump, with HOLD as its buffers then give it, and the forme loop context from that
of logical tile 0. A dump of another boundary drops the faults that the engines keep, and with them the records that the later run
has left on CHECKED lines: a replay that comes to its supersteps again would take them for current (R142, R420). -/
def State.reloadTiles (s : State) (f : Forme) (ds : List (Tile × List (Word × Bool))) : State :=
  let s0 := ds.foldl (fun s d => s.modTile d.1.phys (fun t => t.reload f d.2)) s
  let stale := ds.any (fun d => !f.dumpIsNow d.2)
  let s1 := { s0 with
    tiles := s0.tiles.map (fun t => if ds.any (fun d => d.1.phys == t.phys) then s0.holdBits t else t)
    engs := s0.engs.map (fun x => if stale && x.forme == f.id then { x with faults := [] } else x)
    l2 := s0.l2.map (fun l => if stale && l.asid == f.asid then { l with shadow := [] } else l) }
  match ds.find? (fun d => d.1.logical == 0) with
  | some d =>
    let w (i : Nat) : Word := (d.2.getD (0x5000 / 8 + i) (0, false)).1
    s1.modForme f.id (fun g => { g with b := (w 49).toNat, k := (w 50).toNat, v := w 51 })
  | none => s1

end Sys2Proof.Machine
end

