-- ==== Sys2Proof/Machine/Image.lean ====
section
/-! DEFINITION. Configuration images (R389 to R394, R398): the bytes of an image read as its header and sections, and the
checks of REGISTER up to the model run, in their order. -/

namespace Sys2Proof.Machine

/-- Why an image is refused: status, and for IMAGE the fault code and subcode with the logical tiles, the word indices and the
tick of the model run that the rule names (R173, R204). -/
structure ImgFail where
  status : Nat
  code : BitVec 8 := 0
  sub : BitVec 8 := 0
  tiles : List Nat := []
  words : List Nat := []
  tick : Nat := 0
deriving DecidableEq, Repr

/-- A condition that an image must meet. -/
def need (c : Bool) (e : ImgFail) : Except ImgFail Unit := if c then .ok () else .error e

def failFmt : ImgFail := { status := stIMAGE, code := cFMTF }

/-- The word, and the n-byte number, at an offset of the image. -/
def imgWord (bs : List Byte) (off : Nat) : Word := wordOf ((bs.drop off).take 8)
def imgNum (bs : List Byte) (off n : Nat) : Nat := natOfBytes ((bs.drop off).take n)

/-- Offset and length of section i: CODE, SPAN, SEED, ROUT, TILE, LIST, SWITCH, XLIST, DATA, STREAM, ENGINE, ROUTE,
CTXINIT (Table 13-6). -/
def imgSec (bs : List Byte) (i : Nat) : Nat × Nat :=
  let w := imgWord bs (80 + 8 * i)
  (Word.field w 32 32, Word.field w 0 32)

/-- The entries of a section, n bytes each, by offset. -/
def entriesAt (sec : Nat × Nat) (n : Nat) : List Nat := (List.range (sec.2 / n)).map (fun i => sec.1 + n * i)

/-! ### Header and colophon (R389, R390, R398) -/

/-- Features of the K4 (Table 13-1, Table 13-10). -/
def featBits : Word := 0x1FF

/-- MAGIC, FORMAT, LENGTH, CHECK, the torus and the two aligned addresses. -/
def headerOk (bs : List Byte) : Bool :=
  256 ≤ bs.length && imgNum bs 4 4 == 0x4B434647 && imgNum bs 2 2 == 1 && imgNum bs 8 8 == bs.length &&
  (crc32c (bs.take 20 ++ [0, 0, 0, 0] ++ bs.drop 24)).toNat == imgNum bs 20 4 &&
  1 ≤ imgNum bs 18 2 && imgNum bs 18 2 ≤ 64 && 1 ≤ imgNum bs 16 2 && imgNum bs 16 2 ≤ 64 &&
  imgNum bs 56 8 % 16384 == 0 && imgNum bs 64 8 % 64 == 0 && Word.field (imgWord bs 48) 32 16 ≤ 1000

/-- The colophon passes R398. -/
def colophonOk (bs : List Byte) (featmask : Word) : Bool :=
  imgNum bs 2 2 ≤ 1 && imgNum bs 31 1 ≤ 4 && imgNum bs 26 2 ≤ 320 && imgNum bs 24 2 ≤ 64 &&
  (imgWord bs 32 &&& ~~~ (featBits &&& ~~~ featmask)) == 0

/-! ### Sections (R391) -/

/-- Two sections do not overlap. -/
def apart (a b : Nat × Nat) : Bool := a.2 == 0 || b.2 == 0 || a.1 + a.2 ≤ b.1 || b.1 + b.2 ≤ a.1

/-- Every section lies behind the header and inside the image, overlaps no other, and holds whole entries. -/
def sectionsOk (bs : List Byte) : Bool :=
  let ss := (List.range 13).map (imgSec bs)
  let n := imgNum bs 18 2 * imgNum bs 16 2
  let len (i : Nat) : Nat := (imgSec bs i).2
  ss.all (fun s => s.2 == 0 || (256 ≤ s.1 && s.1 + s.2 ≤ bs.length)) &&
  (List.range 13).all (fun i => (List.range i).all (fun j => apart (imgSec bs i) (imgSec bs j))) &&
  len 0 % 4 == 0 && len 1 % 24 == 0 && len 1 ≤ 768 && len 2 % 16 == 0 && len 2 ≤ 240 && len 4 == 64 * n &&
  len 5 % 2 == 0 && len 6 % 4 == 0 && len 7 % 16 == 0 && len 9 % 144 == 0 && len 10 % 8 == 0 && len 11 % 16 == 0 &&
  (len 12 == 0 || len 12 == 256 * n)

/-- The fields that Tables 13-6 and 13-7 mark zero. -/
def headerZero (bs : List Byte) : Bool :=
  let m := imgWord bs 48
  imgNum bs 0 2 == 0 && imgWord bs 72 == 0 && (List.range 9).all (fun i => imgWord bs (184 + 8 * i) == 0) &&
  Word.field m 48 3 == 0 && Word.field m 0 32 == 0

/-- SPAN: the spans loaded into every context; those that the section does not hold are zero. -/
def imgSpans (bs : List Byte) : List Span :=
  (entriesAt (imgSec bs 1) 24).map (fun o =>
    { b := imgWord bs o &&& 0x01FFFFFFFFFFF000, l := imgWord bs (o + 8) &&& 0x01FFFFFFFFFFF000
      a := imgWord bs (o + 16) &&& 0xFF8000000000FFFF })

/-- SEED: tag, mask and whether the length is 64, of the loaded entries. -/
def imgSeeds (bs : List Byte) : List (Nat × Word × Bool) :=
  (entriesAt (imgSec bs 2) 16).zipIdx.filterMap (fun e =>
    let w := imgWord bs (e.1 + 8)
    if w.getLsbD 63 then some (e.2 + 1, imgWord bs e.1, w.getLsbD 0) else none)

/-- The number of ROUT records: those that stand before the first port sequence (log entry 26). -/
def routCount (bs : List Byte) (sec : Nat × Nat) : Nat → Nat → Nat → Nat
  | 0, i, _ => i
  | fuel + 1, i, lim =>
    if 128 * (i + 1) ≤ lim then
      let w := imgWord bs (sec.1 + 128 * i + 88)
      routCount bs sec fuel (i + 1) (if Word.field w 0 32 = 0 then lim else min lim (Word.field w 32 32))
    else i

def imgRouts (bs : List Byte) : List Nat :=
  let sec := imgSec bs 3
  (List.range (routCount bs sec 65 0 sec.2)).map (fun i => sec.1 + 128 * i)

/-- The local ranges of four words, and the spans of one. -/
def rangesAt (bs : List Byte) (off : Nat) : List (Nat × Nat) :=
  ((List.range 4).map (fun i => imgWord bs (off + 8 * i))).filterMap (fun w =>
    if Word.field w 0 32 = 0 then none else some (Word.field w 32 32, Word.field w 0 32))
def spansAt (bs : List Byte) (off : Nat) : List Nat :=
  ((bs.drop off).take 8).filterMap (fun b => if b.getLsbD 7 then some (b.toNat % 32) else none)

/-- Where the port sequence of a ROUT record stands. -/
def portsAt (bs : List Byte) (o : Nat) : List Byte :=
  let w := imgWord bs (o + 88)
  (bs.drop ((imgSec bs 3).1 + Word.field w 32 32)).take (Word.field w 0 32)

def imgRoutine (bs : List Byte) (codeva : Word) (o : Nat) : Routine :=
  { entry := codeva + imgWord bs o, rd := rangesAt bs (o + 8), wr := rangesAt bs (o + 40)
    rs := spansAt bs (o + 72), ws := spansAt bs (o + 80)
    ports := (portsAt bs o).map (fun b => (b.getLsbD 3, b.toNat % 4)) }

/-- A ROUT record: its zero words, its entry in CODE, its port sequence inside ROUT with zero bits zero. -/
def routOk (bs : List Byte) (o : Nat) : Bool :=
  let w := imgWord bs (o + 88)
  (List.range 4).all (fun i => imgWord bs (o + 96 + 8 * i) == 0) &&
  (imgWord bs o).toNat % 4 == 0 && (imgWord bs o).toNat < (imgSec bs 0).2 &&
  (Word.field w 0 32 == 0 || Word.field w 32 32 + Word.field w 0 32 ≤ (imgSec bs 3).2) &&
  (portsAt bs o).all (fun b => b &&& 0xF4 == 0)

/-- An exchange-list entry (Table 7-10). -/
def imgXEntry (bs : List Byte) (o : Nat) : XEntry :=
  { src := Word.field (imgWord bs o) 0 20, tile := Word.field (imgWord bs (o + 8)) 0 12
    dst := Word.field (imgWord bs (o + 8)) 16 16, len := 4 * (Word.field (imgWord bs (o + 8)) 32 14 + 1) }

/-- The fields of an exchange-list entry that are zero, the low bits of its offsets among them. -/
def xentryZero (bs : List Byte) (o : Nat) : Bool :=
  let w0 := imgWord bs o
  let w1 := imgWord bs (o + 8)
  Word.field w0 20 44 == 0 && Word.field w0 0 2 == 0 && Word.field w1 12 4 == 0 && Word.field w1 16 2 == 0 && Word.field w1 46 18 == 0

/-- GALCFG of the 14 bits of a TILE record. -/
def imgGal (v : Nat) : Word :=
  BitVec.ofNat 64 (v / 2 ^ 13 % 2 * 2 ^ 63 + v / 2 ^ 11 % 4 * 2 ^ 61 + v / 2 ^ 7 % 16 * 2 ^ 52 + v % 2 ^ 7 * 2 ^ 12)

/-- A tile's record. -/
def imgTile (bs : List Byte) (o : Nat) : TileRec :=
  let w (i : Nat) : Word := imgWord bs (o + 8 * i)
  let f (i lo n : Nat) : Nat := Word.field (w i) lo n
  { stage := f 0 0 6, disp := BitVec.ofNat 4 (f 0 8 4), bar := BitVec.ofNat 4 (f 0 12 4), gs := BitVec.ofNat 4 (f 0 16 4)
    block := if f 0 20 8 = 255 then none else some (f 0 20 8), period := f 0 28 4 + 1
    list := (List.range (f 0 32 7)).map (fun i =>
      let v := imgNum bs ((imgSec bs 5).1 + f 1 32 32 + 2 * i) 2
      (v / 256 % 64, v % 64))
    xlist := (List.range (f 2 0 11)).map (fun i => imgXEntry bs ((imgSec bs 7).1 + f 2 32 32 + 16 * i))
    prog := (List.range (f 3 0 12)).map (fun i => BitVec.ofNat 32 (imgNum bs ((imgSec bs 6).1 + f 3 32 32 + 4 * i) 4))
    gal := (List.range 4).map (fun g => imgGal (f 4 (16 * g) 14)) ++ [imgGal (f 5 0 14)] }

/-- A TILE record: its counts, what it names inside the sections, its zero words. -/
def tileOk (bs : List Byte) (o : Nat) : Bool :=
  let f (i lo n : Nat) : Nat := Word.field (imgWord bs (o + 8 * i)) lo n
  let within (off n i : Nat) : Bool := n == 0 || off + n ≤ (imgSec bs i).2
  f 0 32 7 ≤ 64 && f 2 0 11 ≤ 1024 && f 3 0 12 ≤ 2048 &&
  within (f 1 32 32) (2 * f 0 32 7) 5 && within (f 2 32 32) (16 * f 2 0 11) 7 && within (f 3 32 32) (4 * f 3 0 12) 6 &&
  imgWord bs (o + 48) == 0 && imgWord bs (o + 56) == 0 &&
  (List.range (f 0 32 7)).all (fun i => imgNum bs ((imgSec bs 5).1 + f 1 32 32 + 2 * i) 2 % 64 < (imgRouts bs).length)

/-- DATA entries from an offset to the end of the section; none where one passes the end. -/
def imgData (bs : List Byte) : Nat → Nat → Nat → Option (List DataEnt)
  | 0, _, _ => none
  | fuel + 1, o, fin =>
    if o = fin then some []
    else if fin < o + 16 then none
    else
      let w := imgWord bs o
      let len := Word.field w 0 32
      if fin < o + 16 + (len + 15) / 16 * 16 then none
      else
        (imgData bs fuel (o + 16 + (len + 15) / 16 * 16) fin).map (fun l =>
          { span := if w.getLsbD 63 then some (Word.field w 58 5) else none, first := Word.field w 34 12
            last := Word.field w 46 12, off := (imgWord bs (o + 8)).toNat, bytes := (bs.drop (o + 16)).take len } :: l)

/-- A stream window (Table 11-7) and a STREAM entry. -/
def imgWin (lo hi : Word) : StreamWin :=
  { v := hi.getLsbD 63, pages := Word.field hi 45 18, vbase := Word.field hi 0 45, pbase := Word.field lo 0 40 }
def imgStream (bs : List Byte) (o : Nat) : StreamEnt :=
  { tile := Word.field (imgWord bs o) 0 12, side := Word.field (imgWord bs o) 12 2
    wins := (List.range 8).map (fun i => imgWin (imgWord bs (o + 16 + 16 * i)) (imgWord bs (o + 24 + 16 * i))) }

/-- A ROUTE entry. -/
def imgRoute (bs : List Byte) (o : Nat) : RouteEnt :=
  let w := imgWord bs o
  { src := Word.field w 0 12, first := Word.field w 12 2, dst := Word.field w 16 12
    dirs := (List.range (Word.field w 32 5)).map (fun i => Word.field (imgWord bs (o + 8)) (2 * i) 2) }

/-- A CTXINIT record: handlers in CODE, frames under R360, zero bits of w5. -/
def ctxinitOk (codeva : Word) (codeLen : Nat) (f : Forme) (r : List Word) : Bool :=
  let w (i : Nat) : Word := r.getD i 0
  let code (a : Word) : Bool := a == 0 || (a.toNat % 4 == 0 && codeva.toNat ≤ a.toNat && a.toNat < codeva.toNat + codeLen)
  let frame (a : Word) : Bool := a == 0 || frameOk f a
  code (w 0) && code (w 6) && frame (w 1) && frame (w 7) && (w 5 &&& ~~~ (1#64 <<< stIE)) == 0

/-- The forme that an image describes, at no place: for the sizes that its modes give. -/
def Image.asForme (img : Image) : Forme := { id := 0, asid := 0, x0 := 0, y0 := 0, img, b := 0 }

/-- An image as its bytes give it. -/
def readImage (bs : List Byte) : Image :=
  let codeva := imgWord bs 64
  { w := imgNum bs 18 2, h := imgNum bs 16 2, level := imgNum bs 31 1, lmain := imgNum bs 26 2, lexch := imgNum bs 24 2
    req := imgWord bs 32, opt := imgWord bs 40, modes := imgWord bs 48, savebase := imgWord bs 56, codeva
    code := (bs.drop (imgSec bs 0).1).take (imgSec bs 0).2
    spans := imgSpans bs, seeds := imgSeeds bs, routines := (imgRouts bs).map (imgRoutine bs codeva)
    tiles := (entriesAt (imgSec bs 4) 64).map (imgTile bs)
    data := (imgData bs ((imgSec bs 8).2 / 16 + 1) (imgSec bs 8).1 ((imgSec bs 8).1 + (imgSec bs 8).2)).getD []
    streams := (entriesAt (imgSec bs 9) 144).map (imgStream bs)
    engines := (entriesAt (imgSec bs 10) 8).map (fun o => (Word.field (imgWord bs o) 3 6, Word.field (imgWord bs o) 0 3))
    routes := (entriesAt (imgSec bs 11) 16).map (imgRoute bs)
    ctxinit := (entriesAt (imgSec bs 12) 64).map (fun o => (List.range 8).map (fun i => imgWord bs (o + 8 * i))) }

/-- A DATA entry names tiles of the torus, and a local one a range of local store (R391). -/
def dataOk (f : Forme) (d : DataEnt) : Bool :=
  match d.span with
  | some n => n < 32
  | none => d.first ≤ d.last && d.last < f.count && (d.bytes.isEmpty || localOk f d.off d.bytes.length)

/-- Step 3 of R394: bounds and zero fields of everything that the sections hold. -/
def fieldsOk (bs : List Byte) : Bool :=
  let img := readImage bs
  let f := img.asForme
  headerZero bs &&
  (imgRouts bs).length ≤ 64 && (imgRouts bs).all (routOk bs) &&
  ((imgSec bs 3).2 == 128 * (imgRouts bs).length || img.routines.any (fun r => !r.ports.isEmpty)) &&
  (entriesAt (imgSec bs 4) 64).all (tileOk bs) && (entriesAt (imgSec bs 7) 16).all (xentryZero bs) &&
  (imgData bs ((imgSec bs 8).2 / 16 + 1) (imgSec bs 8).1 ((imgSec bs 8).1 + (imgSec bs 8).2)).isSome && img.data.all (dataOk f) &&
  (entriesAt (imgSec bs 9) 144).all (fun o => imgWord bs (o + 8) == 0) && img.streams.all (fun s => s.tile < f.count) &&
  img.engines.all (fun e => e.1 < 48) &&
  img.routes.all (fun r => r.src < f.count && r.dst < f.count && 1 ≤ r.dirs.length && r.dirs.length ≤ 24) &&
  img.ctxinit.all (ctxinitOk img.codeva img.code.length f)

/-! ### Route words (R173, R178) -/

/-- The decoded words of a program. -/
def words (prog : List Lane) : List (Option Instr) :=
  prog.map (fun w => match decodeRoute w.toNat with
    | .ok i => some i
    | .error _ => none)

/-- The first row of a ring without end that stands last in a program: a row taken as a word of the sequence would let SPC
pass the last word. -/
def endRing (ws : List (Option Instr)) : Nat → Nat → Option Nat
  | 0, _ => none
  | fuel + 1, i =>
    match ws[i]? with
    | none => none
    | some (some (.ring _ ii p)) => if p = 0 ∧ ws.length ≤ i + ii + 2 then some (i + 1) else endRing ws fuel (i + ii + 2)
    | some _ => endRing ws fuel (i + 1)

/-- A target of a program: loaded, and no row of a ring without end at its end. -/
def targetOk (ws : List (Option Instr)) (t : Nat) : Bool :=
  t < ws.length && (match endRing ws ws.length 0 with
    | some e => t < e
    | none => true)

/-- Word i of a program: a route word whose target lies in the program, whose ring rows are there, and whose successor is
loaded. -/
def wordOk (ws : List (Option Instr)) (i : Nat) : Bool :=
  let n := ws.length
  match ws.getD i none with
  | none => false
  | some (.jmp t) => targetOk ws t
  | some .switchHalt => true
  | some (.bnz _ t) => targetOk ws t && i + 1 < n
  | some (.ring _ ii p) => i + ii + 1 < n && (p == 0 || i + ii + 2 < n)
  | some _ => i + 1 < n

/-- A word that a row of a ring may hold (R178). -/
def rowOk (x : Option Instr) : Bool :=
  match x with
  | some (.route _ _ _ _ _ _ _ _ _) => true
  | some (.bus _ _ _ k) => k == 0
  | _ => false

/-- The first word of a program from index i on that is not in order. The rows of a ring stand behind it; they are words of the
program, each with its index, and no words of the sequence. -/
def badWord (ws : List (Option Instr)) : Nat → Nat → Option Nat
  | 0, _ => none
  | fuel + 1, i =>
    if ws.length ≤ i then none
    else if !wordOk ws i then some i
    else match ws.getD i none with
      | some (.ring _ ii _) =>
        match (List.range (ii + 1)).find? (fun r => !rowOk (ws.getD (i + 1 + r) none)) with
        | some r => some (i + 1 + r)
        | none => badWord ws fuel (i + ii + 2)
      | _ => badWord ws fuel (i + 1)

/-- The first tile of an image whose program holds a word that is not in order, with its index. -/
def Image.swill (img : Image) : Option (Nat × Nat) :=
  img.tiles.zipIdx.findSome? (fun t => (badWord (words t.1.prog) (t.1.prog.length + 1) 0).map (fun i => (t.2, i)))

/-- The failure of an image with such a word (R173). -/
def swillFail (x : Option (Nat × Nat)) : ImgFail :=
  { status := stIMAGE, code := cSWILL, tiles := (x.map (·.1)).toList, words := (x.map (·.2)).toList }

/-- The ring words of a program: index, FIRST and II. -/
def ringWords (ws : List (Option Instr)) : Nat → Nat → List (Nat × Nat × Nat)
  | 0, _ => []
  | fuel + 1, i =>
    match ws[i]? with
    | none => []
    | some (some (.ring f ii _)) => (i, f, ii + 1) :: ringWords ws fuel (i + ii + 2)
    | some _ => ringWords ws fuel (i + 1)

/-- The ring rows of a program: row number and word. -/
def ringRows (prog : List Lane) : List (Nat × Lane) :=
  (ringWords (words prog) prog.length 0).flatMap (fun r => (List.range r.2.2).map (fun k => (r.2.1 + k, prog.getD (r.1 + 1 + k) 0)))

/-! ### The rest of R394 -/

/-- REPL with WR set. -/
def spanOk (p : Span) : Bool := !(p.home == 2 && p.wr)

/-- An exchange-list entry stays inside main store or a bank, the torus and the window (R236). -/
def xentryOk (f : Forme) (e : XEntry) : Bool :=
  localOk f e.src e.len && e.tile < f.count && e.dst + e.len ≤ f.winSize

/-- No block holds more than 16 tiles. -/
def blocksOk (ts : List TileRec) : Bool :=
  ts.all (fun t => t.block.isNone || (ts.filter (fun u => u.block == t.block)).length ≤ 16)

/-- An image read and checked by the steps of R394 that come before the model run. -/
def parseImage (bs : List Byte) (featmask : Word) : Except ImgFail Image := do
  need (headerOk bs) { status := stBADREC }
  need (colophonOk bs featmask) { status := stCOLOPHON }
  need (sectionsOk bs && fieldsOk bs) failFmt
  let img := readImage bs
  need img.swill.isNone (swillFail img.swill)
  need (img.spans.all spanOk) { status := stIMAGE, code := cSPANF, sub := 3 }
  need (img.seeds.all (fun e => e.2.2 || e.2.1.toNat < 2 ^ 16)) failFmt
  need (img.tiles.all (fun t => t.xlist.all (xentryOk img.asForme))) { status := stIMAGE, code := cENGF, sub := 6 }
  need (blocksOk img.tiles) { status := stIMAGE, code := cTASKF, sub := 8 }
  return img

end Sys2Proof.Machine
end

