-- ==== Sys2Proof/Machine/Layout.lean ====
section
/-! DEFINITION. Where make-ready puts the tiles of a forme and how it joins their links: the fold of the logical torus
(R206, R207), direction maps (R208), stream ports (R338) and long routes (R393). Positions are relative to the rectangle:
position y × W + x stands at offset (x, y). -/

namespace Sys2Proof.Machine

/-- p(x): the physical offset of logical coordinate x on an axis of length n (R206). -/
def foldAt (n x : Nat) : Nat := if n < 3 then x else if x < (n + 1) / 2 then 2 * x else 2 * (n - 1 - x) + 1

/-- One direction of a logical link along an axis: offsets of source and destination. -/
structure AxisLink where
  p : Nat
  q : Nat
deriving DecidableEq, Repr

def AxisLink.hops (l : AxisLink) : Nat := (l.q - l.p) + (l.p - l.q)
/-- The source stands at an end of its axis of length n. -/
def AxisLink.fromEnd (l : AxisLink) (n : Nat) : Bool := l.p == 0 || l.p + 1 == n

/-- The link from logical coordinate x toward x + 1, or toward x − 1; none where an axis without wrap ends. -/
def axisLink (n x : Nat) (plus : Bool) : Option AxisLink :=
  if n < 3 then
    if plus then (if x + 1 < n then some { p := x, q := x + 1 } else none)
    else if 0 < x then some { p := x, q := x - 1 } else none
  else some { p := foldAt n x, q := foldAt n (if plus then (x + 1) % n else (x + n - 1) % n) }

/-- The physical direction of travel, on the axis whose rising direction is `up` (E 1 or S 2). -/
def AxisLink.travel (l : AxisLink) (up : Nat) : Nat := if l.p < l.q then up else opposite up

/-- The link end that the source's output takes, and that the destination's input takes (R207). -/
def AxisLink.outEnd (l : AxisLink) (n up : Nat) : LinkEnd :=
  { dir := l.travel up, thru := l.hops == 2 && l.fromEnd n }
def AxisLink.inEnd (l : AxisLink) (up : Nat) : LinkEnd := { dir := opposite (l.travel up), thru := l.hops == 2 }

/-- The connections that the two-hop links of an axis set at an offset: those whose middle stands there. -/
def axisConns (n up at_ : Nat) : List ThruConn :=
  (List.range n).flatMap (fun x => [true, false].filterMap (fun plus =>
    (axisLink n x plus).bind (fun l =>
      if l.hops = 2 && (l.p + l.q) / 2 = at_ then
        some { inDir := opposite (l.travel up), inThru := l.fromEnd n, outDir := l.travel up }
      else none)))

/-- Output and input of a logical tile in a logical direction by the fold: W and N are the falling directions. -/
def foldOut (w h x y d : Nat) : Option LinkEnd :=
  match d with
  | 0 => (axisLink h y false).map (fun l => l.outEnd h 2)
  | 1 => (axisLink w x true).map (fun l => l.outEnd w 1)
  | 2 => (axisLink h y true).map (fun l => l.outEnd h 2)
  | _ => (axisLink w x false).map (fun l => l.outEnd w 1)

/-- The neighbour's coordinate along an axis of length n. -/
def nextOn (n x : Nat) (plus : Bool) : Nat := if plus then (x + 1) % n else (x + n - 1) % n

def foldIn (w h x y d : Nat) : Option LinkEnd :=
  let from_ (n c up : Nat) (plus : Bool) : Option LinkEnd :=
    if (axisLink n c plus).isNone then none
    else (axisLink n (nextOn n c plus) (!plus)).map (fun l => l.inEnd up)
  match d with
  | 0 => from_ h y 2 false
  | 1 => from_ w x 1 true
  | 2 => from_ h y 2 true
  | _ => from_ w x 1 false

/-- The position of a logical tile, and its coordinates. -/
def positionOf (w h n : Nat) : Nat := foldAt h (n / w) * w + foldAt w (n % w)

/-- The static network of a logical tile as the fold sets it. -/
def foldFabric (w h n : Nat) : Fabric :=
  let x := n % w
  let y := n / w
  { outMap := Vector.ofFn (fun d => foldOut w h x y d.val), inMap := Vector.ofFn (fun d => foldIn w h x y d.val)
    conns := axisConns w 1 (foldAt w x) ++ axisConns h 2 (foldAt h y) }

/-- A bound stream port is the input and the output of its side, where the fold leaves that direction free
(log entry 26). -/
def Fabric.addStream (f : Fabric) (side : Nat) : Fabric :=
  let e : LinkEnd := { dir := side, thru := false }
  { f with
    outMap := if (vget f.outMap side none).isNone then vset f.outMap side (some e) else f.outMap
    inMap := if (vget f.inMap side none).isNone then vset f.inMap side (some e) else f.inMap }

/-- The position next to one inside the rectangle. -/
def stepAt (w h p d : Nat) : Option Nat :=
  match d with
  | 0 => if p < w then none else some (p - w)
  | 1 => if p % w + 1 = w then none else some (p + 1)
  | 2 => if p / w + 1 = h then none else some (p + w)
  | _ => if p % w = 0 then none else some (p - 1)

/-- Connection or through output of a tile in a direction is in use. -/
def Fabric.thruUsed (f : Fabric) (d : Nat) : Bool :=
  f.conns.any (fun c => c.outDir == d) || f.outMap.toList.any (fun e => e == some { dir := d, thru := true })

/-- What a long route comes to. -/
inductive RouteRes where
  | ok (fs : List Fabric)
  | leaves
  | taken
deriving DecidableEq, Repr

/-- The steps of a long route from a position on, the lane that arrives there coming from the side `side`. Two points that the
spec leaves open (log entry 26): a route whose first hop runs on a scheduled lane that the fold uses already replaces nothing,
so that its connection and the lane's consumer take flits from one FIFO; and a route whose steps do not end at its destination
tile does not fit, so that the image is refused as for a lane taken. -/
def routeSteps (w h dst : Nat) : List Nat → Nat → Nat → Bool → List Fabric → RouteRes
  | [], p, side, thru, fs =>
    if p ≠ dst then .taken
    else
      let f := fs.getD p {}
      let e : LinkEnd := { dir := side, thru }
      let d := ((List.range 4).find? (fun d => ((vget f.inMap d none).map LinkEnd.dir) == some side)).getD side
      .ok (lset fs p { f with inMap := vset f.inMap d (some e) })
  | d :: ds, p, side, thru, fs =>
    match stepAt w h p d with
    | none => .leaves
    | some q =>
      let f := fs.getD p {}
      if f.thruUsed d then .taken
      else routeSteps w h dst ds q (opposite d) true (lset fs p { f with conns := f.conns ++ [{ inDir := side, inThru := thru, outDir := d }] })

/-- A long route laid over the fabrics by position (R393). -/
def addRoute (img : Image) (r : RouteEnt) (fs : List Fabric) : RouteRes :=
  match stepAt img.w img.h (positionOf img.w img.h r.src) r.first with
  | none => .leaves
  | some q => routeSteps img.w img.h (positionOf img.w img.h r.dst) r.dirs q (opposite r.first) false fs

/-- Every route laid, or the source tile of the first that does not fit. At REGISTER a route that leaves the rectangle is left
for LAUNCH to refuse (R392). -/
def addRoutes (img : Image) (launch : Bool) : List RouteEnt → List Fabric → Except Nat (List Fabric)
  | [], fs => .ok fs
  | r :: rs, fs =>
    match addRoute img r fs with
    | .ok g => addRoutes img launch rs g
    | .leaves => if launch then .error r.src else addRoutes img launch rs fs
    | .taken => .error r.src

/-- The logical tile at each position. -/
def tileAtPos (w h : Nat) : List Nat :=
  (List.range (w * h)).map (fun p => ((List.range (w * h)).find? (fun n => positionOf w h n == p)).getD 0)

/-- The static networks of an image's tiles, by position; where its long routes do not fit, the source of the first. -/
def layout (img : Image) (launch : Bool) : Except Nat (List Fabric) :=
  let base := (tileAtPos img.w img.h).map (fun n =>
    (img.streams.filter (fun s => s.tile == n)).foldl (fun f s => f.addStream s.side) (foldFabric img.w img.h n))
  addRoutes img launch img.routes base

end Sys2Proof.Machine
end

