-- ==== Sys2Proof/Machine/ModelRun.lean ====
section
/-! DEFINITION. The model run (R203, R204, R450): the admissibility rules A1 to A7 of a forme's static schedule. A queue
of the run holds, for each flit, the tick from which it can be taken. -/

namespace Sys2Proof.Machine

/-- Where the run places a forme: its image, and for a LAUNCH its rectangle's corner and B. -/
structure RunCfg where
  img : Image
  x0 : Nat
  y0 : Nat
  b : Option Nat
deriving DecidableEq, Repr

/-- A tile of the run. -/
structure RunTile where
  logical : Nat
  sw : Switch
  fab : Fabric
  latch : List Nat := []
  coreIn : Vector (List Nat) 4 := Vector.replicate 4 []
  coreOut : Vector (List Nat) 4 := Vector.replicate 4 []
  sched : Vector (List Nat) 4 := Vector.replicate 4 []
  thru : Vector (List Nat) 4 := Vector.replicate 4 []
  valid : Bool := false
  /-- what is left of the port sequences of the superstep's routines, in list order -/
  todo : List (List (Bool × Nat)) := []
deriving DecidableEq, Repr

/-- A queue of a tile. -/
inductive RunQ where
  | coreIn (d : Nat)
  | coreOut (d : Nat)
  | fifo (e : LinkEnd)
  | latch
deriving DecidableEq, Repr

def RunTile.q (t : RunTile) : RunQ → List Nat
  | .coreIn d => vget t.coreIn d []
  | .coreOut d => vget t.coreOut d []
  | .fifo e => vget (if e.thru then t.thru else t.sched) e.dir []
  | .latch => t.latch

def RunTile.setQ (t : RunTile) (x : RunQ) (l : List Nat) : RunTile :=
  match x with
  | .coreIn d => { t with coreIn := vset t.coreIn d l }
  | .coreOut d => { t with coreOut := vset t.coreOut d l }
  | .fifo e => if e.thru then { t with thru := vset t.thru e.dir l } else { t with sched := vset t.sched e.dir l }
  | .latch => { t with latch := l }

/-- What an agent does in a tick: a flit taken, a flit sent, the switch moved on, a port operation done. -/
inductive RunAct where
  | pop (p : Nat) (x : RunQ)
  | push (p : Nat) (x : RunQ) (at_ : Nat)
  | sw (p : Nat) (w : Switch)
  | op (p i : Nat)
deriving DecidableEq, Repr

abbrev RunTiles := List RunTile

def RunTiles.at (ts : RunTiles) (p : Nat) : RunTile := ts.getD p { logical := 0, sw := {}, fab := {} }

def RunAct.apply (ts : RunTiles) : RunAct → RunTiles
  | .pop p x => lset ts p ((RunTiles.at ts p).setQ x (((RunTiles.at ts p).q x).drop 1))
  | .push p x a => lset ts p ((RunTiles.at ts p).setQ x ((RunTiles.at ts p).q x ++ [a]))
  | .sw p w => lset ts p { RunTiles.at ts p with sw := w }
  | .op p i => lset ts p { RunTiles.at ts p with todo := lset (RunTiles.at ts p).todo i (((RunTiles.at ts p).todo.getD i []).drop 1) }

/-! ### Geometry of the run -/

/-- The physical tile at a position. At REGISTER the forme lies on one die. -/
def RunCfg.phys (c : RunCfg) (p : Nat) : Nat := physAt (c.x0 + p % c.img.w) (c.y0 + p / c.img.w)
def RunCfg.dieOf (c : RunCfg) (p : Nat) : Nat := if c.b.isSome then physDie (c.phys p) else 0
def RunCfg.next (c : RunCfg) (p d : Nat) : Option Nat := stepAt c.img.w c.img.h p d
def RunCfg.crosses (c : RunCfg) (p d : Nat) : Bool := c.b.isSome && crossesEdge (c.phys p) d

/-- The head of a queue can be taken in a tick. -/
def ready (l : List Nat) (now : Nat) : Bool :=
  match l with
  | a :: _ => a ≤ now
  | [] => false

/-- A source can give a flit; a stream source always can. -/
def RunCfg.srcReady (c : RunCfg) (ts : RunTiles) (p now : Nat) (x : SwSrc) : Bool :=
  let t := RunTiles.at ts p
  match x with
  | .link d => ((vget t.fab.inMap d none).map (fun e => (c.next p e.dir).isNone || ready (t.q (.fifo e)) now)).getD false
  | .core d => ready (t.q (.coreOut d)) now
  | .latch => ready t.latch now

/-- A lane out of a position has room (R168, R188). -/
def RunCfg.laneRoom (c : RunCfg) (ts : RunTiles) (p : Nat) (e : LinkEnd) : Bool :=
  match c.next p e.dir with
  | none => true
  | some q => c.crosses p e.dir || ((RunTiles.at ts q).q (.fifo { e with dir := opposite e.dir })).length < 4

/-- A flit sent on a lane. -/
def RunCfg.send (c : RunCfg) (p now : Nat) (e : LinkEnd) : List RunAct :=
  match c.next p e.dir with
  | none => []
  | some q => [.push q (.fifo { e with dir := opposite e.dir }) (now + if c.crosses p e.dir then 24 else 1)]

/-- A flit taken from a source. -/
def RunCfg.take (c : RunCfg) (ts : RunTiles) (p : Nat) (x : SwSrc) : List RunAct :=
  match x with
  | .link d =>
    match vget (RunTiles.at ts p).fab.inMap d none with
    | some e => if (c.next p e.dir).isNone then [] else [.pop p (.fifo e)]
    | none => []
  | .core d => [.pop p (.coreOut d)]
  | .latch => [.pop p .latch]

/-! ### One tick of the agents -/

/-- What an agent comes to in a tick. -/
structure RunStep where
  acts : List RunAct := []
  /-- it waits for nothing but the time -/
  timed : Bool := false
  /-- it moved a flit to or from the core of a cell that is not valid -/
  invalid : Bool := false
deriving DecidableEq, Repr

/-- The moves of a word can be made. -/
def RunCfg.canMove (c : RunCfg) (ts : RunTiles) (p now : Nat) (ms : List (Nat × SwSrc)) (cs : List Nat) : Bool :=
  let t := RunTiles.at ts p
  (swSources ms cs).all (c.srcReady ts p now) &&
  ms.all (fun m => ((vget t.fab.outMap m.1 none).map (c.laneRoom ts p)).getD false) &&
  cs.all (fun d => (t.q (.coreIn d)).length < 4)

/-- The moves of a word. -/
def RunCfg.moves (c : RunCfg) (ts : RunTiles) (p now : Nat) (ms : List (Nat × SwSrc)) (cs : List Nat) : List RunAct :=
  let t := RunTiles.at ts p
  (swSources ms cs).flatMap (c.take ts p) ++
  ms.flatMap (fun m => ((vget t.fab.outMap m.1 none).map (c.send p now)).getD []) ++
  cs.map (fun d => .push p (.coreIn d) (now + 1))

/-- A word's moves touch the core. -/
def touchesCore (ms : List (Nat × SwSrc)) (cs : List Nat) : Bool :=
  !cs.isEmpty || ms.any (fun m => match m.2 with
    | .core _ => true
    | _ => false)

def RunCfg.fire (c : RunCfg) (ts : RunTiles) (p now : Nat) (ms : List (Nat × SwSrc)) (cs : List Nat) (w : Switch) : RunStep :=
  if c.canMove ts p now ms cs then
    { acts := c.moves ts p now ms cs ++ [.sw p w], invalid := touchesCore ms cs && !(RunTiles.at ts p).valid }
  else {}

/-- The destination queue of a listen. -/
def listenQ (dst : Nat) : RunQ := if dst = 0 then .latch else .coreIn (dst - 1)
def RunTile.listenRoom (t : RunTile) (dst : Nat) : Bool := (t.q (listenQ dst)).length < (if dst = 0 then 1 else 4)

/-- The listen that is a switch's current word, for a bus and slot. -/
def listenWord (b sl : Nat) (w : Switch) : Option (List (Nat × SwSrc) × List Nat × Nat) :=
  match w.word with
  | some (.route n e s w c 1 lb q d) => if lb = b ∧ q = sl then some (swMoves n e s w, swCins c, d) else none
  | _ => none

/-- The positions of a bus segment (R185). -/
def RunCfg.segment (c : RunCfg) (p b : Nat) : List Nat :=
  (List.range (c.img.w * c.img.h)).filter (fun q =>
    c.dieOf q == c.dieOf p && (if b = 0 then q / c.img.w == p / c.img.w else q % c.img.w == p % c.img.w))

/-- A bus word drives when its slot comes, its source holds a flit and every listener can fire (R183). -/
def RunCfg.busStep (c : RunCfg) (ts : RunTiles) (p now b sl r k : Nat) : RunStep :=
  let t := RunTiles.at ts p
  let others := (c.segment p b).filter (fun q => q != p && ((RunTiles.at ts q).sw.listenOf b sl).isSome)
  let own := t.sw.listenOf b sl
  let can (q : Nat) : Bool := match listenWord b sl (RunTiles.at ts q).sw with
    | some (ms, cs, d) => c.canMove ts q now ms cs && (RunTiles.at ts q).listenRoom d
    | none => false
  if !c.srcReady ts p now (busSrc r) || !others.all can || !((own.map t.listenRoom).getD true) then {}
  else if now % 32 ≠ sl then { timed := true }
  else
    let core (q d : Nat) : Bool := d != 0 && !(RunTiles.at ts q).valid
    let parts := others.map (fun q => match listenWord b sl (RunTiles.at ts q).sw with
      | some (ms, cs, d) =>
        ({ acts := c.moves ts q now ms cs ++ [.push q (listenQ d) (now + 1), .sw q (RunTiles.at ts q).sw.advance]
           invalid := core q d || (touchesCore ms cs && !(RunTiles.at ts q).valid) } : RunStep)
      | none => {})
    { acts := c.take ts p (busSrc r) ++ [.sw p (repDone k t.sw)] ++ parts.flatMap RunStep.acts ++
        (match own with
          | some d => [.push p (listenQ d) (now + 1)]
          | none => [])
      invalid := parts.any RunStep.invalid || ((own.map (core p)).getD false) ||
        (5 ≤ r && r ≤ 8 && !t.valid) }

/-- A switch in one tick (R175 to R184). -/
def RunCfg.switchStep (c : RunCfg) (ts : RunTiles) (now p : Nat) : RunStep :=
  let w := (RunTiles.at ts p).sw
  let goto (i : Nat) : RunStep := { acts := [.sw p { w with spc := i }] }
  match w.word with
  | some (.route n e s wd ci 0 _ _ _) => c.fire ts p now (swMoves n e s wd) (swCins ci) w.advance
  | some (.rep n e s wd ci k) => c.fire ts p now (swMoves n e s wd) (swCins ci) (repDone k w)
  | some (.ring f i ps) => { acts := [.sw p { w with inRing := some (f, i + 1), rrow := f, rpass := ps }] }
  | some (.jmp t) => goto t
  | some (.bnz k t) =>
    if vget w.c k 0 ≠ 0 then { acts := [.sw p { w with c := vset w.c k (vget w.c k 0 - 1), spc := t }] } else goto (w.spc + 1)
  | some (.setc k v) => { acts := [.sw p { w with c := vset w.c k (BitVec.ofNat 16 v), spc := w.spc + 1 }] }
  | some (.tkwt _ v) => if now % 65536 = v then goto (w.spc + 1) else { timed := true }
  | some (.bus b sl r k) => c.busStep ts p now b sl r k
  | some .switchHalt => { acts := [.sw p { w with halted := true }] }
  | some .nop => goto (w.spc + 1)
  | _ => {}

/-- The through-lane connections of a position in one tick (R207). Like every agent of the run each acts on the state at the
tick's start; where a long route shares a FIFO with another consumer (routeSteps), both take its one head flit and send it on,
which the spec leaves open (log entry 26). -/
def RunCfg.thruStep (c : RunCfg) (ts : RunTiles) (now p : Nat) : RunStep :=
  { acts := (RunTiles.at ts p).fab.conns.flatMap (fun k =>
      let src : RunQ := .fifo { dir := k.inDir, thru := k.inThru }
      let out : LinkEnd := { dir := k.outDir, thru := true }
      if ready ((RunTiles.at ts p).q src) now && c.laneRoom ts p out then .pop p src :: c.send p now out else []) }

/-- A core in one tick: the next operation of the first routine whose next operation can be made (R169). -/
def coreStep (ts : RunTiles) (now p : Nat) : RunStep :=
  let t := RunTiles.at ts p
  let can : List (Bool × Nat) → Bool
    | (true, d) :: _ => (t.q (.coreOut d)).length < 4
    | (false, d) :: _ => ready (t.q (.coreIn d)) now
    | [] => false
  match (List.range t.todo.length).find? (fun i => can (t.todo.getD i [])) with
  | some i =>
    match t.todo.getD i [] with
    | (true, d) :: _ => { acts := [.op p i, .push p (.coreOut d) (now + 1)] }
    | (false, d) :: _ => { acts := [.op p i, .pop p (.coreIn d)] }
    | [] => {}
  | none => {}

/-- Every agent in one tick, each on the state at its start. -/
def RunCfg.tickSteps (c : RunCfg) (ts : RunTiles) (now : Nat) : List RunStep :=
  (List.range ts.length).flatMap (fun p => [c.switchStep ts now p, c.thruStep ts now p, coreStep ts now p])

/-! ### Before the run (R204) -/

/-- Subcodes of ROUTEBAL (Table 12-9). -/
def rbPORTSHARE : BitVec 8 := 1
def rbLINK : BitVec 8 := 2
def rbBUSDRV : BitVec 8 := 3
def rbSTUCK : BitVec 8 := 4
def rbBAL : BitVec 8 := 5
def rbEDGEOCC : BitVec 8 := 6
def rbINVALID : BitVec 8 := 7
def rbRING : BitVec 8 := 8
def rbLONG : BitVec 8 := 9

/-- Ring words whose rows overlap hold the same contents. -/
def ringsAgree (prog : List Lane) : Bool :=
  let rs := ringRows prog
  rs.all (fun x => rs.all (fun y => x.1 != y.1 || x.2 == y.2))

/-- In each superstep a core port is used by one routine at most (A2). -/
def portsApart (img : Image) (t : TileRec) : Bool :=
  (List.range t.period).all (fun k =>
    let rs := ((t.list.filter (fun e => e.1 == k)).map (·.2)).eraseDups
    let used := rs.map (fun r => ((img.routines[r]?).map Routine.ports).getD [])
    (List.range used.length).all (fun i => (List.range i).all (fun j =>
      !(used.getD i []).any (fun x => (used.getD j []).contains x))))

/-- The link inputs and outputs that a word names are there (A3). -/
def wordLinked (f : Fabric) (i : Instr) : Bool :=
  let src (x : SwSrc) : Bool := match x with
    | .link d => (vget f.inMap d none).isSome
    | _ => true
  let moves (ms : List (Nat × SwSrc)) (cs : List Nat) : Bool :=
    ms.all (fun m => (vget f.outMap m.1 none).isSome) && (swSources ms cs).all src
  match i with
  | .route n e s w c _ _ _ _ => moves (swMoves n e s w) (swCins c)
  | .rep n e s w c _ => moves (swMoves n e s w) (swCins c)
  | .bus _ _ r _ => src (busSrc r)
  | _ => true

/-- The instructions of a program, ring rows among them. -/
def progInstrs (prog : List Lane) : List Instr := (words prog).filterMap id

/-- A program drives a bus slot. -/
def drives (b sl : Nat) (prog : List Lane) : Bool :=
  (progInstrs prog).any (fun i => match i with
    | .bus x y _ _ => x == b && y == sl
    | _ => false)
def listensTo (b sl : Nat) (prog : List Lane) : Bool := (progInstrs prog).any (fun i => (listens b sl i).isSome)

/-- The slots of the segments of a position that have two drivers, or listeners and no driver (A4). -/
def RunCfg.badSlots (c : RunCfg) (ts : RunTiles) (p : Nat) : List (Nat × Nat) :=
  [0, 1].flatMap (fun b =>
    let seg := (c.segment p b).map (fun q => (RunTiles.at ts q).sw.prog)
    ((List.range 32).filter (fun sl =>
      let d := (seg.filter (drives b sl)).length
      1 < d || (d == 0 && seg.any (listensTo b sl)))).map (fun sl => (b, sl)))

/-- A switch as make-ready leaves it (R172, R178): its program and ring rows, halted where it has no word. -/
def loadSwitch (prog : List Lane) : Switch :=
  { prog, halted := prog.isEmpty, ring := (ringRows prog).foldl (fun r x => vset r x.1 x.2) (Vector.replicate 32 0) }

/-- The tiles at the start of the run, by position. -/
def RunCfg.start (c : RunCfg) (fs : List Fabric) : RunTiles :=
  ((tileAtPos c.img.w c.img.h).zip fs).map (fun x =>
    { logical := x.1, fab := x.2, sw := loadSwitch ((c.img.tiles[x.1]?).map TileRec.prog |>.getD []) })

/-! ### The run -/

/-- One more than the highest stage number in use (R26). -/
def Image.stages (img : Image) : Nat := (img.tiles.map TileRec.stage).foldl max 0 + 1

/-- Whether a stage is valid in a superstep: its microbatch k − s exists (R26). At REGISTER every k is below B. -/
def RunCfg.valid (c : RunCfg) (k s : Nat) : Bool := s ≤ k && (match c.b with
  | some b => k - s < b
  | none => true)

/-- Every stage is valid: the steady state. -/
def RunCfg.steady (c : RunCfg) (k : Nat) : Bool := (List.range c.img.stages).all (c.valid k)

/-- Superstep k begins: the port sequences of the routines of each valid cell. -/
def RunCfg.superstep (c : RunCfg) (ts : RunTiles) (k : Nat) : RunTiles :=
  ts.map (fun t =>
    let r : TileRec := (c.img.tiles[t.logical]?).getD
      { stage := 0, disp := 0, bar := 0, gs := 0, block := none, period := 1, list := [], xlist := [], prog := [], gal := [] }
    let ok := c.valid k r.stage
    { t with
      valid := ok
      todo := if ok then (r.list.filter (fun e => e.1 == k % r.period)).map (fun e =>
          ((c.img.routines[e.2]?).map Routine.ports).getD []) else [] })

/-- The state that may repeat: queues with times relative to the tick, and the place in the periods of the lists. -/
def RunTile.norm (now : Nat) (t : RunTile) : RunTile :=
  let r (v : Vector (List Nat) 4) : Vector (List Nat) 4 := v.map (fun l => l.map (fun a => a - now))
  { t with
    latch := t.latch.map (fun a => a - now), coreIn := r t.coreIn, coreOut := r t.coreOut, sched := r t.sched, thru := r t.thru
    valid := false, todo := [] }
def RunTile.shift (now : Nat) (t : RunTile) : RunTile :=
  let r (v : Vector (List Nat) 4) : Vector (List Nat) 4 := v.map (fun l => l.map (fun a => a + now))
  { t with latch := t.latch.map (fun a => a + now), coreIn := r t.coreIn, coreOut := r t.coreOut, sched := r t.sched, thru := r t.thru }

def Image.cycle (img : Image) : Nat := (img.tiles.map TileRec.period).foldl Nat.lcm 1

/-- No queue of a tile holds a flit. -/
def RunTile.empty (t : RunTile) : Bool :=
  t.latch.isEmpty && [t.coreIn, t.coreOut, t.sched, t.thru].all (fun v => v.toList.all List.isEmpty)

/-- Some flit is still on its way. -/
def RunTile.inFlight (now : Nat) (t : RunTile) : Bool :=
  [t.coreIn, t.coreOut, t.sched, t.thru].any (fun v => v.toList.any (fun l => l.any (fun a => now < a))) || t.latch.any (fun a => now < a)

/-- An edge buffer of a position holds more than 24 flits (A7): those that entered it 12 ticks after they were sent. -/
def RunCfg.crowded (c : RunCfg) (ts : RunTiles) (now p : Nat) : Bool :=
  laneEnds.any (fun e => c.crosses p e.dir && 24 < (((RunTiles.at ts p).q (.fifo e)).filter (fun a => a ≤ now + 12)).length)

/-- A state seen at the start of a superstep. -/
structure Seen where
  k : Nat
  ts : RunTiles
deriving DecidableEq, Repr

/-- What a failed model run names: subcode, logical tiles, word indices and model tick (R204). -/
structure RunFail where
  sub : BitVec 8
  tiles : List Nat := []
  words : List Nat := []
  tick : Nat := 0
deriving DecidableEq, Repr

/-- A failure at positions of the run: their tiles, and the words that their switches hold. -/
def RunTiles.fail (ts : RunTiles) (sub : BitVec 8) (tick : Nat) (ps : List Nat) : RunFail :=
  { sub, tiles := ps.map (fun p => (RunTiles.at ts p).logical), words := ps.map (fun p => (RunTiles.at ts p).sw.spc), tick }

/-- The positions of a run that meet a condition. -/
def RunTiles.which (ts : RunTiles) (f : Nat → Bool) : List Nat := (List.range ts.length).filter f

/-- The run from a tick on; none where the schedule is admissible, else its failure: of the faults that one tick shows, the
first in the order of Table 6-10. Two points that the spec leaves open (log entry 26): a tick is STUCK only while some port
sequence of the superstep is unfinished, a switch that waits beside finished sequences being no unfinished agent; and `seen`
holds the state at the start of each steady superstep, the first among them, which are those that a boundary may repeat. -/
def RunCfg.run (c : RunCfg) : Nat → Nat → Nat → RunTiles → List Seen → Option RunFail
  | 0, now, _, _, _ => some { sub := rbLONG, tick := now }
  | fuel + 1, now, k, ts, seen =>
    let steps := c.tickSteps ts now
    let acts := steps.flatMap RunStep.acts
    let ts1 := acts.foldl RunAct.apply ts
    let going := !ts1.all (fun t => t.todo.all List.isEmpty)
    let ended := !going && (ts1.all (fun t => t.sw.halted) || (match c.b with
      | some b => b + c.img.stages ≤ k + 2
      | none => false))
    if going && acts.isEmpty && !steps.any RunStep.timed && !ts.any (RunTile.inFlight now) then
      some (ts.fail rbSTUCK now (ts.which (fun p => !(RunTiles.at ts p).sw.halted || !(RunTiles.at ts p).todo.all List.isEmpty)))
    else if ended && !ts1.all RunTile.empty then some (ts1.fail rbBAL now (ts1.which (fun p => !(RunTiles.at ts1 p).empty)))
    else if (List.range ts.length).any (c.crowded ts now) then some (ts.fail rbEDGEOCC now (ts.which (c.crowded ts now)))
    else if steps.any RunStep.invalid then some (ts.fail rbINVALID now (ts.which (fun p => (c.switchStep ts now p).invalid)))
    else if going then c.run fuel (now + 1) k ts1 seen
    else if ended then none
    else
      let norm := ts1.map (RunTile.norm (now + 1))
      let k1 := k + 1
      let again := seen.find? (fun x => x.ts == norm && x.k % c.img.cycle == k1 % c.img.cycle)
      match again, c.b with
      | none, _ =>
        c.run fuel (now + 1) k1 (c.superstep ts1 k1) (if c.steady k1 then { k := k1, ts := norm } :: seen else seen)
      | some _, none => none
      | some x, some b =>
        -- the cycle's state for superstep B
        if b ≤ k1 then c.run fuel (now + 1) k1 (c.superstep ts1 k1) seen
        else
          let at_ := x.k + (b - x.k) % (k1 - x.k)
          let y := ((seen.find? (fun z => z.k == at_)).getD x).ts
          c.run fuel (now + 1) b (c.superstep (y.map (RunTile.shift (now + 1))) b) []

/-- A failure found before the run: the tiles of an image that break a rule, with the indices of the words that do. -/
def Image.fail (img : Image) (sub : BitVec 8) (f : TileRec → Option (List Nat)) : RunFail :=
  let bad := img.tiles.zipIdx.filterMap (fun t => (f t.1).map (fun w => (t.2, w)))
  { sub, tiles := bad.map (·.1), words := bad.flatMap (·.2) }

/-- The indices of the words of a program that meet a condition. -/
def wordsWhere (prog : List Lane) (f : Instr → Bool) : List Nat :=
  (words prog).zipIdx.filterMap (fun x => match x.1 with
    | some i => if f i then some x.2 else none
    | none => none)

/-- The words of a program that drive or listen to one of some bus slots. -/
def busWords (slots : List (Nat × Nat)) (prog : List Lane) : List Nat :=
  wordsWhere prog (fun i => match i with
    | .bus b sl _ _ => slots.contains (b, sl)
    | .route _ _ _ _ _ 1 b sl _ => slots.contains (b, sl)
    | _ => false)

/-- The model run of an image: none where it is admissible (R203, R204, R450). -/
def modelRun (c : RunCfg) : Option RunFail :=
  let but (b : Bool) (w : List Nat) : Option (List Nat) := if b then none else some w
  if !c.img.tiles.all (fun t => ringsAgree t.prog) then
    some (c.img.fail rbRING (fun t => but (ringsAgree t.prog) ((ringWords (words t.prog) t.prog.length 0).map (·.1))))
  else if !c.img.tiles.all (portsApart c.img) then some (c.img.fail rbPORTSHARE (fun t => but (portsApart c.img t) []))
  else match layout c.img c.b.isSome with
    | .error n => some { sub := rbLINK, tiles := [n] }
    | .ok fs =>
      let ts := c.start fs
      if !ts.all (fun t => (progInstrs t.sw.prog).all (wordLinked t.fab)) then
        let bad (p : Nat) : List Nat := wordsWhere (RunTiles.at ts p).sw.prog (fun i => !wordLinked (RunTiles.at ts p).fab i)
        let ps := ts.which (fun p => !(bad p).isEmpty)
        some { sub := rbLINK, tiles := ps.map (fun p => (RunTiles.at ts p).logical), words := ps.flatMap bad }
      else if !(List.range ts.length).all (fun p => (c.badSlots ts p).isEmpty) then
        let bad (p : Nat) : List Nat := busWords (c.badSlots ts p) (RunTiles.at ts p).sw.prog
        let ps := ts.which (fun p => !(bad p).isEmpty)
        some { sub := rbBUSDRV, tiles := ps.map (fun p => (RunTiles.at ts p).logical), words := ps.flatMap bad }
      else c.run (2 ^ 24) 0 0 (c.superstep ts 0) (if c.steady 0 then [{ k := 0, ts := ts.map (RunTile.norm 0) }] else [])

end Sys2Proof.Machine
end

