-- ==== Sys2Proof/Machine/Save.lean ====
section
/-! DEFINITION. Context save records and their restoration (R115, R369 to R371), halts by pre-emption, fault and stop
(R368, R413, R414), the forme watchdog (R367), and collection of floating-point exceptions (R372 to R374). -/

namespace Sys2Proof.Machine

/-! ### Halting (R369) -/

/-- What becomes of the wait of a context that stops: a sync or gsync keeps its arrival, a wfi completes, any other
instruction is abandoned and issues afresh, a tkal with the flit that it had taken (R369). -/
def State.abandon (s0 : State) (p : Nat) (c : Fin 4) : State :=
  let s := s0.as p c
  let drop (s : State) : State := s.onCtx (fun x => { x with wait := .nothing, stall := none })
  let s1 := match s.ctx.wait with
    | .sync | .gsync => s
    | .wfi => s.complete
    | .tkal _ _ _ (some (d, v, t)) =>
      drop (s.onTile (fun x => { x with fab := { x.fab with coreIn := vset x.fab.coreIn d ({ val := v, taint := t } :: x.inQ d) } }))
    | _ => drop s
  { s1 with
    actor := s0.actor
    sc := s1.sc.filter (fun o => !(o.tile == p && o.ctx == c))
    reqs := s1.reqs.filter (fun r => !(r.tile == p && r.ctx == c && (match r.kind with
      | .raceCheck _ | .taintRead _ => true
      | _ => false))) }

/-- A context may be saved: its windows are settled, its store-buffer entries confirmed or faulted, an operation that
it has sent and that completes by itself has completed, and no report of an exception is outstanding (R115, R369). -/
def State.ctxQuiet (t : Tile) (c : Fin 4) : Bool :=
  let x := t.ctxs[c]
  x.settled && !(x.fpx.isSome && x.vbeat == 0) &&
  (match x.wait with
    | .atomic _ _ | .mapping | .hashdom _ _ | .fpx => false
    | _ => true) &&
  !t.sb.any (fun e => e.ctx == c && !e.isFaulted)

def ctx4 : List (Fin 4) := [0, 1, 2, 3]

/-- The forme's contexts may be saved. -/
def State.canSave (s : State) (f : Forme) : Bool := (s.tiles.filter (fun t => t.forme == f.id)).all (fun t => ctx4.all (State.ctxQuiet t))

/-- No copy-engine command of the forme is queued or under way; an installed node that has not fired is none (R349). -/
def State.enginesIdle (s : State) (f : Nat) : Bool :=
  (s.engs.filter (fun x => x.forme == f)).all (fun x => x.queue.isEmpty && x.fired.isEmpty && x.finished.isEmpty)

/-- The forme's matrix queues and engine commands have run to their end, and no push of its update-only lines is under way
(R414, R416). -/
def State.drained (s : State) (f : Forme) : Bool :=
  (s.tiles.filter (fun t => t.forme == f.id)).all (fun t => t.mx.queue.isEmpty) && !s.pushes.any (fun u => u.forme == f.id) &&
  s.enginesIdle f.id

/-! ### Save records (R370, Table 12-11) -/

/-- A context's state as a save record codes it. -/
def Ctx.stateCode (c : Ctx) (frozen : Bool) : Nat :=
  match c.st with
  | .noThread => 0
  | .running => if frozen then 3 else 1
  | .halted => 2
  | .frozen => 3

/-- A faulted store-buffer entry as it is saved. -/
def SbEntry.words (e : SbEntry) : List (Word × Bool) :=
  [(BitVec.ofNat 64 (e.mask.toNat * 2 ^ 32 + e.asid % 2 ^ 16 * 2 ^ 16 + e.cause.toNat * 2 ^ 8 +
      (if e.reported then 2 ^ 7 else 0) + (if e.taint then 2 ^ 6 else 0)), false),
   (e.va, false), (e.pc, false), (BitVec.ofNat 64 (e.seq.toNat * 2 ^ 32 + e.step.toNat % 2 ^ 32), false)] ++
  (List.range 4).map (fun i => (e.data.extractLsb' (64 * i) 64, e.taint))

/-- The save record of the acting context: its chunks by offset. -/
def State.saveChunks (s : State) : List (Nat × List (Word × Bool)) :=
  let c := s.ctx
  let arrive := (if c.wait == .sync then 1 else 0) + (if c.wait == .gsync then 2 else 0)
  let e : Exc :=
    { code := 0, kind := kSave, ipc := c.pc, step := BitVec.ofNat 64 s.forme.k
      info0 := BitVec.ofNat 64 (c.stateCode s.tile.frozen), info1 := BitVec.ofNat 64 arrive }
  let faulted := (s.tile.sb.filter (fun x => x.ctx == s.actor.ctx && x.isFaulted)).flatMap SbEntry.words
  let lanes (v : List Lane) (t : Bool) : List (Word × Bool) := (lanePairs v).map (fun w => (w, t))
  let span (f : Span → Word) (at_ : Nat) : List (Word × Bool) :=
    (List.range 32).map (fun i => (f (vget c.spans i {}), c.csrTaint.getLsbD (at_ + i)))
  [(0x0000, c.frameWords e),
   (0x0800, (List.range 32).map (fun i => c.readX i)),
   (0x0900, (List.range 8).flatMap (fun i => lanes (vget c.o i (Vector.replicate 8 0)).toList (c.taint.o.getLsbD i))),
   (0x0A00, lanes c.lr.toList c.taint.lr),
   (0x0B00, (List.range 8).map (fun i => c.readM i)),
   (0x0B40, (List.range 4).map (fun i => (vget c.mb i 0, c.mbTaint.getLsbD i)) ++ [(c.mbstat, c.csrTaint.getLsbD 0x18)]),
   (0x0B68, [(s.taintMap 0, false), (s.taintMap 1, false)]),
   (0x0B80, (List.range 64).map (fun n => (s.csr n, c.csrTaint.getLsbD n))),
   (0x0D80, [(c.csrTaint.extractLsb' 0 64, false)]),
   (0x0E00, span Span.b 0x100 ++ span Span.l 0x120 ++ span Span.a 0x140),
   (0x1100, (faulted ++ List.replicate 256 (0, false)).take 256),
   (0x1900, List.replicate 224 (0, false)),
   (0x2000, (List.range 32).flatMap (fun i => lanes (vget c.v i (Vector.replicate 64 0)).toList (c.taint.v.getLsbD i)))]

def Forme.recordBase (f : Forme) (logical : Nat) (c : Fin 4) : Nat := f.img.savebase.toNat + 16384 * (4 * logical + c.val)

/-- The contexts of a forme, by tile in logical order. -/
def State.ctxsOf (s : State) (f : Nat) : List (Tile × Fin 4) := (s.tilesOf f).flatMap (fun t => ctx4.map (fun c => (t, c)))

/-- The records of contexts written one after another. -/
def writeRecords (f : Forme) : List (Tile × Fin 4) → State → Except AccFail Unit × State
  | [], s => (.ok (), s)
  | x :: r, s =>
    let w := ccPutChunks s f.asid (f.recordBase x.1.logical x.2) ((s.as x.1.phys x.2).saveChunks)
    match w.1 with
    | .error e => (.error e, w.2)
    | .ok _ => writeRecords f r w.2

/-- The fault record of a failed access of the control complex: ENGF with the failing address (R370, R415). -/
def AccFail.engf (e : AccFail) : Exc := { code := cENGF, tval := e.addr }
/-- The failure as a record that completes with FAULT holds it. -/
def AccFail.exc (e : AccFail) : Exc := { code := e.code, sub := e.sub, tval := e.addr }

/-- Every tile of a forme writes a STOP record: reason, and for the tile of a brk its context and code (R413). -/
def State.emitStops (s : State) (f : Forme) (reason : Nat) : State :=
  (s.tilesOf f.id).foldl (fun s t =>
    let b := f.stops.find? (fun r => !r.late && r.reason == 1 && r.tile == t.logical)
    s.emit t.phys 13 0 ([BitVec.ofNat 8 reason, BitVec.ofNat 8 ((b.map StopReq.ctx).getD 0)] ++ bytesOfNat 2 ((b.map StopReq.code).getD 0))) s

/-- Every tile of a forme closes its trace frame. -/
def State.closeFrames (s : State) (f : Forme) : State := (s.tilesOf f.id).foldl (fun s t => s.closeFrame t.phys) s

/-- What the trace of a forme shows of a halt: a fault that has not been reported yet gives each tile's STOP record reason 3
(R413), and every frame is closed (R404). -/
def State.traceHalt (s : State) (f : Forme) : State :=
  (if f.fault.isSome && !f.reported then s.emitStops f 3 else s).closeFrames f

/-- The report of a forme fault, and of the halt that it leaves where the host may resume it (R368, R387). -/
def State.reportFault (s : State) (fid : Nat) : State :=
  match s.formeAt fid with
  | none => s
  | some f =>
    match f.fault with
    | some e =>
      if f.reported then s
      else (s.formeEvent f evFormefault 0 e).modForme fid (fun g => { g with reported := true })
    | none => s

/-- The records cannot be written: the forme stands halted with its state on its tiles (R370). -/
def State.saveFails (s : State) (f : Forme) (e : AccFail) : State :=
  let s1 := ((s.formeEvent f evFormefault 0 e.engf).modForme f.id (fun g => { g with saveFailed := true })).traceHalt f
  (s1.formeRecs 5 f.id stFAULT e.exc).reportFault f.id

/-- The records are written: faulted entries are freed, and the host is told that the forme stands halted. A forme
that stops pushes its update-only lines, and the rest of the stop is to come (R414, R416). -/
def State.saveDone (s : State) (f : Forme) : State :=
  let s1 := { s with tiles := s.tiles.map (fun (t : Tile) =>
    if t.forme == f.id then { t with sb := t.sb.filter (fun e => !e.isFaulted) } else t) }
  let s2 := s1.modForme f.id (fun g => { g with saved := true })
  if f.stopping then (s.tilesOf f.id).foldl (fun s t => pushUpd s t.phys (fun _ => true)) s2
  else
    let s4 := ((s2.traceHalt f).formeRecs 5 f.id stOK).reportFault f.id
    if f.fault.isNone || f.resumable then s4.formeEvent f evFormehalt 0 else s4

/-- Every store, push and ordered sum of the forme reaches memory, and every dirty line of its ASID is written back
(R416). -/
def State.syncMemory (s : State) (f : Forme) : State :=
  let s1 := (s.ofu.filter (fun o => o.formes.contains f.id)).foldl (fun s o => foldSum s o false) s
  (s1.l2.filter (fun l => l.asid == f.asid && l.dirty)).foldl (fun s l => s.cleanL2 l) s1

/-- The last part of a stop: with no flit on a wire, the dumps are written and the forme stands stopped (R414, R415). -/
def State.finishStop (s : State) (f : Forme) : State :=
  let mine (p : Nat) : Bool := (s.tileD p).forme == f.id && (s.tileAt p).isSome
  if s.edge.any (fun e => mine e.tile) || s.holds.any (fun h => mine h.tile) then s
  else
    let s1 := s.syncMemory f
    let r := writeDumps f (s1.tilesOf f.id) s1
    let s2 := match r.1 with
      | .ok _ => r.2
      | .error e => r.2.formeEvent f evFormefault 0 e.engf
    let reason := ((f.stops.find? (fun x => !x.late)).map StopReq.reason).getD 2
    let s3 := ((s2.emitStops f reason).closeFrames f).modForme f.id (fun g =>
      { g with dumped := true, stops := (g.stops.filter StopReq.late).map (fun x => { x with late := false }) })
    ((s3.formeEvent f evFormehalt 0).formeRecs 4 f.id stOK).formeRecs 5 f.id stOK

/-- CONTEXT_SAVE: a forme that has been halted, by PREEMPT, by a fault or for a stop, is saved once its contexts have
come to rest; the parts of a stop follow in the order of R414, its queues run out and its network still, and the report of a
fault that comes later. -/
def contextSave (fid : Nat) (s : State) : State :=
  match s.formeAt fid with
  | none => s
  | some f =>
    if !f.standsHalted then s
    else if f.phase == .stopped && !f.dumped then s.finishStop f
    else if !f.saved && !f.saveFailed then
      if !s.canSave f then s
      else
        let s1 := (s.ctxsOf fid).foldl (fun s x => s.abandon x.1.phys x.2) s
        let r := writeRecords f (s1.ctxsOf fid) s1
        match r.1 with
        | .error e => r.2.saveFails f e
        | .ok _ => r.2.saveDone f
    else if f.saved && f.stopping && f.phase == .halted then
      if s.drained f then s.modForme fid (fun g => { g with phase := .stopped }) else s
    else if f.fault.isSome && !f.reported then (s.traceHalt f).reportFault fid
    else s

def execContextSave (forme : Nat) (s : State) : Out := .next (contextSave forme s)

/-! ### Restoring (R371) -/

/-- Lanes of words. -/
def lanesAt (ws : List (Word × Bool)) (off n : Nat) : List Lane := wordLanes (((ws.drop (off / 8)).take (n / 2)).map (·.1))

/-- A context with the registers, CSRs and spans of its record of 2,048 words; control state and windows follow. -/
def Ctx.fromRecord (c : Ctx) (ws : List (Word × Bool)) : Ctx :=
  let w (off : Nat) : Word := (ws.getD (off / 8) (0, false)).1
  let bit (off : Nat) : Bool := (ws.getD (off / 8) (0, false)).2
  let csr (n : Nat) : Word := w (0xB80 + 8 * n)
  let t0 := w 0xB68
  let t1 := w 0xB70
  let arr := Word.field (w 0x38) 0 2
  let code := (w 0x30).toNat
  { c with
    st := if code = 1 then .running else if code = 2 then .halted else if code = 3 then .frozen else .noThread
    gen := if c.st == .noThread && (code = 1 || code = 2 || code = 3) then c.gen + 1 else c.gen
    x := Vector.ofFn (fun i => if i.val = 0 then 0 else w (0x800 + 8 * i.val))
    o := Vector.ofFn (fun i => Vector.ofFn (fun e => (lanesAt ws (0x900 + 32 * i.val) 8).getD e.val 0))
    lr := Vector.ofFn (fun e => (lanesAt ws 0xA00 64).getD e.val 0)
    m := Vector.ofFn (fun i => w (0xB00 + 8 * i.val))
    mb := Vector.ofFn (fun i => w (0xB40 + 8 * i.val))
    mbTaint := BitVec.ofNat 4 ((List.range 4).foldl (fun a i => a + (if bit (0xB40 + 8 * i) then 2 ^ i else 0)) 0)
    mbstat := w 0xB60 &&& 0xFF
    v := Vector.ofFn (fun i => Vector.ofFn (fun e => (lanesAt ws (0x2000 + 256 * i.val) 64).getD e.val 0))
    taint := { x := t0.extractLsb' 0 32 &&& ~~~ 1#32, v := t0.extractLsb' 32 32, o := t1.extractLsb' 0 8
               lr := t1.getLsbD 8, m := t1.extractLsb' 16 8 }
    tvec := csr 1 &&& (csrFields 1).1, tfp := csr 2, uvec := csr 3 &&& (csrFields 3).1, ufp := csr 4
    udeleg := Vector.ofFn (fun i => csr (5 + i.val))
    intp := csr 8 &&& 0xFFFF, tscr := csr 0xB
    fpctl := csr 0x10 &&& 0x1F1F, qctl := csr 0x11 &&& 0x7
    mastr := csr 0x20 &&& 0xFFFFF, msstr := csr 0x21 &&& 0xFFFFF, mascl := csr 0x22 &&& 0xFFFFF, mbscl := csr 0x23 &&& 0xFFFFF
    xmc := Vector.ofFn (fun i => csr (0x30 + i.val) &&& (csrFields (0x30 + i.val)).1)
    xmst := csr 0x35 &&& 0x80000000000000FF
    csrTaint := (List.range 96).foldl (fun b i => bvSet b (0x100 + i) (bit (0xE00 + 8 * i))) (c.csrTaint &&& ~~~ (BitVec.ofNat 512 (2 ^ 64 - 1)) ||| (w 0xD80).setWidth 512)
    spans := Vector.ofFn (fun i =>
      { b := w (0xE00 + 8 * i.val) &&& 0x01FFFFFFFFFFF000, l := w (0xF00 + 8 * i.val) &&& 0x01FFFFFFFFFFF000
        a := w (0x1000 + 8 * i.val) &&& 0xFF8000000000FFFF })
    fetched := [], wins := [], loops := [], stall := none
    wait := if arr % 2 = 1 then .sync else if arr = 2 then .gsync else .nothing }

/-- The faulted entries of a record. -/
def entriesOf (s : State) (ws : List (Word × Bool)) : List SbEntry :=
  (List.range 32).filterMap (fun i =>
    let w (k : Nat) : Word := (ws.getD (0x1100 / 8 + 8 * i + k) (0, false)).1
    if Word.field (w 0) 32 32 = 0 then none
    else some
      { idx := 0, ctx := s.actor.ctx, gen := s.ctx.gen, asid := Word.field (w 0) 16 16, va := w 1 &&& ~~~ 0x1F#64
        mask := BitVec.ofNat 32 (Word.field (w 0) 32 32), data := (w 7 ++ w 6 ++ w 5 ++ w 4 : BitVec 256)
        taint := (w 0).getLsbD 6, pc := w 2, step := BitVec.ofNat 64 (Word.field (w 3) 0 32)
        seq := BitVec.ofNat 32 (Word.field (w 3) 32 32), home := s.actor.tile, dom := 0, hash := false
        st := .faulted (BitVec.ofNat 8 (Word.field (w 0) 8 8)), reported := (w 0).getLsbD 7, ord := 0 })

/-- The acting context restored from its record, whose checks have passed. -/
def State.restoreCtx (s0 : State) (ws : List (Word × Bool)) : State :=
  let s := s0.onCtx (fun c => c.fromRecord ws)
  let f := parseFrame (ws.take 224)
  match loopsIn s 0 (f.inner.toList ++ f.outer.toList) with
  | (.error _, s1) => s1
  | (.ok loops, s1) =>
    let es := entriesOf s1 ws
    let s2 := (s1.onCtx (fun c =>
      { c.restore f loops (f.status.1 &&& statusBits) with dstoreAt := if es.any (fun e => !e.reported) then some f.pc.1 else none })).onTile (fun t =>
        { t with
          synced := bvSet t.synced s.actor.ctx.val (s.ctx.wait == .sync)
          gsynced := bvSet t.gsynced s.actor.ctx.val (s.ctx.wait == .gsync) })
    let s3 := es.foldl (fun s e => s.onTile (fun t => { t with sb := t.sb ++ [{ e with idx := freeEntry t.sb }] })) s2
    f.wins.foldl (fun s r => s.reopen r) s3

/-- The checks of R362 on the acting context's record: the fault that they would raise. -/
def State.recordFault (s : State) (ws : List (Word × Bool)) : Option Exc :=
  let f := parseFrame (ws.take 224)
  match f.bad 0 with
  | some b => some { code := b.1, sub := b.2.1, tval := b.2.2 }
  | none =>
    let s1 := s.onCtx (fun c => c.fromRecord ws)
    match (loopsIn s1 0 (f.inner.toList ++ f.outer.toList)).1 with
    | .error e => some e
    | .ok _ => none

/-- The records of contexts read, one after another. -/
def readRecords (f : Forme) : List (Tile × Fin 4) → State → Except AccFail (List (Tile × Fin 4 × List (Word × Bool))) × State
  | [], s => (.ok [], s)
  | x :: r, s =>
    let y := ccWords s f.asid (f.recordBase x.1.logical x.2) 2048
    match y.1 with
    | .error e => (.error e, y.2)
    | .ok ws =>
      let z := readRecords f r y.2
      match z.1 with
      | .error e => (.error e, z.2)
      | .ok l => (.ok ((x.1, x.2, ws) :: l), z.2)

/-- A forme that RESUME may restart: halted, its save come to an end (R370: it stands halted also where its records could
not be written) and its fault, if any, reported and resumable. -/
def Forme.resumableNow (f : Forme) : Bool :=
  f.standsHalted && (f.saved || f.saveFailed) && f.resumable && (f.fault.isNone || f.reported) && (!f.stopping || f.dumped || f.saveFailed)

/-- The launches of a tile reloaded from its dump that are still to run: those that its queues hold, in their order,
then any other entry that stands pending; its queues are empty at a boundary but for these (R225, R233). -/
def Tile.requeue (t : Tile) : Tile :=
  let here := (t.held ++ t.ready).filter (fun l => match l.entry with
    | some n => (vget t.tasks n {}).pend
    | none => false)
  let other := (List.range 32).filter (fun n => (vget t.tasks n {}).pend && !here.any (fun l => l.entry == some n))
  { t with ready := [], held := here ++ other.map (fun n => { routine := (vget t.tasks n {}).routine, entry := some n }) }

/-- A forme that stood stopped begins its superstep on every tile, if one is left to run. -/
def State.startAll (s : State) (f : Nat) : State :=
  match s.formeAt f with
  | some g =>
    if g.k < g.supersteps then (s.tilesOf f).foldl (fun s t => (s.modTile t.phys Tile.requeue).startSuperstep t.phys) s else s
  | none => s

/-- The generation that a deferred fault names is no longer that of its context. -/
def State.outlived (s : State) (c : CmdFault) : Bool := ((s.tileD c.tile).ctxs[c.ctx]).gen != c.gen

/-- Deferred faults of matrix and engine commands whose context has another generation by now are forme faults (R317,
R348). -/
def State.raiseOutlived (s : State) (f : Nat) : State :=
  let kept := (s.tilesOf f).flatMap (fun t => t.mx.faults) ++ (s.engs.filter (fun x => x.forme == f)).flatMap EngCtx.faults
  let s1 := { s with
    tiles := s.tiles.map (fun (t : Tile) =>
      if t.forme == f then { t with mx := { t.mx with faults := t.mx.faults.filter (fun c => !s.outlived c) } } else t)
    engs := s.engs.map (fun x => if x.forme == f then { x with faults := x.faults.filter (fun c => !s.outlived c) } else x) }
  (kept.filter s.outlived).foldl (fun s c => s.raiseForme f c.exc true) s1

/-- A context restarts from its record. A halted context that its record gives as running has been given a new thread (R29,
R357), unless its forme goes back to an earlier dump, of which deferred faults of the later run are no part (R420). -/
def State.restart (s0 : State) (now : Bool) (p : Nat) (c : Fin 4) (ws : List (Word × Bool)) : State :=
  let s := s0.as p c
  let old := s.ctx.st
  (s.restoreCtx ws).onCtx (fun x =>
    { x with
      deferred := if now then x.deferred else []
      gen := if now && old == .halted && x.st == .running then x.gen + 1 else x.gen })

/-- The forme's contexts restart from their records, after its dumps where it stands stopped (R371, R419): its superstep is then
that of the dumps, or it has run its last (R26). The exception that a record fails with names its context in INFO0. -/
def resumeForme (f : Forme) (s : State) : Except (Nat × Exc) State × State :=
  let d := if f.phase == .stopped then readDumps f (s.tilesOf f.id) s else (.ok [], s)
  match d.1 with
  | .error e => (.error (stFAULT, e.exc), d.2)
  | .ok ds =>
    let r := readRecords f (d.2.ctxsOf f.id) d.2
    match r.1 with
    | .error e => (.error (stFAULT, e.exc), r.2)
    | .ok rs =>
      match rs.findSome? (fun x => ((r.2.as x.1.phys x.2.1).recordFault x.2.2).map (fun e =>
          { e with info0 := BitVec.ofNat 64 (4 * x.1.logical + x.2.1.val) })) with
      | some e => (.error (stBADSAVE, e), r.2)
      | none =>
        let s1 := r.2.reloadTiles f ds
        let now := ds.all (fun d => f.dumpIsNow d.2)
        let s2 := rs.foldl (fun s x => s.restart now x.1.phys x.2.1 x.2.2) s1
        let s3 := { s2 with actor := s.actor }
        let s4 := s3.modForme f.id (fun g =>
          { g with
            phase :=
              if f.phase == .stopped then (if g.supersteps ≤ g.k then .ended else .compute)
              else if g.resumeTo == .halted || g.resumeTo == .stopped then .compute
              else g.resumeTo
            saved := false, saveFailed := false, stopping := false, dumped := false, fault := none, reported := false
            resumable := true, wdog := 0 })
        (.ok ((if f.stopping then s4.startAll f.id else s4).raiseOutlived f.id), r.2)

/-! ### The watchdog (R367) -/

/-- Ticks of the watchdog period: 1.6 million to the millisecond. -/
def Forme.wdogTicks (f : Forme) : Nat :=
  let ms := Word.field f.img.modes 32 16
  (if ms = 0 then 10 else ms) * 1600000

/-- WDOG: the period has passed without progress. -/
def wdogFires (fid : Nat) (s : State) : State :=
  match s.formeAt fid with
  | some f =>
    if f.phase.runs && f.wdogTicks ≤ f.wdog then
      (s.raiseForme fid { code := cWDOG, step := BitVec.ofNat 64 f.k } true).modForme fid (fun g => { g with wdog := 0 })
    else s
  | none => s

def execWdog (forme : Nat) (s : State) : Out := .next (wdogFires forme s)

/-! ### Floating-point exceptions (R372 to R374) -/

/-- The contexts of a forme whose exception belongs to a collection window, in the order of R373. -/
def State.fpxOf (s : State) (fid : Nat) (window : Word) : List (Tile × Fin 4 × FpxPend) :=
  (s.ctxsOf fid).filterMap (fun x =>
    match (x.1.ctxs[x.2]).fpx with
    | some p => if p.window == window && (x.1.ctxs[x.2]).vbeat == 0 then some (x.1, x.2, p) else none
    | none => none)

/-- FPXINF of the named exception (R374). -/
def fpxinf (window : Word) (logical : Nat) (c : Fin 4) (p : FpxPend) : Word :=
  BitVec.ofNat 64 (window.toNat % 2 ^ 32 * 2 ^ 32 + logical * 2 ^ 20 + c.val * 2 ^ 18 + p.elem * 2 ^ 12 + p.flags.toNat * 2 ^ 7 + 1)

/-- FPXPEND: tiles on which a context other than the named one raised. -/
def fpxPend (others : List (Tile × Fin 4 × FpxPend)) : Vector Word 64 :=
  others.foldl (fun v x => vset v (x.1.logical / 64) (Word.setBit (vget v (x.1.logical / 64) 0) (x.1.logical % 64) true))
    (Vector.replicate 64 0)

/-- FPX of a context (Table 12-8, R373). -/
def FpxPend.exc (p : FpxPend) : Exc :=
  { code := cFPX, kind := kAfter, tval := BitVec.ofNat 64 p.elem, ipc := p.pc, step := p.step
    info0 := p.flags.setWidth 64, info1 := p.window }

/-- FPX_COLLECTION: a window that has ended on every die of the forme is reported in every tile, and then FPX is
delivered to every context that raised in it. -/
def fpxCollect (fid : Nat) (window : Word) (s : State) : State :=
  let l := s.fpxOf fid window
  match l with
  | [] => s
  | x :: r =>
    if (s.tilesOf fid).any (fun t => (s.die (physDie t.phys)).p.toNat / 64 ≤ window.toNat) ||
        l.any (fun y => !(y.1.ctxs[y.2.1]).settled) then s
    else
      let inf := fpxinf window x.1.logical x.2.1 x.2.2
      let pend := fpxPend r
      let s1 := { s with tiles := s.tiles.map (fun (t : Tile) =>
        if t.forme == fid then { t with fpxpc := x.2.2.pc, fpxinf := inf, fpxpend := pend } else t) }
      let s2 := l.foldl (fun s y =>
        ((s.as y.1.phys y.2.1).onCtx (fun c => { c with fpx := none })).takeFault y.2.2.exc) s1
      { s2 with actor := s.actor }

def execFpxCollection (forme : Nat) (window : Word) (s : State) : Out := .next (fpxCollect forme window s)

end Sys2Proof.Machine
end

