-- ==== Sys2Proof/Machine/Superstep.lean ====
section
/-! DEFINITION. The end of a superstep (R233 to R240): both barriers, the exchange engine, the bank swap with the start
of the next superstep or the end of the forme (R26), and the group barriers. -/

namespace Sys2Proof.Machine

/-! ### The first barrier (R233, R240) -/

/-- Every ordered-float add that a tile of the forme has sent has reached its home slice. -/
def State.ofuArrived (s : State) (f : Nat) : Bool := !s.pushes.any (fun u => u.ofu && u.forme == f)

/-- The imbalance record of arrival times by logical tile (Table 7-11): IMBA and IMBB. -/
def imbalance (ts : List (Nat × Nat)) : Word × Word :=
  let lo := (ts.map (·.2)).foldl min ((ts.map (·.2)).headD 0)
  let hi := (ts.map (·.2)).foldl max 0
  let last := ((ts.filter (fun t => t.2 == hi)).map (·.1)).foldl min (((ts.filter (fun t => t.2 == hi)).map (·.1)).headD 0)
  let sum := ts.foldl (fun a t => a + (t.2 - lo)) 0
  (BitVec.ofNat 64 lo,
    BitVec.ofNat 64 (last * 2 ^ 52 + min (2 ^ 20 - 1) (hi - lo) * 2 ^ 32 + min (2 ^ 32 - 1) sum))

/-- The exchange engine begins its walk where the tile's cell is valid (R27, R237). -/
def Exchange.begin (x : Exchange) (valid : Bool) : Exchange :=
  if valid then { x with pos := if x.list.isEmpty then none else some 0, walks := x.walks + 1 } else x

/-- FIRST_BARRIER_COMPLETE: every tile meets its condition at this moment. The ordered sums of the superstep are folded
(R153), the imbalance record is written, and the exchange phase begins. -/
def firstBarrier (fid : Nat) (s : State) : State :=
  match s.formeAt fid with
  | none => s
  | some f =>
    if f.phase != .compute || !(s.tilesOf fid).all Tile.firstCond || !s.ofuArrived fid then s
    else
      let s1 := (s.ofu.filter (fun o => o.formes.contains fid)).foldl (fun s o => foldSum s o false) s
      let imb := imbalance ((s.tilesOf fid).map (fun t => (t.logical, (t.arrival.getD (s.die (physDie t.phys)).p).toNat)))
      let s2 := { s1 with tiles := s1.tiles.map (fun (t : Tile) =>
        if t.forme == fid then { t with imba := imb.1, imbb := imb.2, xch := t.xch.begin (f.v.getLsbD t.stage) } else t) }
      let s3 := match s.logicalTile fid 0 with
        | some t => s2.emit t.phys 5 0 (bytesOf 8 imb.1 ++ bytesOf 8 imb.2)
        | none => s2
      (s3.modForme fid (fun g => { g with phase := .exchange })).progress fid

def execFirstBarrierComplete (forme : Nat) (s : State) : Out := .next (firstBarrier forme s)

/-! ### The exchange engine (R236, R237) -/

/-- The writes of an entry: window offset, first byte and length of each, at most 64 bytes and within one 64-byte
stretch of the receiver's window. -/
def pieces : Nat → Nat → Nat → Nat → List (Nat × Nat × Nat)
  | 0, _, _, _ => []
  | fuel + 1, dst, i, n =>
    if n = 0 then []
    else
      let k := min n (64 - dst % 64)
      (dst, i, k) :: pieces fuel (dst + k) (i + k) (n - k)

/-- The packets of entry n of a tile's exchange list. -/
def State.xchPackets (s : State) (t : Tile) (n num : Nat) (e : XEntry) : List Packet :=
  let dst := ((s.logicalTile t.forme e.tile).map Tile.phys).getD t.phys
  let v := t.withSeen t.xch.seen
  let bs := v.readLocal e.src e.len
  let ts := (List.range e.len).map (fun i => v.localTaint (e.src + i) 1)
  (pieces (e.len / 64 + 2) e.dst 0 e.len).map (fun x =>
    { src := t.phys, srcLog := t.logical, srcCtx := 0, srcGen := 0, dst, taint := false, step := BitVec.ofNat 64 (s.stepOf t)
      kind := .xchg x.1 ((bs.drop x.2.1).take x.2.2) num n, byteTaint := (ts.drop x.2.1).take x.2.2 })

/-- EXCHANGE_ENTRY_SEND: the next entry of a tile's list is sent; one that would read a poisoned granule freezes the
tile's core instead (R430). -/
def entrySend (p : Nat) (s : State) : State :=
  let t := s.tileD p
  match t.xch.pos with
  | none => s
  | some n =>
    match t.xch.list[n]? with
    | none => s
    | some e =>
      if (s.formeOf t).phaseNow != .exchange then s
      else if t.poisoned e.src e.len then
        if t.frozen then s else s.freezeCore p 3
      else
        let num := (t.xch.walks - 1) * t.xch.list.length + n + 1
        let ks := s.xchPackets t n num e
        { (s.modTile p (fun t =>
            { t with
              unacked := t.unacked + ks.length
              xch := { t.xch with
                pos := if n + 1 < t.xch.list.length then some (n + 1) else none
                seen := []
                inflight := t.xch.inflight ++ [(num, ks.length)] } })) with
          net := s.net ++ ks }

/-- The exchange engine reads one aligned word of its next entry before the rest: a core store to bytes that a transfer is
reading yields, word by word, the old or the new value (R237). -/
def xchWord (p off : Nat) (s : State) : State :=
  let t := s.tileD p
  match t.xch.pos.bind (fun n => t.xch.list[n]?) with
  | none => s
  | some e =>
    let reads := e.src ≤ off + 3 && off < e.src + e.len
    if (s.formeOf t).phaseNow == .exchange && off % 4 == 0 && reads && !t.poisoned off 4 && !t.xch.seen.any (fun x => x.1 == off) then
      s.modTile p (fun t => { t with xch := { t.xch with seen := t.xch.seen ++ [(off, t.readLocal off 4, t.localTaint off 4)] } })
    else s

def execExchangeEntrySend (tile : Nat) (s : State) : Out := .next (entrySend tile s)

/-- Bytes with their taint written into the shadow bank, granule by granule (R148). -/
def Tile.landBytes (t : Tile) (off : Nat) (bs : List Byte) (ts : List Bool) : Tile :=
  (List.range ((off + bs.length - 1) / 8 - off / 8 + 1)).foldl (fun t i =>
    let lo := max off (8 * (off / 8 + i))
    let hi := min (off + bs.length) (8 * (off / 8 + i) + 8)
    t.writeShadow lo ((bs.drop (lo - off)).take (hi - lo)) (((ts.drop (lo - off)).take (hi - lo)).any id)) t

/-- EXCHANGE_WRITE_LAND (R145, R237): the write lands with its records set, or is refused whole where a word races. -/
def exchangeLand (i : Nat) (s : State) : State :=
  match s.net[i]? with
  | some k =>
    match k.kind with
    | .xchg off bs num entry =>
      if !s.inOrder i k then s
      else
        let t := s.tileD k.dst
        let phase := s.phaseOf k.dst
        match t.shadowRace off bs.length k.srcLog phase with
        | some o =>
          s.ackPacket i k (some
            { code := cRACE, step := k.step, tval := BitVec.ofNat 64 (0x01FFFFFE00000000 + t.logical * 2 ^ 16 + off)
              info0 := BitVec.ofNat 64 o, info1 := BitVec.ofNat 64 entry }) (some num)
        | none =>
          (s.modTile k.dst (fun t =>
            { t.landBytes off bs k.byteTaint with
              shadow := raceSet t.shadow (wordsOf off bs.length) k.srcLog phase })).ackPacket i k none (some num)
    | _ => s
  | none => s

def execExchangeWriteLand (i : Nat) (s : State) : Out := .next (exchangeLand i s)

/-! ### The second barrier (R238) -/

/-- The second-barrier condition of a tile. -/
def Tile.secondCond (t : Tile) : Bool := t.xch.pos.isNone && t.unacked == 0

/-- Records of CHECKED lines of an ASID emptied when the superstep number k becomes a multiple of 8 (R144). -/
def State.clearRecords (s : State) (asid k : Nat) : State :=
  if k % 8 = 0 then
    { s with l2 := s.l2.map (fun l =>
        if l.asid == asid then { l with shadow := l.shadow.filter (fun r => !(k % 16 ≤ r.phase && r.phase ≤ k % 16 + 7)) } else l) }
  else s

/-- Refused exchange transfers that no tlwait has been told of are forme faults (R237). -/
def State.raiseExchange (s : State) (t : Tile) : State :=
  (t.xch.faults.foldl (fun s c => s.raiseForme t.forme c.exc true) s).modTile t.phys (fun t => { t with xch := { t.xch with faults := [] } })

/-- SECOND_BARRIER_COMPLETE: every tile meets its condition; each is to swap its banks. -/
def secondBarrier (fid : Nat) (s : State) : State :=
  match s.formeAt fid with
  | none => s
  | some f =>
    if f.phase != .exchange || !(s.tilesOf fid).all Tile.secondCond then s
    else
      let s1 := s.clearRecords f.asid (f.k + 1)
      let s2 := { s1 with tiles := s1.tiles.map (fun (t : Tile) => if t.forme == fid then { t with swapDue := true } else t) }
      let s3 := (s2.modForme fid (fun g => { g with phase := .swapping })).progress fid
      (s3.tilesOf fid).foldl (fun s t => s.raiseExchange t) s3

def execSecondBarrierComplete (forme : Nat) (s : State) : Out := .next (secondBarrier forme s)

/-! ### The bank swap (R238) -/

/-- A context that waits in sync proceeds, CTNT clear (R201). -/
def State.endSync (s : State) (p : Nat) (c : Fin 4) : State :=
  let s1 := s.as p c
  match s1.ctx.wait with
  | .sync => (s1.onCtx (fun x => x.setStat stCTNT false)).complete
  | _ => s

/-- The CNTR and SWAP records of a tile, its counters reset, and its frame closed 65,536 ticks after it opened
(R404, R409, R411). -/
def State.traceSwap (s : State) (p : Nat) : State :=
  let t := s.tileD p
  let s1 := (s.emit p 3 0 (t.counters.toList.flatMap (bytesOfNat 4 ·.toNat))).emit p 4 0 (bytesOfNat 4 (s.stepOf t))
  s1.modTile p (fun t => { t with counters := Vector.replicate 12 0, trace := { t.trace with swapDue := true } })

/-- One tile swaps its banks; its next compute phase begins, unless the forme stops here or this was its last superstep. What its
L1D has been filled with meanwhile goes, whether or not a context of the tile waits in sync: every access before the barrier
happens before every access after it (R135). -/
def State.swapTile (s0 : State) (p : Nat) : State :=
  let s := s0.modTile p (fun t =>
    { t with activeA := !t.activeA, shadow := [], synced := 0, swapDue := false, ahead := true, arrival := none })
  let s1 := ctx4.foldl (fun s c => s.endSync p c) ((s.as p 0).acquire 4)
  let s2 := { s1 with actor := s0.actor }.traceSwap p
  let f := s2.formeOf (s2.tileD p)
  if f.stopDue || f.supersteps ≤ f.k then s2 else s2.startSuperstep p

/-- The forme ends after its last superstep: its LAUNCH completes and its tiles are idle (R26, R384). Requests that
still wait on it find no forme. -/
def State.endForme (s : State) (f : Forme) : State :=
  let s1 := (s.formeEvent f evFormeend 0).dropForme f.id
  let s2 := s1.recDone f.queue f.hrec stOK
  (s2.formeRecs 4 f.id stNOFORME).formeRecs 5 f.id stNOFORME

/-- Every tile of the forme has swapped: the forme halts for a stop, also at the boundary of its last superstep, has run to its
end, or stands in its next superstep (R26, R413, log entry 28). -/
def State.nextSuperstep (s : State) (f : Forme) : State :=
  let s1 := { s with tiles := s.tiles.map (fun (t : Tile) => if t.forme == f.id then { t with ahead := false } else t) }
  s1.modForme f.id (fun g =>
    let h := { g with
      k := f.k + 1, v := shiftV f.v (f.k + 1) f.b, phase := if f.supersteps ≤ f.k + 1 then .ended else .compute }
    if f.stopDue then { h with phase := .halted, resumeTo := h.phase, stopping := true, dumped := false, saved := false, saveFailed := false }
    else { h with stops := h.stops.map (fun r => { r with late := false }) })

/-- BANK_SWAP: a tile that has the signal swaps; the last of its forme brings the next superstep. -/
def bankSwap (p : Nat) (s : State) : State :=
  let t := s.tileD p
  match s.formeAt t.forme with
  | none => s
  | some f =>
    if f.phase != .swapping || !t.swapDue then s
    else
      let s1 := (s.swapTile p).progress f.id
      if s1.tiles.any (fun u => u.forme == f.id && u.swapDue) then s1
      else match s1.formeAt f.id with
        | some g => s1.nextSuperstep g
        | none => s1

def execBankSwap (tile : Nat) (s : State) : Out := .next (bankSwap tile s)

/-! ### Group barriers (R239) -/

/-- The tiles of a block of a forme. -/
def State.blockTiles (s : State) (fid b : Nat) : List Tile := s.tiles.filter (fun t => t.forme == fid && t.block == some b)

/-- A context that waits in gsync proceeds. -/
def State.endGsync (s : State) (p : Nat) (c : Fin 4) : State :=
  let s1 := s.as p c
  match s1.ctx.wait with
  | .gsync => (s1.acquire 4).complete
  | _ => s

/-- GROUP_BARRIER_COMPLETE: every context of GSMASK of every tile of the block has executed gsync, which is progress of the
forme (R367). A block without such contexts has no barrier. -/
def groupBarrier (fid b : Nat) (s : State) : State :=
  let ts := s.blockTiles fid b
  let run := match s.formeAt fid with
    | some f => f.phase.runs
    | none => false
  if !run || !ts.all (fun t => t.gsMask &&& ~~~t.gsynced == 0) || ts.all (fun t => t.gsynced == 0) then s
  else
    let s1 := { s with tiles := s.tiles.map (fun (t : Tile) => if t.forme == fid && t.block == some b then { t with gsynced := 0 } else t) }
    let s2 := ts.foldl (fun s t => ctx4.foldl (fun s c => s.endGsync t.phys c) s) s1
    { s2 with actor := s.actor }.progress fid

def execGroupBarrierComplete (forme block : Nat) (s : State) : Out := .next (groupBarrier forme block s)

end Sys2Proof.Machine
end

