-- ==== Sys2Proof/Machine/Queue.lean ====
section
/-! DEFINITION. The submission queues (R381 to R386): doorbells, fetching and checking of records, acceptance in turn,
start and destruction of queues. -/

namespace Sys2Proof.Machine

/-- The control complex serves the host: the package is ready (Table 13-1, R377). -/
def State.serves (s : State) : Bool := s.host.dstate == 1

/-! ### A broken queue (R382, R386) -/

/-- A queue breaks: HQERR and a RECERR event name the status and the record; what it has accepted runs on. -/
def State.breakQueue (s : State) (q status : Nat) (e : Exc) (forme : Nat) (user : Word) : State :=
  let x := s.queue q
  let s1 := s.modQueue q (fun x =>
    { x with st := 2, fetched := none, closing := true, err := BitVec.ofNat 64 (status * 2 ^ 56 + x.head.toNat) })
  (s1.event (eventWords evRecerr status forme q x.head.toNat e user)).settleQueue q

/-! ### Fetching (R381, R382) -/

/-- A queue fetches: it is enabled and not broken. -/
def HQueue.active (q : HQueue) : Bool := q.en && q.st == 1

/-- Records written and not yet accepted, modulo 2^32. -/
def HQueue.waiting (q : HQueue) : Nat := (q.tail - q.head).toNat

/-- Address of record index i. -/
def HQueue.recAddr (q : HQueue) (i : Nat) : Nat := q.base.toNat + 256 * (i % 2 ^ q.log2n)

/-- The 256 bytes of record HEAD, or the failure. -/
def State.recBytes (s : State) (q : HQueue) : Except Exc (List Byte) × State :=
  let a := q.recAddr q.head.toNat
  if q.loc then
    let r := ccRead (fuelOf 256) s q.asid a 256 []
    match r.1 with
    | .error e => (.error { code := cENGF, tval := e.addr }, r.2)
    | .ok bs => (.ok (bs.map (·.1)), r.2)
  else if s.hostBad a 256 then (.error { code := 0 }, s)
  else (.ok (s.readHost a 256), s)

/-- The bits of body word i (10 to 29) that a kind of record uses (Table 13-3). -/
def bodyMask (opc i : Nat) : Word :=
  match opc, i with
  | 1, 10 => 0xFFFF01FF
  | 1, 11 | 1, 12 => BitVec.allOnes 64
  | 2, 10 => 0xFF
  | 3, 10 => 0x80003F3FFFFFFFFF
  | 3, 11 => 0xFFFFFFFF
  | 4, 10 | 5, 10 | 6, 10 | 7, 10 => 0xFF00
  | 8, 10 => 0xFFFF0001
  | 8, 11 | 8, 12 | 8, 13 => BitVec.allOnes 64
  | 9, 10 | 9, 11 | 9, 12 => BitVec.allOnes 64
  | 11, 10 => 0x73FFFFF00
  | _, _ => 0

/-- Wait k of a record: in use, queue, value. -/
def HRec.wait (r : HRec) (k : Nat) : Option (Nat × Word) :=
  if (r.w (2 + 2 * k)).getLsbD 63 then some (Word.field (r.w (2 + 2 * k)) 0 6, r.w (3 + 2 * k)) else none
def HRec.waits (r : HRec) : List (Nat × Word) := (List.range 4).filterMap r.wait

/-- Why a record is rejected: BADREC or BADOPC (R382, R383, R384). -/
def recordBad (q : Nat) (x : HQueue) (bs : List Byte) (r : HRec) : Option Nat :=
  let h := r.w 0
  if Word.field h 48 16 ≠ 0x4C52 || Word.field h 0 32 ≠ x.head.toNat || (r.w 31).toNat / 2 ^ 32 ≠ (crc32c (bs.take 252)).toNat then
    some stBADREC
  else if r.opc = 0 || 11 < r.opc then some stBADOPC
  else if Word.field h 32 8 ≠ 0 || Word.field (r.w 31) 0 32 ≠ 0 ||
      (List.range 4).any (fun k => Word.field (r.w (2 + 2 * k)) 6 57 != 0) ||
      (List.range 20).any (fun i => r.w (10 + i) &&& ~~~ (bodyMask r.opc (10 + i)) != 0) then some stBADREC
  else if (r.w 1).toNat < x.lastVal.toNat then some stBADREC
  else if r.waits.any (fun w => w.1 == q && x.lastVal.toNat < w.2.toNat) then some stBADREC
  else none

/-- The record that 256 bytes hold. -/
def recOf (bs : List Byte) (index : Nat) : HRec :=
  { words := Vector.ofFn (fun i => wordOf ((bs.drop (8 * i.val)).take 8)), index, started := false, effect := false, complete := false }

/-- RECORD_FETCH: record HEAD is read and checked; the queue breaks where its tail lies outside the ring, or the record
cannot be read or is rejected. -/
def recordFetch (q : Nat) (s : State) : State :=
  let x := s.queue q
  if !s.serves || !x.active || x.fetched.isSome || x.waiting = 0 then s
  else if 2 ^ x.log2n < x.waiting then s.breakQueue q stBADTAIL { code := 0 } 0 0
  else
    let r := s.recBytes x
    match r.1 with
    | .error e => r.2.breakQueue q stFETCH e 0 0
    | .ok bs =>
      let rc := recOf bs (x.starts * 2 ^ 32 + x.head.toNat)
      match recordBad q x bs rc with
      | some st => r.2.breakQueue q st { code := 0 } rc.forme rc.user
      | none => r.2.modQueue q (fun y => { y with fetched := some rc })

def execRecordFetch (queue : Nat) (s : State) : Out := .next (recordFetch queue s)

/-! ### Acceptance (R384) -/

/-- A LAUNCH that has been accepted and not checked yet: no forme has come of it. -/
def State.unchecked (s : State) (q : Nat) (r : HRec) : Bool :=
  r.opc == 3 && !r.effect && !s.formes.any (fun f => f.queue == q && f.hrec == r.index)

/-- A record can be accepted: its predecessor has taken effect and its waits are met; a LAUNCH, where the package accepts
launches and no earlier one is still to be checked (R377, R395). -/
def State.acceptable (s : State) (q : Nat) : Bool :=
  let x := s.queue q
  match x.fetched with
  | none => false
  | some r =>
    s.serves && x.accepted.all (fun p => p.effect || !x.owns p) &&
    r.waits.all (fun w => w.2.toNat ≤ (s.queue w.1).done.toNat) &&
    (r.opc != 3 || !(List.range 64).any (fun p => (s.queue p).accepted.any (s.unchecked p)))

/-- The generation that the context named by an INTR holds (R358). -/
def State.intrGen (s : State) (r : HRec) : Nat :=
  match s.logicalTile r.forme (Word.field (r.w 10) 16 12) with
  | some t => (t.ctxs[ctxNum (Word.field (r.w 10) 28 2)]).gen.toNat
  | none => 0

/-- RECORD_ACCEPT: the control complex takes one record from each queue in turn, in ascending number. -/
def recordAccept (q : Nat) (s : State) : State :=
  let order := (List.range 64).map (fun i => (s.host.turn + i) % 64)
  if order.find? s.acceptable != some q then s
  else
    match (s.queue q).fetched with
    | none => s
    | some r =>
      let s1 := s.modQueue q (fun x =>
        { x with fetched := none, accepted := x.accepted ++ [{ r with gen := s.intrGen r }], head := x.head + 1, lastVal := r.w 1 })
      { s1 with host := { s1.host with turn := (q + 1) % 64 } }

def execRecordAccept (queue : Nat) (s : State) : Out := .next (recordAccept queue s)

/-! ### Doorbells (R381) -/

/-- The tail word of a queue in HBM is read. -/
def readTailWord (q : Nat) (s : State) : State :=
  let x := s.queue q
  if !x.active || !x.loc then s
  else
    let r := ccWords s x.asid x.tailva.toNat 1
    match r.1 with
    | .error e => r.2.breakQueue q stFETCH { code := cENGF, tval := e.addr } 0 0
    | .ok ws => r.2.modQueue q (fun y => { y with tail := ((ws.headD (0, false)).1).setWidth 32 })

/-- HQTAIL_WRITE. -/
def hqtailWrite (q : Nat) (val : Word) (s : State) : State :=
  readTailWord q (s.modQueue q (fun x => { x with tail := val.setWidth 32 }))

def execHqtailWrite (queue : Nat) (val : Word) (s : State) : Out := .next (hqtailWrite queue val s)

/-- TAILWORD_POLL. -/
def execTailwordPoll (queue : Nat) (s : State) : Out := .next (if s.serves then readTailWord queue s else s)

/-! ### Start and destruction (R381, R385) -/

/-- QUEUE_ENABLE: HQCFG written while EN = 0; with EN it starts the queue. What it had accepted before runs on (R385,
R386, log entry 29). -/
def queueEnable (q : Nat) (cfg : Word) (s : State) : State :=
  if (s.queue q).en then s
  else
    let s1 := s.modQueue q (fun x =>
      { x with loc := cfg.getLsbD 62, log2n := Word.field cfg 40 8, vec := Word.field cfg 32 6, asid := Word.field cfg 0 16 })
    if cfg.getLsbD 63 then
      s1.modQueue q (fun x =>
        { x with
          en := true, st := 1, head := 0, tail := 0, done := 0, fetched := none, lastVal := 0, closing := false
          starts := x.starts + 1, accepted := x.accepted.filter (fun r => !r.complete) })
    else s1

def execQueueEnable (queue : Nat) (cfg : Word) (s : State) : Out := .next (queueEnable queue cfg s)

/-- QUEUE_DESTROY: EN := 0. What is not accepted is dropped and counted; the rest runs on (log entry 29). -/
def queueDestroy (q : Nat) (s : State) : State :=
  let x := s.queue q
  if !x.en then s
  else
    let s1 := s.modQueue q (fun y => { y with en := false, st := 0, closing := true, fetched := none })
    (s1.event (eventWords evCancelled stCANCELLED 0 q x.waiting { code := 0 } 0)).settleQueue q

def execQueueDestroy (queue : Nat) (s : State) : Out := .next (queueDestroy queue s)

end Sys2Proof.Machine
end

