-- ==== Sys2Proof/Machine/Launch.lean ====
section
/-! DEFINITION. REGISTER and UNREGISTER (R394), LAUNCH with its checks (R392, R395, R396), and make-ready (R19, R29, R338,
R397, R427). -/

namespace Sys2Proof.Machine

/-! ### REGISTER and UNREGISTER -/

/-- The image of a handle. -/
def State.imageAt (s : State) (h : Nat) : Option Image := (s.images.find? (fun x => x.1 == h)).map (·.2)

/-- n bytes that a record names: host memory or HBM through an ASID, each with its taint. -/
def State.recordBytes (s : State) (loc : Bool) (asid a n : Nat) : Except AccFail (List (Byte × Bool)) × State :=
  if loc then ccRead (fuelOf n) s asid a n []
  else if n != 0 && s.hostBad a n then (.error { code := 0, sub := 0, addr := BitVec.ofNat 64 a }, s)
  else (.ok (s.readHostT a n), s)

/-- Up to four numbers of 12 bits in one word, each with bit 15 of its quarter set (log entry 15). -/
def packNums (l : List Nat) : Word :=
  BitVec.ofNat 64 ((l.take 4).zipIdx.foldl (fun a x => a + (x.1 % 2 ^ 12 + 2 ^ 15) * 2 ^ (16 * x.2)) 0)

/-- A record completes refused for its image: the event names the tiles, the word indices and the tick of the model run (R173,
R204), in INFO0, INFO1 and TVAL (log entry 15). -/
def State.refuseImage (s : State) (q index : Nat) (e : ImgFail) : State :=
  s.recDone q index e.status
    { code := e.code, sub := e.sub, tval := BitVec.ofNat 64 e.tick, info0 := packNums e.tiles, info1 := packNums e.words }

/-- The failure of a model run. -/
def RunFail.img (e : RunFail) : ImgFail :=
  { status := stIMAGE, code := cROUTEBAL, sub := e.sub, tiles := e.tiles, words := e.words, tick := e.tick }

/-- REGISTER: the image is copied and checked; a failed one is not registered. -/
def register (q : Nat) (s : State) : State :=
  match s.pendingRec q 1 with
  | none => s
  | some r =>
    let h := Word.field (r.w 10) 0 8
    if (s.imageAt h).isSome then s.recDone q r.index stEXISTS
    else
      let b := s.recordBytes ((r.w 10).getLsbD 8) (Word.field (r.w 10) 16 16) (r.w 11).toNat (r.w 12).toNat
      match b.1 with
      | .error e => b.2.recDone q r.index stFAULT e.exc
      | .ok bs =>
        match parseImage (bs.map (·.1)) s.host.featmask with
        | .error e => b.2.refuseImage q r.index e
        | .ok img =>
          match modelRun { img, x0 := 0, y0 := 0, b := none } with
          | some e => b.2.refuseImage q r.index e.img
          | none => ({ b.2 with images := b.2.images ++ [(h, img)] }).recDone q r.index stOK

def execRegister (queue : Nat) (s : State) : Out := .next (register queue s)

/-- UNREGISTER: formes launched from the image run on. -/
def unregister (q : Nat) (s : State) : State :=
  match s.pendingRec q 2 with
  | none => s
  | some r =>
    let h := Word.field (r.w 10) 0 8
    if (s.imageAt h).isNone then s.recDone q r.index stNOHANDLE
    else ({ s with images := s.images.filter (fun x => x.1 != h) }).recDone q r.index stOK

def execUnregister (queue : Nat) (s : State) : Out := .next (unregister queue s)

/-! ### LAUNCH -/

/-- The physical tile of a logical tile of a forme at (x0, y0). -/
def physOf (img : Image) (x0 y0 n : Nat) : Nat :=
  let p := positionOf img.w img.h n
  physAt (x0 + p % img.w) (y0 + p / img.w)

/-- The forme that a LAUNCH record asks for. -/
def launchForme (q : Nat) (r : HRec) (img : Image) : Forme :=
  { id := r.forme, asid := Word.field (r.w 10) 16 16, x0 := Word.field (r.w 10) 32 6, y0 := Word.field (r.w 10) 40 6
    img, b := Word.field (r.w 11) 0 32, queue := q, hrec := r.index, maxStage := img.stages - 1 }

/-- The physical tiles of a forme, by logical number. -/
def Forme.physTiles (f : Forme) : List Nat := (List.range f.count).map (physOf f.img f.x0 f.y0)

/-- The sizes that the modes give meet LMAIN and LEXCH. -/
def Forme.sizesMet (f : Forme) : Bool := f.img.lmain ≤ f.mainSize / 1024 && f.img.lexch ≤ f.winSize / 1024

/-- The rectangle lies within the package and overlaps no forme. -/
def State.placeFree (s : State) (f : Forme) : Bool :=
  f.x0 + f.img.w ≤ 64 && f.y0 + f.img.h ≤ 64 && f.physTiles.all (fun p => (s.tileAt p).isNone)

/-- A bound engine context or stream port of the image belongs to another forme. -/
def State.boundElsewhere (s : State) (f : Forme) : Bool :=
  f.img.engines.any (fun e => s.engs.any (fun x => x.eng == e.1 && x.ctx == e.2) ||
    s.formes.any (fun g => g.phase == .making && g.img.engines.contains e)) ||
  f.img.streams.any (fun e => s.streams.any (fun x => x.tile == physOf f.img f.x0 f.y0 e.tile && x.side == e.side))

/-- Every stream port of the image lies on an outer die edge. -/
def Forme.portsOuter (f : Forme) : Bool :=
  f.img.streams.all (fun e => (neighbour (physOf f.img f.x0 f.y0 e.tile) e.side).isNone)

/-- The copies of LOADCODE, in order: CODE, then the DATA entries of kind span (R396). -/
def Forme.codeCopies (f : Forme) : List (Nat × List Byte) :=
  (f.img.codeva.toNat, f.img.code) ::
  f.img.data.filterMap (fun d => d.span.map (fun n => (((f.img.spans.getD n {}).b).toNat + d.off, d.bytes)))

/-- Copies made at the home slices and written back to HBM, up to the first that fails. -/
def loadCode (asid : Nat) : List (Nat × List Byte) → State → Except AccFail Unit × State
  | [], s => (.ok (), s)
  | c :: cs, s =>
    let r := ccWrite (fuelOf c.2.length) s asid c.1 (c.2.map (fun b => (b, false)))
    match r.1 with
    | .error e => (.error e, r.2)
    | .ok _ => loadCode asid cs (r.2.cleanRange asid c.1 c.2.length)

/-- The generation that a context holds, or held when its tile was last given up (R29). -/
def State.genOf (s : State) (p : Nat) (c : Fin 4) : BitVec 8 :=
  ((s.gens.find? (fun g => g.1 == p && g.2.1 == c)).map (·.2.2)).getD 0

/-- A tile claimed for a forme: what its local store kept, nothing else (R425). -/
def State.claimTile (s : State) (f : Forme) (n : Nat) : Tile :=
  let p := physOf f.img f.x0 f.y0 n
  { ((s.idle.find? (fun t => t.phys == p)).getD { phys := p }) with
    forme := f.id, logical := n, ctxs := Vector.ofFn (fun c => { gen := s.genOf p c }) }

/-- The forme's tiles belong to it and are held in reset; its make-ready is to come. -/
def State.claim (s : State) (f : Forme) : State :=
  let ps := f.physTiles
  { s with
    formes := s.formes ++ [f]
    tiles := s.tiles ++ (List.range f.count).map (s.claimTile f)
    idle := s.idle.filter (fun t => !ps.contains t.phys) }

/-- The forme of a LAUNCH of a queue that has run its last superstep, and whose queued commands have run to completion (R349):
it ends now. -/
def State.launchEnds (s : State) (q : Nat) : Option Forme := s.formes.find? (fun f => f.queue == q && f.phase == .ended && s.drained f)

/-- LAUNCH: a forme of the queue that has run to its end is given up; else the checks of R395 in their order; then the forme is to be made ready. Where the spec names no fault code for
a physical part that does not fit, the event's is free (log entry 15). -/
def launch (q : Nat) (s : State) : State :=
  match s.launchEnds q with
  | some f => s.endForme f
  | none =>
  match s.pendingRec q 3 with
  | none => s
  | some r =>
    if !s.unchecked q r then s
    else match s.imageAt (Word.field (r.w 10) 0 8) with
      | none => s.recDone q r.index stNOHANDLE
      | some img =>
        let f := launchForme q r img
        if f.b = 0 then s.recDone q r.index stRANGE
        else if (s.formeAt f.id).isSome then s.recDone q r.index stEXISTS
        else if !f.sizesMet then s.recDone q r.index stCOLOPHON
        else if !s.placeFree f then s.recDone q r.index stOVERLAP
        else if !f.portsOuter then
          (s.recDone q r.index stIMAGE { code := (s.drawn 0).setWidth 8, sub := (s.drawn 1).setWidth 8 }).spend 2
        else if s.boundElsewhere f then s.recDone q r.index stBUSY
        else match modelRun { img, x0 := f.x0, y0 := f.y0, b := some f.b } with
          | some e => s.refuseImage q r.index e.img
          | none =>
            if (r.w 10).getLsbD 63 then
              let c := loadCode f.asid f.codeCopies s
              match c.1 with
              | .error e => c.2.recDone q r.index stFAULT e.exc
              | .ok _ => c.2.claim f
            else s.claim f

def execLaunch (queue : Nat) (s : State) : Out := .next (launch queue s)

/-! ### Make-ready (R397) -/

/-- What a write names is a context of a generation. -/
def namesCtx (p : Nat) (c : Fin 4) (g : BitVec 8) : Option (Nat × Option Nat × Nat) → Bool
  | some (tile, ctx, gen) => tile == p && gen == g.toNat && ctx.all (· == c.val)
  | none => false

/-- Nothing that names a context with a generation is outstanding: no write that carries it, as its sender's or its target's,
stands unperformed or unacknowledged, no page request and no queued command names it (R29). -/
def State.genFree (s : State) (p : Nat) (c : Fin 4) (g : BitVec 8) : Bool :=
  !(s.net ++ s.tiles.flatMap Tile.injq).any (fun k => (k.src == p && k.srcCtx == c && k.srcGen == g) || namesCtx p c g k.names) &&
  !s.acks.any (fun a => (a.dst == p && a.ctx == c && a.gen == g) || namesCtx p c g a.names) &&
  !(s.tileD p).mx.queue.any (fun m => m.ctx == c && Word.field m.word0 32 8 == g.toNat) &&
  !s.ctls.toList.any (fun k => k.slots.any (fun x => x.waiters.contains (p, c.val, g.toNat))) &&
  !s.engs.any (fun x => (x.queue ++ x.fired ++ x.finished.map (·.1)).any (fun m => m.tile == p && m.ctx == c && m.gen == g))

/-- Every page of a stream window is mapped to contiguous frames by NORMAL leaves of HBM with UC = 0 (R338). -/
def State.windowOk (s : State) (asid : Nat) (w : StreamWin) : Bool :=
  !w.v || (List.range w.pages).all (fun i =>
    let va := (w.vbase + i) * 4096
    match s.leafAt asid va with
    | some l =>
      leafST l.entry == 0 && leafKIND l.entry == 0 && !leafUC l.entry &&
      leafPN l.entry * 4096 + (va - l.va) == (w.pbase + i) * 4096
    | none => false)

/-- Tokens placed on a die by all formes (Table 15-2). -/
def State.placed (s : State) (d : Nat) : Nat :=
  s.formes.foldl (fun a f => a + (f.tokens.filter (fun k => k.1 == d)).length + (f.withdrawn.filter (· == d)).length) 0

/-- The effective token count of a forme on a die (R427). -/
def State.tokenCount (s : State) (f : Forme) (d : Nat) : Nat :=
  let c := (s.formeClusters f.id d).length
  let t := Word.field f.img.modes 56 8
  let e := min (if t = 0 then c else t) c
  let cap := (s.die d).cap.toNat
  if cap = 0 then e else min e (max 1 (cap - s.placed d))

/-- The forme's tokens at its lowest-numbered clusters of each die. -/
def State.placeTokens (s : State) (f : Forme) : List (Nat × Nat) :=
  (List.range 4).flatMap (fun d =>
    if (s.formeClusters f.id d).isEmpty then [] else (List.range (s.tokenCount f d)).map (fun i => (d, i)))

/-- A context at make-ready: everything at reset but its spans, its CTXINIT record and its raised generation (R350). -/
def makeCtx (f : Forme) (gen : BitVec 8) (n : Nat) (c : Fin 4) : Ctx :=
  let r := f.img.ctxinit.getD (4 * n + c.val) []
  let w (i : Nat) : Word := r.getD i 0
  { gen := gen + 1
    status := (if f.img.modes.getLsbD 53 then 1#64 <<< stWINCHK else 0) ||| (w 5 &&& (1#64 <<< stIE))
    tvec := w 0, tfp := w 1, udeleg := #v[w 2, w 3, w 4], uvec := w 6, ufp := w 7
    spans := Vector.ofFn (fun i => f.img.spans.getD i.val {}) }

/-- A tile after steps 3 to 5 and 7 of Table 13-9. -/
def State.makeTile (s : State) (f : Forme) (fs : List Fabric) (t : Tile) : Tile :=
  let r := f.img.tiles.getD t.logical
    { stage := 0, disp := 0, bar := 0, gs := 0, block := none, period := 1, list := [], xlist := [], prog := [], gal := [] }
  { t with
    ctxs := Vector.ofFn (fun c => makeCtx f (s.genOf t.phys c) t.logical c)
    sw := loadSwitch r.prog
    fab := fs.getD (positionOf f.img.w f.img.h t.logical) {}
    xch := { list := r.xlist }
    gal := Vector.ofFn (fun i => { cfg := r.gal.getD i.val 0 &&& 0xE0F000000007F000 })
    stage := r.stage, dispMask := r.disp, barMask := r.bar, gsMask := r.gs, block := r.block, period := r.period
    list := r.list, doms := s.hashdom }

/-- The DATA entries of kind local that concern a tile, in order (step 6). -/
def Forme.loadLocal (f : Forme) (t : Tile) : Tile :=
  f.img.data.foldl (fun t d =>
    if d.span.isNone && d.first ≤ t.logical && t.logical ≤ d.last then t.writeLocal d.off d.bytes false else t) t

/-- The stream ports and engine contexts of a forme, bound to it. -/
def State.bind (s : State) (f : Forme) : State :=
  let e (x : Nat × Nat) : EngCtx :=
    { eng := x.1, ctx := x.2, forme := f.id, queue := [], enq := 0, tl := 0, finished := [], ahead := []
      nodes := Vector.replicate 16 {}, fired := [], faults := [], frozen := false }
  { s with
    engs := s.engs ++ f.img.engines.map e
    streams := s.streams ++ f.img.streams.map (fun x => { tile := physOf f.img f.x0 f.y0 x.tile, side := x.side, wins := x.wins }) }

/-- Make-ready proper, and superstep 0 released on every tile at once. -/
def State.made (s : State) (f : Forme) : State :=
  let fs := (layout f.img true).toOption.getD []
  let s1 := { s with
    tiles := s.tiles.map (fun (t : Tile) => if t.forme == f.id then f.loadLocal (s.makeTile f fs t) else t)
    domTaint := 0 }
  let s2 := (s1.bind f).modForme f.id (fun g =>
    { g with k := 0, v := shiftV 0 0 f.b, phase := .compute, tokens := s1.placeTokens f })
  ((s2.tilesOf f.id).foldl (fun s t => s.startSuperstep t.phys) s2).recEffect f.queue f.hrec

/-- MAKE_READY: once nothing outstanding names a generation that its contexts take (R29), and not after FATAL (R377). A stream
window that fails its check fails the LAUNCH with WINF. -/
def makeReady (fid : Nat) (s : State) : State :=
  match s.formeAt fid with
  | none => s
  | some f =>
    let mine := s.tiles.filter (fun t => t.forme == fid)
    if f.phase != .making || s.fatal.isSome || !mine.all (fun t => ctx4.all (fun c => s.genFree t.phys c (s.genOf t.phys c + 1))) then s
    else if !f.img.streams.all (fun e => e.wins.all (s.windowOk f.asid)) then
      (s.dropForme fid).recDone f.queue f.hrec stIMAGE { code := cWINF }
    else s.made f

def execMakeReady (forme : Nat) (s : State) : Out := .next (makeReady forme s)

end Sys2Proof.Machine
end

