-- ==== Sys2Proof/Machine/Host.lean ====
section
/-! DEFINITION. The other records (R383): STOP, PREEMPT, RESUME, KILL, COPY, MAPCMD, NOP, INTR; the BAR registers (R380,
R426, R433), attestation (R436) and the Function Level Reset (R379). -/

namespace Sys2Proof.Machine

/-! ### Records about formes -/

/-- The state after a forme is halted mid-superstep by PREEMPT (R369). -/
def State.haltForme (s : State) (fid : Nat) : State :=
  s.modForme fid (fun g => { g with resumeTo := g.phase, phase := .halted, saved := false, saveFailed := false })

/-- STOP: effect when the forme stands stopped at a boundary; on a forme halted mid-superstep a request is recorded and
the record completes. -/
def stopRecord (q : Nat) (s : State) : State :=
  match s.pendingRec q 4 with
  | none => s
  | some r =>
    match s.formeAt r.forme with
    | none => s.recDone q r.index stNOFORME
    | some f =>
      if f.phase == .making || r.started then s
      else if f.phase == .stopped && f.dumped then s.recDone q r.index stOK
      else if f.stopping then s
      else if f.phase == .halted then (s.askStop f.id 2 0 0 0).recDone q r.index stOK
      else (s.askStop f.id 2 0 0 0).modRec q r.index (fun r => { r with started := true })

def execStop (queue : Nat) (s : State) : Out := .next (stopRecord queue s)

/-- PREEMPT: effect when the forme is halted and saved, at once where it is already; records that an earlier halt left
unwritten are written first. -/
def preempt (q : Nat) (s : State) : State :=
  match s.pendingRec q 5 with
  | none => s
  | some r =>
    match s.formeAt r.forme with
    | none => s.recDone q r.index stNOFORME
    | some f =>
      if f.phase == .making then s
      else if f.phase.runs then s.haltForme f.id
      else if f.saved && (!f.stopping || f.dumped) then s.recDone q r.index stOK
      else if f.saveFailed then s.modForme f.id (fun g => { g with saveFailed := false })
      else s

def execPreempt (queue : Nat) (s : State) : Out := .next (preempt queue s)

/-- Nothing outstanding names a generation that a context without a thread, or one that is halted, would take at a restart
(R29). -/
def State.restartFree (s : State) (f : Forme) : Bool :=
  (s.ctxsOf f.id).all (fun x => ((x.1.ctxs[x.2]).st != .noThread && (x.1.ctxs[x.2]).st != .halted) || s.genFree x.1.phys x.2 ((x.1.ctxs[x.2]).gen + 1))

/-- RESUME (R371, R419). A forme that stood stopped after its last superstep then has run to its end (R26). -/
def resumeRecord (q : Nat) (s : State) : State :=
  match s.pendingRec q 6 with
  | none => s
  | some r =>
    match s.formeAt r.forme with
    | none => s.recDone q r.index stNOFORME
    | some f =>
      if !f.resumableNow then s.recDone q r.index stNOFORME
      else if !s.restartFree f then s
      else
        let x := resumeForme f s
        match x.1 with
        | .error e => x.2.recDone q r.index e.1 e.2
        | .ok t => t.recDone q r.index stOK

def execResume (queue : Nat) (s : State) : Out := .next (resumeRecord queue s)

/-- A forme killed: its LAUNCH completes, and other records that wait on it find no forme. -/
def State.killForme (s : State) (f : Forme) : State :=
  let s1 := (s.dropForme f.id).recDone f.queue f.hrec stOK
  (s1.formeRecs 4 f.id stNOFORME).formeRecs 5 f.id stNOFORME

/-- KILL. -/
def killRecord (q : Nat) (s : State) : State :=
  match s.pendingRec q 7 with
  | none => s
  | some r =>
    match s.formeAt r.forme with
    | none => s.recDone q r.index stNOFORME
    | some f => if f.phase == .making then s else (s.killForme f).recDone q r.index stOK

def execKill (queue : Nat) (s : State) : Out := .next (killRecord queue s)

/-! ### COPY, MAPCMD, NOP, INTR -/

/-- COPY: bytes between host and device memory, through the home slices, written back to HBM. -/
def copyRecord (q : Nat) (s : State) : State :=
  match s.pendingRec q 8 with
  | none => s
  | some r =>
    let asid := Word.field (r.w 10) 16 16
    let h := (r.w 11).toNat
    let va := (r.w 12).toNat
    let n := (r.w 13).toNat
    if n = 0 || 2 ^ 32 < n then s.recDone q r.index stRANGE
    else if (r.w 10).getLsbD 0 then
      let b := ccRead (fuelOf n) s asid va n []
      match b.1 with
      | .error e => b.2.recDone q r.index stFAULT e.exc
      | .ok bs => ((b.2.writeHostT h bs).cleanRange asid va n).recDone q r.index stOK
    else if s.hostBad h n then s.recDone q r.index stFAULT { code := 0, tval := BitVec.ofNat 64 h }
    else
      let w := ccWrite (fuelOf n) s asid va (s.readHostT h n)
      match w.1 with
      | .error e => w.2.recDone q r.index stFAULT e.exc
      | .ok _ => (w.2.cleanRange asid va n).recDone q r.index stOK

def execCopy (queue : Nat) (s : State) : Out := .next (copyRecord queue s)

/-- MAPCMD: the command of XMC0 to XMC2 is applied; a failure's event holds XMST.CODE in INFO0 (log entry 23). -/
def mapcmd (q : Nat) (s : State) : State :=
  match s.pendingRec q 9 with
  | none => s
  | some r =>
    let x := applyMap #v[r.w 10, r.w 11, r.w 12, 0] s
    if x.1 = mOK then x.2.2.recDone q r.index stOK
    else x.2.2.recDone q r.index stMAPFAIL { code := 0, info0 := BitVec.ofNat 64 x.1 }

def execMapcmd (queue : Nat) (s : State) : Out := .next (mapcmd queue s)

/-- NOP. -/
def nopRecord (q : Nat) (s : State) : State :=
  match s.pendingRec q 10 with
  | none => s
  | some r => s.recDone q r.index stOK

def execNopRecord (queue : Nat) (s : State) : Out := .next (nopRecord queue s)

/-- The control complex as the source of a packet: no physical tile has this number. -/
def complexSrc : Nat := 4096

/-- The interrupt packet of a queue is still in the network. -/
def State.intrPending (s : State) (q : Nat) : Bool := s.net.any (fun k => k.src == complexSrc && k.srcLog == q)

/-- INTR: an interrupt packet is sent to a context; the record completes when it has been performed or dead-lettered. -/
def intrRecord (q : Nat) (s : State) : State :=
  match s.pendingRec q 11 with
  | none => s
  | some r =>
    if r.started then (if s.intrPending q then s else s.recDone q r.index stOK)
    else
      let n := Word.field (r.w 10) 16 12
      let c := ctxNum (Word.field (r.w 10) 28 2)
      match s.formeAt r.forme with
      | none => s.recDone q r.index stNOFORME
      | some f =>
        if f.count ≤ n then s.recDone q r.index stRANGE
        else if f.phase == .making then s
        else match s.logicalTile f.id n with
          | none => s
          | some t =>
            let k : Packet :=
              { src := complexSrc, srcLog := q, srcCtx := 0, srcGen := 0, dst := t.phys, taint := false
                step := BitVec.ofNat 64 (s.stepOf t)
                kind := .intr c.val (Word.field (r.w 10) 32 3) r.gen, byteTaint := [] }
            ({ s with net := s.net ++ [k] }).modRec q r.index (fun r => { r with started := true })

def execIntr (queue : Nat) (s : State) : Out := .next (intrRecord queue s)

/-! ### Attestation (R436) -/

/-- DEVINFO (Table 13-1). -/
def devinfo : Word := BitVec.ofNat 64 (0x4D584B34 * 2 ^ 32 + 4 * 2 ^ 24 + Config.stepping.toNat * 2 ^ 16)

/-- The report of Table 15-4 up to its signature. -/
def State.reportBody (s : State) : List Byte :=
  bytesOfNat 4 0x4B415454 ++ bytesOfNat 4 1 ++ bytesOf 8 devinfo ++ bytesOf 8 featBits ++
  bytesOfNat 8 s.host.rollback.toNat ++ s.firmware.boot.digest ++ s.firmware.control.digest ++ s.host.nonce.toList.flatMap (bytesOf 8)

/-- The identity key's ECDSA signature over the SHA-384 digest of the report. The secret number of a signature is free: six
words drawn, brought into 1 to the group order less one. -/
def State.attestSign (s : State) (report : List Byte) : Nat × Nat :=
  let k := (List.range 6).foldl (fun a i => 2 ^ 64 * a + (s.drawn i).toNat) 0 % (curveN - 1) + 1
  ecdsaSign s.fuses.identity k (sha384 report)

/-- ATTGO: ATTST is cleared and, where the package is ready, firmware writes the report and sets it. -/
def attgo (s : State) : State :=
  let s1 := { s with host := { s.host with attst := false } }
  if !s.serves then s1
  else
    let b := s.reportBody
    let g := s.attestSign b
    let s2 := (s1.spend 6).writeHost s.host.attaddr.toNat (b ++ bigEndian 48 g.1 ++ bigEndian 48 g.2)
    { s2 with host := { s2.host with attst := true } }

def execAttgo (s : State) : Out := .next (attgo s)

/-! ### The BAR registers (R380, Table 13-1, Table 15-2, R433) -/

/-- A ring's CFG as written: EN, LOG2N and VEC; OVF, of the event ring, clears where written 1. -/
def DevRing.setCfg (r : DevRing) (v : Word) : DevRing :=
  { r with en := v.getLsbD 63, ovf := r.ovf && !v.getLsbD 62, log2n := Word.field v 40 8, vec := Word.field v 0 6 }

/-- The events that the control complex holds are dropped where the event ring is disabled (R387). -/
def State.dropHeld (s : State) : State :=
  if s.host.ev.en || s.host.held.isEmpty then s
  else { s with host := { s.host with held := [], ev := { s.host.ev with ovf := true } } }

/-- A write of a register of queue q. Fields other than TAIL are written only while EN = 0. -/
def hqWrite (q reg : Nat) (v : Word) (s : State) : State :=
  let free := !(s.queue q).en
  match reg with
  | 0x00 => if free then s.modQueue q (fun x => { x with base := v &&& ~~~ 0xFFF#64 }) else s
  | 0x08 => if free then queueEnable q v s else if v.getLsbD 63 then s else queueDestroy q s
  | 0x10 => hqtailWrite q v s
  | 0x30 => if free then s.modQueue q (fun x => { x with tailva := v }) else s
  | _ => s

/-- A 64-bit write at an offset of the BAR. What no table lists, and what is read-only, ignores it. -/
def barWrite (off : Nat) (v : Word) (s : State) : State :=
  let h := s.host
  if off = 0x10 then { s with host := { h with featmask := v } }
  else if off = 0x18 then { s with host := { h with pkgcfg := v &&& 0xFFFFF } }
  else if 0x40 ≤ off && off < 0x60 && off % 8 = 0 then s.modDie ((off - 0x40) / 8) (fun d => { d with cap := v.setWidth 8 })
  else if off = 0x60 then
    { s with host := { h with errCorr := h.errCorr &&& ~~~ (v.extractLsb' 32 32), errPoison := h.errPoison &&& ~~~ (v.extractLsb' 0 32) } }
  else if off = 0x1000 then { s with host := { h with ev := { h.ev with base := v } } }
  else if off = 0x1008 then ({ s with host := { h with ev := h.ev.setCfg v } }).dropHeld
  else if off = 0x1018 then { s with host := { h with ev := { h.ev with head := v.setWidth 32 } } }
  else if off = 0x1020 then { s with host := { h with pr := { h.pr with base := v } } }
  else if off = 0x1028 then { s with host := { h with pr := h.pr.setCfg v } }
  else if off = 0x1038 then { s with host := { h with pr := { h.pr with head := v.setWidth 32 } } }
  else if off = 0x2000 then attgo s
  else if off = 0x2008 then { s with host := { h with attaddr := v } }
  else if 0x2010 ≤ off && off < 0x2030 && off % 8 = 0 then { s with host := { h with nonce := vset h.nonce ((off - 0x2010) / 8) v } }
  else if 0x10000 ≤ off && off < 0x11000 then hqWrite ((off - 0x10000) / 64) (off % 64) v s
  else if 0x80000 ≤ off && off < 0x80400 && off % 8 = 0 then
    let n := (off - 0x80000) / 16
    let e := s.msixEnt n
    s.putMsix n (if off % 16 = 0 then { e with addr := v } else { e with data := v.setWidth 32, mask := v.getLsbD 32 })
  else s

/-- The data word and the vector control word of an MSI-X entry. -/
def MsixEnt.ctl (e : MsixEnt) : Word := BitVec.ofNat 64 (e.data.toNat + (if e.mask then 2 ^ 32 else 0))

/-- A 32-bit write at an offset of the BAR: of the MSI-X table it writes one word; every register ignores it (R380). -/
def barWrite32 (off : Nat) (v : Lane) (s : State) : State :=
  if 0x80000 ≤ off && off < 0x80400 && off % 4 = 0 then
    let n := (off - 0x80000) / 16
    let e := s.msixEnt n
    s.putMsix n (match off % 16 with
      | 0 => { e with addr := Word.setField e.addr 0 32 v.toNat }
      | 4 => { e with addr := Word.setField e.addr 32 32 v.toNat }
      | 8 => { e with data := v }
      | _ => { e with mask := v.getLsbD 0 })
  else s

/-- BAR_REGISTER_WRITE. -/
def execBarRegisterWrite (off : Nat) (val : Word) (s : State) : Out := .next (barWrite off val s)

/-- HQCFG as read. -/
def HQueue.cfg (q : HQueue) : Word :=
  BitVec.ofNat 64 ((if q.en then 2 ^ 63 else 0) + (if q.loc then 2 ^ 62 else 0) + q.st % 4 * 2 ^ 60 + q.log2n % 2 ^ 8 * 2 ^ 40 +
    q.vec % 2 ^ 6 * 2 ^ 32 + q.asid % 2 ^ 16)

/-- A ring's CFG as read. -/
def DevRing.cfg (r : DevRing) : Word :=
  BitVec.ofNat 64 ((if r.en then 2 ^ 63 else 0) + (if r.ovf then 2 ^ 62 else 0) + r.log2n % 2 ^ 8 * 2 ^ 40 + r.vec % 2 ^ 6)

/-- PWR[d] as read (Table 15-2). -/
def State.pwr (s : State) (d : Nat) : Word :=
  let x := s.die d
  BitVec.ofNat 64 ((if x.throt then 2 ^ 63 else 0) + x.temp.toNat * 2 ^ 32 + s.placed d % 2 ^ 8 * 2 ^ 24 + x.cap.toNat)

/-- A 64-bit read at an offset of the BAR, of which there is no step: the host sees it. -/
def State.barRead (s : State) (off : Nat) : Word :=
  let h := s.host
  if off = 0x0 then devinfo
  else if off = 0x8 then featBits
  else if off = 0x10 then h.featmask
  else if off = 0x18 then h.pkgcfg
  else if off = 0x20 then BitVec.ofNat 64 h.dstate
  else if 0x40 ≤ off && off < 0x60 && off % 8 = 0 then s.pwr ((off - 0x40) / 8)
  else if off = 0x60 then BitVec.ofNat 64 (h.errCorr.toNat * 2 ^ 32 + h.errPoison.toNat)
  else if off = 0x1000 then h.ev.base
  else if off = 0x1008 then h.ev.cfg
  else if off = 0x1010 then h.ev.tail.setWidth 64
  else if off = 0x1018 then h.ev.head.setWidth 64
  else if off = 0x1020 then h.pr.base
  else if off = 0x1028 then h.pr.cfg
  else if off = 0x1030 then h.pr.tail.setWidth 64
  else if off = 0x1038 then h.pr.head.setWidth 64
  else if off = 0x2008 then h.attaddr
  else if 0x2010 ≤ off && off < 0x2030 && off % 8 = 0 then vget h.nonce ((off - 0x2010) / 8) 0
  else if off = 0x2030 then (if h.attst then 1 else 0)
  else if 0x10000 ≤ off && off < 0x11000 then
    let q := s.queue ((off - 0x10000) / 64)
    match off % 64 with
    | 0x00 => q.base
    | 0x08 => q.cfg
    | 0x10 => q.tail.setWidth 64
    | 0x18 => q.head.setWidth 64
    | 0x20 => q.done
    | 0x28 => q.err
    | 0x30 => q.tailva
    | _ => 0
  else if 0x80000 ≤ off && off < 0x80400 && off % 8 = 0 then
    let e := s.msixEnt ((off - 0x80000) / 16)
    if off % 16 = 0 then e.addr else e.ctl
  else if off = 0x88000 then h.msixPend
  else 0

/-- A 32-bit read at an offset of the BAR: 0, but for the MSI-X table and the pending-bit array (R380). -/
def State.barRead32 (s : State) (off : Nat) : Lane :=
  if (0x80000 ≤ off && off < 0x80400 || 0x88000 ≤ off && off < 0x88008) && off % 4 = 0 then
    (s.barRead (off / 8 * 8)).extractLsb' (8 * (off % 8)) 32
  else 0

/-! ### Function Level Reset (R379) -/

/-- FUNCTION_LEVEL_RESET: every forme is killed, every ring and queue disabled; images and page tables stay. -/
def functionReset (s : State) : State :=
  let s1 := s.formes.foldl (fun s f => s.killForme f) s
  let h := s1.host
  let s2 := ({ s1 with host := { h with ev := { h.ev with en := false }, pr := { h.pr with en := false } } }).dropHeld
  (List.range 64).foldl (fun s q => queueDestroy q s) s2

def execFunctionLevelReset (s : State) : Out := .next (functionReset s)

end Sys2Proof.Machine
end

