-- ==== Sys2Proof/Machine/Package.lean ====
section
/-! DEFINITION. The package around the tiles: bring-up (R424, R435), the tick of a die with package-aligned time (R192,
R193), the counters of R411, thermal states (R426 to R429), errors and scrubbing (R430 to R433), and the FATAL path (R377,
R378). -/

namespace Sys2Proof.Machine

/-! ### Bring-up -/

/-- The boot ROM accepts both firmware images (R435). -/
def State.fwAccepted (s : State) : Bool :=
  s.firmware.boot.accepted s.fuses s.firmware.rootKey s.host.rollback &&
  s.firmware.control.accepted s.fuses s.firmware.rootKey s.host.rollback

/-- A power cycle: everything at its reset value but the fuses, the host's own memory, the firmware images and the
model's own fields. -/
def State.powerCycle (s : State) : State :=
  { State.reset with
    hostMem := s.hostMem, fuses := s.fuses, firmware := s.firmware, free := s.free, moves := s.moves
    host := { State.reset.host with rollback := s.host.rollback } }

/-- POWER_ON: bring-up begins where the firmware is accepted. Where the package has had power already it has been powered off
in full before: a power cycle, and the staggered start again (R424, R425). -/
def powerOn (s0 : State) : State :=
  let s := if s0.railsCut || s0.fatal.isSome || s0.powered then s0.powerCycle else s0
  if s.powered || !s.fwAccepted then s else { s with powered := true }

def execPowerOn (s : State) : Out := .next (powerOn s)

/-- Every die has finished its ramp: package reset is released. -/
def State.released (s : State) : Bool := s.dies.toList.all (fun d => d.ramped == 64)

/-- CLUSTER_RAMP: a die brings up its next cluster; after the last of all, the tick counts start and DSTATE is 1. -/
def clusterRamp (d : Nat) (s : State) : State :=
  if !s.powered || 4 ≤ d || 64 ≤ (s.die d).ramped then s
  else
    let s1 := s.modDie d (fun x => { x with ramped := x.ramped + 1 })
    if s1.released then { s1 with host := { s1.host with dstate := 1 } } else s1

def execClusterRamp (die : Nat) (s : State) : Out := .next (clusterRamp die s)

/-- ROLLBACK_COUNTER_RAISE: the counter never falls. -/
def execRollbackCounterRaise (val : Lane) (s : State) : Out :=
  .next (if s.serves && s.host.rollback.toNat < val.toNat then { s with host := { s.host with rollback := val } } else s)

/-! ### Counters (R411) -/

/-- The cause that a context charges a tick to: none where it does not wait, some none where the table names no counter
for what it waits on. -/
def Ctx.cause (c : Ctx) (dispatch : Bool) : Option (Option Nat) :=
  match c.st with
  | .noThread => if dispatch then some (some 3) else none
  | .running =>
    match c.wait with
    | .nothing | .raceOk =>
      match c.waited with
      | some .port => some (some 1)
      | some .mem => some (some 2)
      | some .commit => some (some 2)
      | some .sync => some (some 3)
      | some .engine => some (some 4)
      | some .msg => some (some 5)
      | some .muldiv => some (some 6)
      | some .near => some (some 2)
      | some .matrix => some (some 4)
      | none => none
    | .recv _ _ => some (some 5)
    | .sync | .gsync => some (some 3)
    | .atomic _ _ | .race _ | .range _ _ _ _ _ | .taintRead _ _ | .fence _ | .flush => some (some 2)
    | .tlrd _ _ => some (some 4)
    | .wfi => none
    | .tkal _ _ _ _ | .mapping | .hashdom _ _ | .fpx => some none
  | _ => none

/-- The contexts in ring order after the last one that issued. -/
def Tile.ringOrder (t : Tile) : List (Fin 4) := [1, 2, 3, 4].map (fun i => ctxNum (t.issuing.val + i))

/-- A context could issue: it has a thread, runs and waits for nothing. -/
def Ctx.couldIssue (c : Ctx) : Bool := c.st == .running && c.wait.open && c.waited.isNone

/-- The counter 0 to 7 that a tick of a tile is charged to; a free one where the rule names none (log entry 3). -/
def Tile.charge (t : Tile) (runs : Bool) (free : Word) : Nat :=
  if t.issued || t.bubble != 0 then 0
  else if t.frozen || !runs then 7
  else
    match t.ringOrder.findSome? (fun c => (t.ctxs[c]).cause (t.dispMask.getLsbD c.val)) with
    | some (some i) => i
    | some none => free.toNat % 8
    | none => if t.ctxs.toList.any Ctx.couldIssue then 0 else 7

/-- A 32-bit counter raised by 1, saturating. -/
def satLane (x : Lane) : Lane := if x == BitVec.allOnes 32 then x else x + 1

/-- A tile's counters after a tick (Table 14-2): the core's cause, the switch, the matrix unit. -/
def State.countTick (s : State) (t : Tile) : Vector Lane 12 :=
  let bump (v : Vector Lane 12) (i : Nat) (on : Bool) : Vector Lane 12 := if on then vset v i (satLane (vget v i 0)) else v
  let v0 := bump t.counters (t.charge (s.formeOf t).phase.runs (s.drawn 0)) true
  let v1 := bump (bump v0 8 t.swFired) 9 (!t.swFired && !t.sw.halted)
  bump (bump v1 10 (!t.mx.queue.isEmpty && !s.tokenWait t)) 11 (s.tokenWait t)

/-- A tile after a tick of its die: alignment interval (R199), counters, TOKWAIT (R320), the burst's idle ticks. -/
def State.tickTile (s : State) (t : Tile) : Tile :=
  { t with
    alignCtr := min (2 ^ 32 - 1) (t.alignCtr + 1)
    counters := s.countTick t
    mxstat := if s.tokenWait t then mxCount t.mxstat 32 else t.mxstat
    mx := { t.mx with idleTicks := if t.mx.bursting then t.mx.idleTicks + 1 else t.mx.idleTicks }
    bubble := if t.issued then t.bubble else t.bubble - 1
    issued := false, swFired := false }

/-! ### Ticks (R192, R193) -/

/-- An update of a die is due: to be sent (every 64 ticks), or to arrive (24 ticks after it was sent). -/
def State.sendDue (s : State) (d : Nat) : Bool := (s.die d).l.toNat % 64 == 0 && (s.die d).l != (s.die d).lastSend
def State.arrives (s : State) (u : TickUpd) : Bool := u.l.toNat + 24 ≤ (s.die u.src).l.toNat

/-- The die's counts after a tick: each estimate rises by 1, or is P_e + 24 where an update arrives in this tick, and then
P is moved (R193). -/
def Die.tick (d : Die) : Die :=
  let l := d.l + 1
  let est := d.est.map (fun e => match d.updates.find? (fun u => u.1 == e.1) with
    | some u => (e.1, u.2 + 24)
    | none => (e.1, e.2 + 1))
  let m := (est.map (fun e => e.2.toNat)).foldl min l.toNat
  { d with l, est, updates := [], p := if d.p.toNat < m then d.p + 1 else d.p, cool := if d.temp.toNat < 95 then d.cool + 1 else 0 }

/-- The die of a forme's logical tile 0, whose ticks its watchdog counts. -/
def Forme.clockDie (f : Forme) : Nat := physDie (physAt f.x0 f.y0)

/-- LOCAL_TICK: once package reset is released, and with no update of the die due, its counts rise. -/
def localTick (d : Nat) (s : State) : State :=
  if 4 ≤ d || !s.released || s.sendDue d || s.ticks.any (fun u => u.src == d && s.arrives u) then s
  else
    let s1 := { (s.modDie d Die.tick) with
      tiles := s.tiles.map (fun (t : Tile) => if physDie t.phys == d && s.formes.any (fun (f : Forme) => f.id == t.forme && f.phase != FormePhase.making) then s.tickTile t else t)
      formes := s.formes.map (fun (f : Forme) => if f.phase.runs && f.clockDie == d then { f with wdog := f.wdog + 1 } else f) }
    s1.spend 1

def execLocalTick (die : Nat) (s : State) : Out := .next (localTick die s)

/-- TICK_UPDATE_SEND: L and P cross each shared edge. -/
def tickSend (d : Nat) (s : State) : State :=
  if 4 ≤ d || !s.sendDue d then s
  else
    let x := s.die d
    { (s.modDie d (fun y => { y with lastSend := y.l })) with
      ticks := s.ticks ++ x.est.map (fun e => { src := d, dst := e.1, l := x.l, p := x.p }) }

def execTickUpdateSend (die : Nat) (s : State) : Out := .next (tickSend die s)

/-- TICK_UPDATE_ARRIVE: the update takes its place in the receiving die's next tick, E := P_e + 24 there. -/
def tickArrive (i : Nat) (s : State) : State :=
  match s.ticks[i]? with
  | none => s
  | some u =>
    if !s.arrives u then s
    else ({ s with ticks := ldel s.ticks i }).modDie u.dst (fun y =>
      { y with updates := (u.src, u.p) :: y.updates.filter (fun e => e.1 != u.src) })

def execTickUpdateArrive (i : Nat) (s : State) : Out := .next (tickArrive i s)

/-! ### Temperature (R428, R429) -/

/-- THERMAL_THROTTLE. -/
def thermalThrottle (d : Nat) (s : State) : State :=
  if 4 ≤ d || (s.die d).throt || (s.die d).temp.toNat < 100 then s else s.modDie d (fun x => { x with throt := true, cool := 0 })

def execThermalThrottle (die : Nat) (s : State) : Out := .next (thermalThrottle die s)

/-- n tokens enter at the lowest clusters of a die that hold none. -/
def reenter (d cs : Nat) (ts : List (Nat × Nat)) (n : Nat) : List (Nat × Nat) :=
  ts ++ (((List.range cs).filter (fun i => !ts.contains (d, i))).take n).map (fun i => (d, i))

/-- THROTTLE_CLEAR: after 1 ms below 95 °C, 1.6 million ticks. -/
def throttleClear (d : Nat) (s : State) : State :=
  if 4 ≤ d || !(s.die d).throt || (s.die d).cool < 1600000 || 95 ≤ (s.die d).temp.toNat then s
  else
    let s1 := s.modDie d (fun x => { x with throt := false })
    { s1 with formes := s1.formes.map (fun (f : Forme) =>
        { f with
          tokens := reenter d (s.formeClusters f.id d).length f.tokens (f.withdrawn.filter (· == d)).length
          withdrawn := f.withdrawn.filter (· != d) }) }

def execThrottleClear (die : Nat) (s : State) : Out := .next (throttleClear die s)

/-! ### FATAL (R377, R378) -/

/-- Free bytes, by draw. -/
def freeBytes (draw n : Nat) : List Byte := (List.range n).map (Config.freeByte draw)

/-- The crash image (Table 12-13): header, error records, forme table, log. What the spec does not give, the lengths and
contents of the records and of the log and the state words, is free (log entry 15). -/
def State.crashImage (s : State) (e : Exc) (die unit : Nat) : List Byte :=
  let recs := freeBytes s.free ((s.drawn 0).toNat % 2 ^ 16)
  let log := freeBytes (s.free + 1) ((s.drawn 1).toNat % 2 ^ 16)
  let table := s.formes.zipIdx.flatMap (fun f => bytesOf 8 f.1.img.savebase ++ bytesOf 8 (s.drawn (2 + f.2)))
  let o1 := 64 + recs.length
  let o2 := o1 + table.length
  bytesOfNat 4 0x4B435253 ++ bytesOfNat 4 1 ++ bytesOf 8 (e.cause &&& 0xFFFF000000000000) ++ bytesOf 8 (s.die 0).p ++
  bytesOfNat 8 (die % 16 * 2 ^ 12 + unit % 2 ^ 12) ++ bytesOfNat 8 64 ++ bytesOfNat 8 o1 ++ bytesOfNat 8 o2 ++
  bytesOfNat 8 (o2 + log.length) ++ recs ++ table ++ log

/-- A FATAL error: every forme halts, the crash image is written, the host is told, and no launch is accepted until
reset. The cause record's other fields are free. -/
def State.fatalError (s : State) (sub : BitVec 8) (die unit : Nat) : State :=
  if s.fatal.isSome then s
  else
    let n := 2 + s.formes.length
    let e : Exc :=
      { code := cFATAL, sub, tval := s.drawn n, info0 := s.drawn (n + 1), info1 := s.drawn (n + 2), ipc := s.drawn (n + 3), step := s.drawn (n + 4) }
    let img := s.crashImage e die unit
    let s1 := s.formes.foldl (fun s f => if f.phase.runs then s.haltForme f.id else s) s
    let s2 := { s1 with crash := img, hbm := Memory.write s1.hbm Config.crashBase img, host := { s1.host with dstate := 2 } }
    { (s2.event (eventWords evFatal 0 0 0 0 e 0)).spend (n + 5) with fatal := some e }

/-- THERMAL_FATAL: at 110 °C FATAL with subcode THERM; at 115 °C before that the rails are cut. -/
def thermalFatal (d : Nat) (s : State) : State :=
  if 4 ≤ d || s.fatal.isSome || s.railsCut then s
  else if 115 ≤ (s.die d).temp.toNat then { s with railsCut := true }
  else if 110 ≤ (s.die d).temp.toNat then s.fatalError 1 d 0
  else s

def execThermalFatal (die : Nat) (s : State) : Out := .next (thermalFatal die s)

/-! ### Errors (R430 to R433) -/

/-- A count of ERRCNT raised by 1. -/
def State.countPoison (s : State) : State := { s with host := { s.host with errPoison := satLane s.host.errPoison } }
def State.countCorrected (s : State) : State := { s with host := { s.host with errCorr := satLane s.host.errCorr } }

/-- The local store of a tile changed, of a forme's tile or of an idle one (R425). -/
def State.modStore (s : State) (p : Nat) (f : Tile → Tile) : State :=
  if (s.tileAt p).isSome then s.modTile p f
  else if s.idle.any (fun t => t.phys == p) then { s with idle := s.idle.map (fun t => if t.phys == p then f t else t) }
  else { s with idle := s.idle ++ [f { phys := p }] }

/-- Copy i of the L1D of a tile changed. -/
def State.modL1D (s : State) (p i : Nat) (f : L1Line → L1Line) : State :=
  s.modTile p (fun t => { t with l1d := t.l1d.zipIdx.map (fun x => if x.2 == i then f x.1 else x.1) })

/-- A granule of storage that holds data is poisoned; a corrected error is counted. -/
def State.dataError (s : State) (x : ErrSite) : State :=
  match x with
  | .local p g => (s.modStore p (fun t => { t with poison := TaintSet.add t.poison g })).countPoison
  | .l1d p i g => (s.modL1D p i (fun l => { l with poison := bvSet l.poison (g % 8) true })).countPoison
  | .l2 i g =>
    match s.l2[i]? with
    | some l => (s.putL2 { l with poison := bvSet l.poison (g % 8) true }).countPoison
    | none => s
  | .hbm g => ({ s with hbmPoison := TaintSet.add s.hbmPoison g }).countPoison
  | .corrected => s.countCorrected
  | _ => s

/-- The writer that a shadow record with an uncorrectable error names: no tile of a forme, so that any access races with it
(Table 15-3, log entry 37). -/
def errWriter : Nat := 4096

/-- The taint bit of a register of a context, or of an accumulator of its tile, set to 1. -/
def State.taintReg (s : State) (p : Nat) (c : Fin 4) (r : RegSite) : State :=
  let reg (f : RegTaint → RegTaint) : State := s.modCtx p c (fun x => { x with taint := f x.taint })
  match r with
  | .x n => reg (fun t => { t with x := bvSet t.x n (n != 0) })
  | .v n => reg (fun t => { t with v := bvSet t.v n true })
  | .o n => reg (fun t => { t with o := bvSet t.o n true })
  | .lr => reg (fun t => { t with lr := true })
  | .m n => reg (fun t => { t with m := bvSet t.m n true })
  | .a n => s.modTile p (fun t => { t with mx := { t.mx with accTaint := bvSet t.mx.accTaint n true } })
  | .csr n => { (s.as p c).setCsrBit n true with actor := s.actor }

/-- UNCORRECTABLE_ERROR (Table 15-3): poison; a freeze of the core or engine context; a taint bit or shadow record that
sets 1, so that it marks its word as another tile's of this phase; FATAL. -/
def uncorrectable (x : ErrSite) (s : State) : State :=
  match x with
  | .core p => if (s.tileD p).frozen || (s.tileAt p).isNone then s else s.freezeCore p 3
  | .engine e c =>
    match s.engAt e c with
    | some y => if y.frozen then s else s.poisonEngine y
    | none => s
  | .shadow p w => s.modTile p (fun t => { t with shadow := raceSet t.shadow [w] errWriter (s.phaseOf p) })
  | .l2Shadow i w =>
    match s.l2[i]? with
    | some l =>
      let k := ((s.formes.find? (fun f => f.asid == l.asid)).map Forme.k).getD 0
      s.putL2 { l with shadow := raceSet l.shadow [w] errWriter (k % 16) }
    | none => s
  | .l1Taint p i g => s.modL1D p i (fun l => { l with taint := bvSet l.taint (g % 8) true })
  | .l2Taint i g =>
    match s.l2[i]? with
    | some l => s.putL2 { l with taint := bvSet l.taint (g % 8) true }
    | none => s
  | .hbmTaint k => { s with hbmTaint := TaintSet.add s.hbmTaint k }
  | .regTaint p c r => s.taintReg p (ctxNum c) r
  | .localTaint p g =>
    s.modStore p (fun t =>
      if g < 0x10000 then { t with mainTaint := TaintSet.add t.mainTaint g }
      else if g < 0x12000 then { t with bankATaint := TaintSet.add t.bankATaint (g - 0x10000) }
      else { t with bankBTaint := TaintSet.add t.bankBTaint (g - 0x12000) })
  | .fatal d u => s.fatalError 0 d u
  | y => s.dataError y

def execUncorrectableError (site : ErrSite) (s : State) : Out := .next (uncorrectable site s)

/-- SCRUB: what it finds is corrected or poisoned; no value and no taint changes. -/
def execScrub (found : List ErrSite) (s : State) : Out := .next (found.foldl State.dataError s)

/-- LINK_DOWN (R432). -/
def execLinkDown (port : Nat) (s : State) : Out := .next { s with linkDown := bvSet s.linkDown port true }

end Sys2Proof.Machine
end

