-- ==== Sys2Proof/Machine/Dispatch.lean ====
section
/-! DEFINITION. The one match from an instruction, a route word or an event to its meaning. -/

namespace Sys2Proof.Machine

def exec (i : Instr) (s : State) : Host.Outcome State Fault Refusal :=
  match i with
  | .add d a b => Sys2Proof.Machine.execAdd d a b s
  | .sub d a b => Sys2Proof.Machine.execSub d a b s
  | .and d a b => Sys2Proof.Machine.execAnd d a b s
  | .or d a b => Sys2Proof.Machine.execOr d a b s
  | .xor d a b => Sys2Proof.Machine.execXor d a b s
  | .andn d a b => Sys2Proof.Machine.execAndn d a b s
  | .orn d a b => Sys2Proof.Machine.execOrn d a b s
  | .sll d a b => Sys2Proof.Machine.execSll d a b s
  | .srl d a b => Sys2Proof.Machine.execSrl d a b s
  | .sra d a b => Sys2Proof.Machine.execSra d a b s
  | .slt d a b => Sys2Proof.Machine.execSlt d a b s
  | .sltn d a b => Sys2Proof.Machine.execSltn d a b s
  | .min d a b => Sys2Proof.Machine.execMin d a b s
  | .max d a b => Sys2Proof.Machine.execMax d a b s
  | .minn d a b => Sys2Proof.Machine.execMinn d a b s
  | .maxn d a b => Sys2Proof.Machine.execMaxn d a b s
  | .clz d a => Sys2Proof.Machine.execClz d a s
  | .ctz d a => Sys2Proof.Machine.execCtz d a s
  | .popc d a => Sys2Proof.Machine.execPopc d a s
  | .bswap d a => Sys2Proof.Machine.execBswap d a s
  | .addw d a b => Sys2Proof.Machine.execAddw d a b s
  | .subw d a b => Sys2Proof.Machine.execSubw d a b s
  | .sllw d a b => Sys2Proof.Machine.execSllw d a b s
  | .srlw d a b => Sys2Proof.Machine.execSrlw d a b s
  | .sraw d a b => Sys2Proof.Machine.execSraw d a b s
  | .czero d a b => Sys2Proof.Machine.execCzero d a b s
  | .addi d a xi => Sys2Proof.Machine.execAddi d a xi s
  | .andi d a xi => Sys2Proof.Machine.execAndi d a xi s
  | .ori d a xi => Sys2Proof.Machine.execOri d a xi s
  | .xori d a xi => Sys2Proof.Machine.execXori d a xi s
  | .slti d a xi => Sys2Proof.Machine.execSlti d a xi s
  | .sltni d a xi => Sys2Proof.Machine.execSltni d a xi s
  | .addiw d a xi => Sys2Proof.Machine.execAddiw d a xi s
  | .slli d a xs => Sys2Proof.Machine.execSlli d a xs s
  | .srli d a xs => Sys2Proof.Machine.execSrli d a xs s
  | .srai d a xs => Sys2Proof.Machine.execSrai d a xs s
  | .lui d xi => Sys2Proof.Machine.execLui d xi s
  | .adpc d xi => Sys2Proof.Machine.execAdpc d xi s
  | .mul d a b l => Sys2Proof.Machine.execMul d a b l s
  | .mulh d a b l => Sys2Proof.Machine.execMulh d a b l s
  | .mulhn d a b l => Sys2Proof.Machine.execMulhn d a b l s
  | .mulhsn d a b l => Sys2Proof.Machine.execMulhsn d a b l s
  | .div d a b l => Sys2Proof.Machine.execDiv d a b l s
  | .divn d a b l => Sys2Proof.Machine.execDivn d a b l s
  | .rem d a b l => Sys2Proof.Machine.execRem d a b l s
  | .remn d a b l => Sys2Proof.Machine.execRemn d a b l s
  | .mulw d a b l => Sys2Proof.Machine.execMulw d a b l s
  | .divw d a b l => Sys2Proof.Machine.execDivw d a b l s
  | .divnw d a b l => Sys2Proof.Machine.execDivnw d a b l s
  | .beq a b o => Sys2Proof.Machine.execBeq a b o s
  | .bne a b o => Sys2Proof.Machine.execBne a b o s
  | .blt a b o => Sys2Proof.Machine.execBlt a b o s
  | .bge a b o => Sys2Proof.Machine.execBge a b o s
  | .bltn a b o => Sys2Proof.Machine.execBltn a b o s
  | .bgen a b o => Sys2Proof.Machine.execBgen a b o s
  | .jal d o => Sys2Proof.Machine.execJal d o s
  | .jalr d a xi => Sys2Proof.Machine.execJalr d a xi s
  | .loopC h a l => Sys2Proof.Machine.execLoopC h a l s
  | .loopM xi a xs => Sys2Proof.Machine.execLoopM xi a xs s
  | .lbrk a => Sys2Proof.Machine.execLbrk a s
  | .lctx d xs => Sys2Proof.Machine.execLctx d xs s
  | .ld d a l z xi => Sys2Proof.Machine.execLd d a l z xi s
  | .ldx d a b l z h => Sys2Proof.Machine.execLdx d a b l z h s
  | .st xs a z xi => Sys2Proof.Machine.execSt xs a z xi s
  | .stx xs a b z h => Sys2Proof.Machine.execStx xs a b z h s
  | .wbR v a b => Sys2Proof.Machine.execWbR v a b s
  | .invR v a b => Sys2Proof.Machine.execInvR v a b s
  | .wbinvR v a b => Sys2Proof.Machine.execWbinvR v a b s
  | .iinvR v a b => Sys2Proof.Machine.execIinvR v a b s
  | .fetchb => Sys2Proof.Machine.execFetchb s
  | .pfr v a b => Sys2Proof.Machine.execPfr v a b s
  | .sbreplay a => Sys2Proof.Machine.execSbreplay a s
  | .sbdrop a => Sys2Proof.Machine.execSbdrop a s
  | .sbstat d a l => Sys2Proof.Machine.execSbstat d a l s
  | .amoWSwap d a b o xs => Sys2Proof.Machine.execAmoWSwap d a b o xs s
  | .amoWAdd d a b o xs => Sys2Proof.Machine.execAmoWAdd d a b o xs s
  | .amoWAnd d a b o xs => Sys2Proof.Machine.execAmoWAnd d a b o xs s
  | .amoWOr d a b o xs => Sys2Proof.Machine.execAmoWOr d a b o xs s
  | .amoWXor d a b o xs => Sys2Proof.Machine.execAmoWXor d a b o xs s
  | .amoWMin d a b o xs => Sys2Proof.Machine.execAmoWMin d a b o xs s
  | .amoWMax d a b o xs => Sys2Proof.Machine.execAmoWMax d a b o xs s
  | .amoWMinn d a b o xs => Sys2Proof.Machine.execAmoWMinn d a b o xs s
  | .amoWMaxn d a b o xs => Sys2Proof.Machine.execAmoWMaxn d a b o xs s
  | .amoWCas d a b o xs => Sys2Proof.Machine.execAmoWCas d a b o xs s
  | .amoDSwap d a b o xs => Sys2Proof.Machine.execAmoDSwap d a b o xs s
  | .amoDAdd d a b o xs => Sys2Proof.Machine.execAmoDAdd d a b o xs s
  | .amoDAnd d a b o xs => Sys2Proof.Machine.execAmoDAnd d a b o xs s
  | .amoDOr d a b o xs => Sys2Proof.Machine.execAmoDOr d a b o xs s
  | .amoDXor d a b o xs => Sys2Proof.Machine.execAmoDXor d a b o xs s
  | .amoDMin d a b o xs => Sys2Proof.Machine.execAmoDMin d a b o xs s
  | .amoDMax d a b o xs => Sys2Proof.Machine.execAmoDMax d a b o xs s
  | .amoDMinn d a b o xs => Sys2Proof.Machine.execAmoDMinn d a b o xs s
  | .amoDMaxn d a b o xs => Sys2Proof.Machine.execAmoDMaxn d a b o xs s
  | .amoDCas d a b o xs => Sys2Proof.Machine.execAmoDCas d a b o xs s
  | .updAdd w a b => Sys2Proof.Machine.execUpdAdd w a b s
  | .updAnd w a b => Sys2Proof.Machine.execUpdAnd w a b s
  | .updOr w a b => Sys2Proof.Machine.execUpdOr w a b s
  | .updXor w a b => Sys2Proof.Machine.execUpdXor w a b s
  | .updMin w a b => Sys2Proof.Machine.execUpdMin w a b s
  | .updMax w a b => Sys2Proof.Machine.execUpdMax w a b s
  | .updFadd a b => Sys2Proof.Machine.execUpdFadd a b s
  | .updFmin a b => Sys2Proof.Machine.execUpdFmin a b s
  | .updFmax a b => Sys2Proof.Machine.execUpdFmax a b s
  | .updFlush => Sys2Proof.Machine.execUpdFlush s
  | .fence xs k => Sys2Proof.Machine.execFence xs k s
  | .tlwait d a b l => Sys2Proof.Machine.execTlwait d a b l s
  | .tlrd d a => Sys2Proof.Machine.execTlrd d a s
  | .tntRd d a xs => Sys2Proof.Machine.execTntRd d a xs s
  | .tntSet a xs => Sys2Proof.Machine.execTntSet a xs s
  | .tntClr a xs => Sys2Proof.Machine.execTntClr a xs s
  | .tntChk a xs => Sys2Proof.Machine.execTntChk a xs s
  | .send a b => Sys2Proof.Machine.execSend a b s
  | .sendw a b => Sys2Proof.Machine.execSendw a b s
  | .recv d g => Sys2Proof.Machine.execRecv d g s
  | .rpoll d g => Sys2Proof.Machine.execRpoll d g s
  | .radv g => Sys2Proof.Machine.execRadv g s
  | .dep a b => Sys2Proof.Machine.execDep a b s
  | .tkrd d xs => Sys2Proof.Machine.execTkrd d xs s
  | .tkal d a => Sys2Proof.Machine.execTkal d a s
  | .sync => Sys2Proof.Machine.execSync s
  | .gsync => Sys2Proof.Machine.execGsync s
  | .rdone => Sys2Proof.Machine.execRdone s
  | .tpost a b => Sys2Proof.Machine.execTpost a b s
  | .tinc a b => Sys2Proof.Machine.execTinc a b s
  | .vfadd d a b n m => Sys2Proof.Machine.execVfadd d a b n m s
  | .vfsub d a b n m => Sys2Proof.Machine.execVfsub d a b n m s
  | .vfmul d a b n m => Sys2Proof.Machine.execVfmul d a b n m s
  | .vfmin d a b n m => Sys2Proof.Machine.execVfmin d a b n m s
  | .vfmax d a b n m => Sys2Proof.Machine.execVfmax d a b n m s
  | .vfcsgn d a b n m => Sys2Proof.Machine.execVfcsgn d a b n m s
  | .vfabs d a n m => Sys2Proof.Machine.execVfabs d a n m s
  | .vfneg d a n m => Sys2Proof.Machine.execVfneg d a n m s
  | .vfma d a b n m => Sys2Proof.Machine.execVfma d a b n m s
  | .vfms d a b n m => Sys2Proof.Machine.execVfms d a b n m s
  | .vfnma d a b n m => Sys2Proof.Machine.execVfnma d a b n m s
  | .vfnms d a b n m => Sys2Proof.Machine.execVfnms d a b n m s
  | .vfdiv d a b n m => Sys2Proof.Machine.execVfdiv d a b n m s
  | .vfsqrt d a n m => Sys2Proof.Machine.execVfsqrt d a n m s
  | .vfclass d a n m => Sys2Proof.Machine.execVfclass d a n m s
  | .vadd d a b n m => Sys2Proof.Machine.execVadd d a b n m s
  | .vsub d a b n m => Sys2Proof.Machine.execVsub d a b n m s
  | .vmul d a b n m => Sys2Proof.Machine.execVmul d a b n m s
  | .vmulh d a b n m => Sys2Proof.Machine.execVmulh d a b n m s
  | .vmin d a b n m => Sys2Proof.Machine.execVmin d a b n m s
  | .vmax d a b n m => Sys2Proof.Machine.execVmax d a b n m s
  | .vminn d a b n m => Sys2Proof.Machine.execVminn d a b n m s
  | .vmaxn d a b n m => Sys2Proof.Machine.execVmaxn d a b n m s
  | .vand d a b n m => Sys2Proof.Machine.execVand d a b n m s
  | .vor d a b n m => Sys2Proof.Machine.execVor d a b n m s
  | .vxor d a b n m => Sys2Proof.Machine.execVxor d a b n m s
  | .vsll d a b n m => Sys2Proof.Machine.execVsll d a b n m s
  | .vsrl d a b n m => Sys2Proof.Machine.execVsrl d a b n m s
  | .vsra d a b n m => Sys2Proof.Machine.execVsra d a b n m s
  | .vabs d a n m => Sys2Proof.Machine.execVabs d a n m s
  | .vsel d a b n m => Sys2Proof.Machine.execVsel d a b n m s
  | .vfeq d a b n m => Sys2Proof.Machine.execVfeq d a b n m s
  | .vflt d a b n m => Sys2Proof.Machine.execVflt d a b n m s
  | .vfle d a b n m => Sys2Proof.Machine.execVfle d a b n m s
  | .vfun d a b n m => Sys2Proof.Machine.execVfun d a b n m s
  | .veq d a b n m => Sys2Proof.Machine.execVeq d a b n m s
  | .vlt d a b n m => Sys2Proof.Machine.execVlt d a b n m s
  | .vltn d a b n m => Sys2Proof.Machine.execVltn d a b n m s
  | .vle d a b n m => Sys2Proof.Machine.execVle d a b n m s
  | .mand d a b n m => Sys2Proof.Machine.execMand d a b n m s
  | .mor d a b n m => Sys2Proof.Machine.execMor d a b n m s
  | .mxor d a b n m => Sys2Proof.Machine.execMxor d a b n m s
  | .mnot d a n m => Sys2Proof.Machine.execMnot d a n m s
  | .mpop d a n m => Sys2Proof.Machine.execMpop d a n m s
  | .mfirst d a n m => Sys2Proof.Machine.execMfirst d a n m s
  | .msetl d a n m => Sys2Proof.Machine.execMsetl d a n m s
  | .mmovMm d a n m => Sys2Proof.Machine.execMmovMm d a n m s
  | .mmovXm d a n m => Sys2Proof.Machine.execMmovXm d a n m s
  | .mmovMx d a n m => Sys2Proof.Machine.execMmovMx d a n m s
  | .vfsum d a n m => Sys2Proof.Machine.execVfsum d a n m s
  | .vfrmax d a n m => Sys2Proof.Machine.execVfrmax d a n m s
  | .vfrmin d a n m => Sys2Proof.Machine.execVfrmin d a n m s
  | .vrsum d a n m => Sys2Proof.Machine.execVrsum d a n m s
  | .vrmax d a n m => Sys2Proof.Machine.execVrmax d a n m s
  | .vrmin d a n m => Sys2Proof.Machine.execVrmin d a n m s
  | .vrand d a n m => Sys2Proof.Machine.execVrand d a n m s
  | .vror d a n m => Sys2Proof.Machine.execVror d a n m s
  | .vsplat d a n m => Sys2Proof.Machine.execVsplat d a n m s
  | .vslu d a b n m => Sys2Proof.Machine.execVslu d a b n m s
  | .vsld d a b n m => Sys2Proof.Machine.execVsld d a b n m s
  | .vperm d a b n m => Sys2Proof.Machine.execVperm d a b n m s
  | .vext d a b n m => Sys2Proof.Machine.execVext d a b n m s
  | .vins d a b n m => Sys2Proof.Machine.execVins d a b n m s
  | .vzip d a b n m => Sys2Proof.Machine.execVzip d a b n m s
  | .vunzip d a b n m => Sys2Proof.Machine.execVunzip d a b n m s
  | .vrcp d a n m => Sys2Proof.Machine.execVrcp d a n m s
  | .vrsq d a n m => Sys2Proof.Machine.execVrsq d a n m s
  | .vex2 d a n m => Sys2Proof.Machine.execVex2 d a n m s
  | .vlg2 d a n m => Sys2Proof.Machine.execVlg2 d a n m s
  | .vtanh d a n m => Sys2Proof.Machine.execVtanh d a n m s
  | .vld d a b l n h => Sys2Proof.Machine.execVld d a b l n h s
  | .vst xs a b n m h => Sys2Proof.Machine.execVst xs a b n m h s
  | .vgather d a b l n => Sys2Proof.Machine.execVgather d a b l n s
  | .vscatter xs a b n => Sys2Proof.Machine.execVscatter xs a b n s
  | .vcvt d a n m => Sys2Proof.Machine.execVcvt d a n m s
  | .vpack d a b n m => Sys2Proof.Machine.execVpack d a b n m s
  | .vunpk d a h n m => Sys2Proof.Machine.execVunpk d a h n m s
  | .vqnt d a b n m => Sys2Proof.Machine.execVqnt d a b n m s
  | .vdqt d a b n m => Sys2Proof.Machine.execVdqt d a b n m s
  | .vrotFwd d a n m => Sys2Proof.Machine.execVrotFwd d a n m s
  | .vrotInv d a n m => Sys2Proof.Machine.execVrotInv d a n m s
  | .vscl d a n m => Sys2Proof.Machine.execVscl d a n m s
  | .pfx d a b t r xs => Sys2Proof.Machine.execPfx d a b t r xs s
  | .mld d a b => Sys2Proof.Machine.execMld d a b s
  | .mldT d a b => Sys2Proof.Machine.execMldT d a b s
  | .mswap => Sys2Proof.Machine.execMswap s
  | .mmac d a b => Sys2Proof.Machine.execMmac d a b s
  | .mmacz d a b => Sys2Proof.Machine.execMmacz d a b s
  | .mst d a b => Sys2Proof.Machine.execMst d a b s
  | .mrd d a b l => Sys2Proof.Machine.execMrd d a b l s
  | .mwr d a b => Sys2Proof.Machine.execMwr d a b s
  | .mzero d b => Sys2Proof.Machine.execMzero d b s
  | .ecpy d a b => Sys2Proof.Machine.execEcpy d a b s
  | .ecpy2 d a b => Sys2Proof.Machine.execEcpy2 d a b s
  | .estrm d a b => Sys2Proof.Machine.execEstrm d a b s
  | .enode d a b => Sys2Proof.Machine.execEnode d a b s
  | .csrr d n => Sys2Proof.Machine.execCsrr d n s
  | .csrw a n => Sys2Proof.Machine.execCsrw a n s
  | .csrs a n => Sys2Proof.Machine.execCsrs a n s
  | .csrc a n => Sys2Proof.Machine.execCsrc a n s
  | .trap h l => Sys2Proof.Machine.execTrap h l s
  | .tret => Sys2Proof.Machine.execTret s
  | .uret => Sys2Proof.Machine.execUret s
  | .wfi => Sys2Proof.Machine.execWfi s
  | .halt => Sys2Proof.Machine.execHalt s
  | .frz a => Sys2Proof.Machine.execFrz a s
  | .brk h l => Sys2Proof.Machine.execBrk h l s
  | .mark a c => Sys2Proof.Machine.execMark a c s
  | .route n e xs w c l b q t => Sys2Proof.Machine.execRoute n e xs w c l b q t s
  | .rep n e xs w c k => Sys2Proof.Machine.execRep n e xs w c k s
  | .ring f xi p => Sys2Proof.Machine.execRing f xi p s
  | .jmp t => Sys2Proof.Machine.execJmp t s
  | .bnz c t => Sys2Proof.Machine.execBnz c t s
  | .setc c v => Sys2Proof.Machine.execSetc c v s
  | .tkwt b v => Sys2Proof.Machine.execTkwt b v s
  | .bus b xs r k => Sys2Proof.Machine.execBus b xs r k s
  | .switchHalt => Sys2Proof.Machine.execSwitchHalt s
  | .nop => Sys2Proof.Machine.execNop s
  | .atomicComplete tile ctx => Sys2Proof.Machine.execAtomicComplete tile ctx s
  | .updateMerge xi => Sys2Proof.Machine.execUpdateMerge xi s
  | .recvWake tile ctx => Sys2Proof.Machine.execRecvWake tile ctx s
  | .tkalRelease tile ctx => Sys2Proof.Machine.execTkalRelease tile ctx s
  | .routineStart tile => Sys2Proof.Machine.execRoutineStart tile s
  | .mldExec tile => Sys2Proof.Machine.execMldExec tile s
  | .mswapExec tile => Sys2Proof.Machine.execMswapExec tile s
  | .mmacExec tile => Sys2Proof.Machine.execMmacExec tile s
  | .mmaczExec tile => Sys2Proof.Machine.execMmaczExec tile s
  | .mstExec tile => Sys2Proof.Machine.execMstExec tile s
  | .mrdExec tile => Sys2Proof.Machine.execMrdExec tile s
  | .mwrExec tile => Sys2Proof.Machine.execMwrExec tile s
  | .mzeroExec tile => Sys2Proof.Machine.execMzeroExec tile s
  | .tokenPass die => Sys2Proof.Machine.execTokenPass die s
  | .burstEnd tile => Sys2Proof.Machine.execBurstEnd tile s
  | .ecpyExec eng ctx => Sys2Proof.Machine.execEcpyExec eng ctx s
  | .ecpy2Exec eng ctx => Sys2Proof.Machine.execEcpy2Exec eng ctx s
  | .estrmExec eng ctx => Sys2Proof.Machine.execEstrmExec eng ctx s
  | .nodeFire eng ctx node => Sys2Proof.Machine.execNodeFire eng ctx node s
  | .engineCommandComplete eng ctx => Sys2Proof.Machine.execEngineCommandComplete eng ctx s
  | .hashdomWrite dom val => Sys2Proof.Machine.execHashdomWrite dom val s
  | .hashdomWriteComplete dom => Sys2Proof.Machine.execHashdomWriteComplete dom s
  | .rehomeReply xi => Sys2Proof.Machine.execRehomeReply xi s
  | .asidon => Sys2Proof.Machine.execAsidon s
  | .asidoff => Sys2Proof.Machine.execAsidoff s
  | .map => Sys2Proof.Machine.execMap s
  | .mapreq => Sys2Proof.Machine.execMapreq s
  | .unmap => Sys2Proof.Machine.execUnmap s
  | .migrate => Sys2Proof.Machine.execMigrate s
  | .query => Sys2Proof.Machine.execQuery s
  | .presp => Sys2Proof.Machine.execPresp s
  | .wfiWake tile ctx => Sys2Proof.Machine.execWfiWake tile ctx s
  | .longLatencyLanding tile ctx win => Sys2Proof.Machine.execLongLatencyLanding tile ctx win s
  | .commitPoint tile ctx => Sys2Proof.Machine.execCommitPoint tile ctx s
  | .storeConfirm tile entry => Sys2Proof.Machine.execStoreConfirm tile entry s
  | .storeEntryFault tile entry => Sys2Proof.Machine.execStoreEntryFault tile entry s
  | .raceCheckReply tile ctx => Sys2Proof.Machine.execRaceCheckReply tile ctx s
  | .l2Fill xi => Sys2Proof.Machine.execL2Fill xi s
  | .retryReissue xi => Sys2Proof.Machine.execRetryReissue xi s
  | .walk xi => Sys2Proof.Machine.execWalk xi s
  | .pageRequestRecordWrite ctl slot => Sys2Proof.Machine.execPageRequestRecordWrite ctl slot s
  | .migrationCopyLine ctl xi err => Sys2Proof.Machine.execMigrationCopyLine ctl xi err s
  | .remoteStoreLand xi => Sys2Proof.Machine.execRemoteStoreLand xi s
  | .sendArrive xi => Sys2Proof.Machine.execSendArrive xi s
  | .sendwArrive xi => Sys2Proof.Machine.execSendwArrive xi s
  | .depositArrive xi => Sys2Proof.Machine.execDepositArrive xi s
  | .msgAck xi => Sys2Proof.Machine.execMsgAck xi s
  | .interruptPacketArrive xi => Sys2Proof.Machine.execInterruptPacketArrive xi s
  | .interruptTake tile ctx => Sys2Proof.Machine.execInterruptTake tile ctx s
  | .scWindowResolve window => Sys2Proof.Machine.execScWindowResolve window s
  | .firstBarrierComplete forme => Sys2Proof.Machine.execFirstBarrierComplete forme s
  | .exchangeEntrySend tile => Sys2Proof.Machine.execExchangeEntrySend tile s
  | .exchangeWriteLand xi => Sys2Proof.Machine.execExchangeWriteLand xi s
  | .secondBarrierComplete forme => Sys2Proof.Machine.execSecondBarrierComplete forme s
  | .bankSwap tile => Sys2Proof.Machine.execBankSwap tile s
  | .groupBarrierComplete forme block => Sys2Proof.Machine.execGroupBarrierComplete forme block s
  | .fpxCollection forme window => Sys2Proof.Machine.execFpxCollection forme window s
  | .wdog forme => Sys2Proof.Machine.execWdog forme s
  | .throughLaneForward tile conn => Sys2Proof.Machine.execThroughLaneForward tile conn s
  | .edgeFlitArrive xi => Sys2Proof.Machine.execEdgeFlitArrive xi s
  | .holdArrive xi => Sys2Proof.Machine.execHoldArrive xi s
  | .tickUpdateSend die => Sys2Proof.Machine.execTickUpdateSend die s
  | .tickUpdateArrive xi => Sys2Proof.Machine.execTickUpdateArrive xi s
  | .register queue => Sys2Proof.Machine.execRegister queue s
  | .unregister queue => Sys2Proof.Machine.execUnregister queue s
  | .launch queue => Sys2Proof.Machine.execLaunch queue s
  | .makeReady forme => Sys2Proof.Machine.execMakeReady forme s
  | .stop queue => Sys2Proof.Machine.execStop queue s
  | .preempt queue => Sys2Proof.Machine.execPreempt queue s
  | .contextSave forme => Sys2Proof.Machine.execContextSave forme s
  | .resume queue => Sys2Proof.Machine.execResume queue s
  | .kill queue => Sys2Proof.Machine.execKill queue s
  | .copy queue => Sys2Proof.Machine.execCopy queue s
  | .mapcmd queue => Sys2Proof.Machine.execMapcmd queue s
  | .nopRecord queue => Sys2Proof.Machine.execNopRecord queue s
  | .intr queue => Sys2Proof.Machine.execIntr queue s
  | .hqtailWrite queue val => Sys2Proof.Machine.execHqtailWrite queue val s
  | .recordFetch queue => Sys2Proof.Machine.execRecordFetch queue s
  | .recordAccept queue => Sys2Proof.Machine.execRecordAccept queue s
  | .tailwordPoll queue => Sys2Proof.Machine.execTailwordPoll queue s
  | .queueEnable queue cfg => Sys2Proof.Machine.execQueueEnable queue cfg s
  | .queueDestroy queue => Sys2Proof.Machine.execQueueDestroy queue s
  | .attgo => Sys2Proof.Machine.execAttgo s
  | .barRegisterWrite off val => Sys2Proof.Machine.execBarRegisterWrite off val s
  | .traceFrameWrite tile => Sys2Proof.Machine.execTraceFrameWrite tile s
  | .functionLevelReset => Sys2Proof.Machine.execFunctionLevelReset s
  | .powerOn => Sys2Proof.Machine.execPowerOn s
  | .clusterRamp die => Sys2Proof.Machine.execClusterRamp die s
  | .thermalThrottle die => Sys2Proof.Machine.execThermalThrottle die s
  | .throttleClear die => Sys2Proof.Machine.execThrottleClear die s
  | .thermalFatal die => Sys2Proof.Machine.execThermalFatal die s
  | .uncorrectableError site => Sys2Proof.Machine.execUncorrectableError site s
  | .scrub found => Sys2Proof.Machine.execScrub found s
  | .linkDown port => Sys2Proof.Machine.execLinkDown port s
  | .localTick die => Sys2Proof.Machine.execLocalTick die s
  | .eventRecordWrite => Sys2Proof.Machine.execEventRecordWrite s
  | .rangeOperationComplete tile ctx => Sys2Proof.Machine.execRangeOperationComplete tile ctx s
  | .tlrdReply tile ctx => Sys2Proof.Machine.execTlrdReply tile ctx s
  | .taintLineReadReply tile ctx => Sys2Proof.Machine.execTaintLineReadReply tile ctx s
  | .rollbackCounterRaise val => Sys2Proof.Machine.execRollbackCounterRaise val s

end Sys2Proof.Machine
end

