-- ==== Sys2Proof/Machine/Schedule.lean ====
section
/-! DEFINITION. Whose move it is. The spec lets the cores, the switches, the events and the surroundings of the part
move in any order that its waits allow; `State.moves` names an order, and where it names none a default order takes over
(log entry 3). A core's move fetches, decodes and runs one instruction; a switch's runs its current word. -/

namespace Sys2Proof.Machine

/-! ### A core's move -/

/-- Whether a context of a tile acts when the core turns to it. -/
def gateOf (s : State) (p : Nat) (c : Fin 4) : Gate := gate (s.as p c)

/-- The context waits for nothing that it has not tried already. -/
def Ctx.fresh (c : Ctx) : Bool := c.stall.isNone

/-- The contexts of a tile that act, in ring order after the last one that issued. -/
def State.acting (s : State) (t : Tile) : List (Fin 4) := t.ringOrder.filter (fun c => gateOf s t.phys c != .idle)

/-- What a context waits on, if anything, is no off-core reference: the multiplier or the divider, a load that the tile
itself has answered, or the matrix unit (R28, R73). -/
def Ctx.inCore (c : Ctx) : Bool :=
  match c.stall with
  | none | some .muldiv | some .near | some .matrix => true
  | _ => false

/-- Issue stays with the context that issued last: it acts and has made no off-core reference (R28). -/
def State.holdsIssue (s : State) (t : Tile) : Bool :=
  !t.offCore && gateOf s t.phys t.issuing != .idle && (t.ctxs[t.issuing]).inCore

/-- The context that the core turns to (R28): the one that issued last until it makes an off-core reference; then the
first after it that acts and has not stalled, else the first that acts. -/
def State.pick (s : State) (t : Tile) : Option (Fin 4) :=
  if s.holdsIssue t then some t.issuing
  else match (s.acting t).find? (fun c => (t.ctxs[c]).fresh) with
    | some c => some c
    | none => (s.acting t).head?

/-- The fault of a word that encodes nothing (R60): ILLOP, the word in TVAL. -/
def State.illop (s : State) (w : Lane) : Exc := s.exc cILLOP (w.setWidth 64)

/-- A fetch has missed L1I: it has filled a line. -/
def State.missed (s s' : State) : Bool := s.tile.l1i != s'.tile.l1i

/-- The instruction at PC of the acting context, fetched and run. A fetch that misses L1I is an L1 miss (R28): the line
is filled, and the instruction runs when issue comes to the context again. -/
def runFetched (s : State) : Out :=
  match fetch s with
  | (.error e, s') => .next (s.deliverIn s' e)
  | (.ok w, s') =>
    if s.missed s' then .next s'
    else match decode w.toNat with
      | .error _ => .next (s.deliverIn s' (s.illop w))
      | .ok i => exec i s'

/-- The acting context's move. -/
def ctxMove (s : State) : Out :=
  match gate s with
  | .idle => .next s
  | .closed st => .next (s.held st)
  | .fault e s' => .next (s.deliverIn s' e)
  | .go => runFetched s

/-- The core of a tile turns to a context. -/
def State.turn (s : State) (p : Nat) (c : Fin 4) : State := s.as p c

/-- A window whose result comes from off the core: that of a load which missed L1D, or of a tlwait. -/
def Window.away (w : Window) : Bool :=
  w.st == .waiting && (match w.kind with
    | .load _ _ | .vld | .gather _ | .tlwait => true
    | .value | .mrd _ => false)

/-- The move of a context made an off-core reference (R28, R249): it waits for something outside the core, or has opened a
window for it, or its fetch missed. x and y are the context before and after, t and u its tile. -/
def madeReference (t u : Tile) (x y : Ctx) : Bool :=
  !y.wait.open || !y.inCore || y.wins.any (fun w => x.nextWin ≤ w.id && w.away) || t.l1i != u.l1i

/-- The move of a context issued its instruction, or a beat of it. -/
def didIssue (x y : Ctx) : Bool := y.stall.isNone || x.vbeat != y.vbeat

/-- The acting context issues an instruction that is an off-core reference whatever it finds: recv (R28, R222). A tlwait's
window shows in madeReference. -/
def State.atRecv (s : State) : Bool :=
  gate s == .go && (match (fetch s).1 with
    | .ok w => (match decode w.toNat with
      | .ok (.recv _ _) => true
      | _ => false)
    | .error _ => false)

/-- Which context issued last, and whether issue passes on, after the move of context c of tile t (R28): it does where the
move made an off-core reference, or where `away` says so. A context whose instruction waits on the core itself keeps
issue (R73). -/
def Tile.noteIssue (t u : Tile) (c : Fin 4) (away : Bool) : Tile :=
  let ref := away || madeReference t u t.ctxs[c] u.ctxs[c]
  if didIssue t.ctxs[c] u.ctxs[c] || !ref then { u with issuing := c, offCore := ref } else { u with offCore := u.offCore || ref }

/-- The move of context c of tile t, which issued in the state s, is noted in the tile. -/
def noteTurn (s : State) (t : Tile) (c : Fin 4) (o : Out) : Out :=
  match o with
  | .next s' => .next (s'.modTile t.phys (fun u => t.noteIssue u c s.atRecv))
  | .fault f => .fault f
  | .refused r => .refused r

/-- The move of the core of tile p. -/
def coreMove (p : Nat) (s : State) : Out :=
  match s.tileAt p with
  | none => .next s
  | some t =>
    match s.pick t with
    | none => .next s
    | some c => noteTurn (s.turn p c) t c (ctxMove (s.turn p c))

/-! ### A switch's move -/

/-- The move of the switch of tile p: its current word runs (R172). -/
def switchMove (p : Nat) (s : State) : Out :=
  match (s.tileD p).sw.word with
  | some i => exec i (s.as p s.actor.ctx)
  | none => .next s

/-! ### The surroundings -/

/-- A line of a slice leaves it, written back where dirty (R96, R333). -/
def evictL2 (i : Nat) (s : State) : State :=
  match s.l2[i]? with
  | some l => if l.fill == .valid then (s.cleanL2 l).dropL2 l else s
  | none => s

/-- An update-only line leaves L1D and is pushed to its home slice (R152). -/
def evictUpd (p i : Nat) (s : State) : State :=
  match (s.tileD p).upd[i]? with
  | some u => pushUpd s p (fun v => v == u)
  | none => s

/-- The host writes a byte of its own memory. -/
def hostByte (a : Nat) (b : Byte) (s : State) : State := { s with hostMem := Memory.set s.hostMem a b }

/-- A 4 KiB page of host memory begins or ceases to answer with an error. -/
def hostPage (g : Nat) (bad : Bool) (s : State) : State :=
  { s with host := { s.host with badPages := TaintSet.put s.host.badPages g bad } }

/-- Another package maps a page of its export ASID so that accesses to it succeed, or fail with a code (R332). -/
def remotePage (p g : Nat) (f : Option (BitVec 8 × BitVec 8)) (s : State) : State :=
  let rest := s.remoteFail.filter (fun x => !(x.1 == p && x.2.1 == g))
  { s with remoteFail := match f with
      | some c => (p, g, c.1, c.2) :: rest
      | none => rest }

/-- A choice of the hardware or its surroundings that is no step of the opcode table. -/
def envMove (e : EnvMove) (s : State) : State :=
  match e with
  | .evictL1D p i => s.modTile p (fun t => { t with l1d := ldel t.l1d i })
  | .evictL1I p i => s.modTile p (fun t => { t with l1i := ldel t.l1i i })
  | .evictUpd p i => evictUpd p i s
  | .evictL2 i => evictL2 i s
  | .hostWrite a b => hostByte a b s
  | .takeMsix => { s with host := { s.host with msix := s.host.msix.drop 1 } }
  | .barWrite32 off v => barWrite32 off v s
  | .prefetch p c => (s.as p c).prefetch
  | .pfrFill p i l => s.pfrFill p i l
  | .temperature d x => s.modDie d (fun y => { y with temp := x, cool := if x.toNat < 95 then y.cool else 0 })
  | .hostPage g bad => hostPage g bad s
  | .remotePage p g f => remotePage p g f s
  | .mxWord p o => mxWord p o s
  | .xchWord p o => xchWord p o s
  | .engWord e c two i => copyStep e c (if two then fnEcpy2 else fnEcpy) i s

/-! ### The events that may be due -/

/-- An event happens: the meaning of its row. -/
def runEvent (e : Event) (s : State) : Out :=
  match e with
  | .atomicComplete tile ctx => execAtomicComplete tile ctx s
  | .updateMerge i => execUpdateMerge i s
  | .recvWake tile ctx => execRecvWake tile ctx s
  | .tkalRelease tile ctx => execTkalRelease tile ctx s
  | .routineStart tile => execRoutineStart tile s
  | .mldExec tile => execMldExec tile s
  | .mswapExec tile => execMswapExec tile s
  | .mmacExec tile => execMmacExec tile s
  | .mmaczExec tile => execMmaczExec tile s
  | .mstExec tile => execMstExec tile s
  | .mrdExec tile => execMrdExec tile s
  | .mwrExec tile => execMwrExec tile s
  | .mzeroExec tile => execMzeroExec tile s
  | .tokenPass die => execTokenPass die s
  | .burstEnd tile => execBurstEnd tile s
  | .ecpyExec eng ctx => execEcpyExec eng ctx s
  | .ecpy2Exec eng ctx => execEcpy2Exec eng ctx s
  | .estrmExec eng ctx => execEstrmExec eng ctx s
  | .nodeFire eng ctx node => execNodeFire eng ctx node s
  | .engineCommandComplete eng ctx => execEngineCommandComplete eng ctx s
  | .hashdomWrite dom val => execHashdomWrite dom val s
  | .hashdomWriteComplete dom => execHashdomWriteComplete dom s
  | .rehomeReply i => execRehomeReply i s
  | .asidon => execAsidon s
  | .asidoff => execAsidoff s
  | .map => execMap s
  | .mapreq => execMapreq s
  | .unmap => execUnmap s
  | .migrate => execMigrate s
  | .query => execQuery s
  | .presp => execPresp s
  | .wfiWake tile ctx => execWfiWake tile ctx s
  | .longLatencyLanding tile ctx win => execLongLatencyLanding tile ctx win s
  | .commitPoint tile ctx => execCommitPoint tile ctx s
  | .storeConfirm tile entry => execStoreConfirm tile entry s
  | .storeEntryFault tile entry => execStoreEntryFault tile entry s
  | .raceCheckReply tile ctx => execRaceCheckReply tile ctx s
  | .l2Fill i => execL2Fill i s
  | .retryReissue i => execRetryReissue i s
  | .walk i => execWalk i s
  | .pageRequestRecordWrite ctl slot => execPageRequestRecordWrite ctl slot s
  | .migrationCopyLine ctl i err => execMigrationCopyLine ctl i err s
  | .remoteStoreLand i => execRemoteStoreLand i s
  | .sendArrive i => execSendArrive i s
  | .sendwArrive i => execSendwArrive i s
  | .depositArrive i => execDepositArrive i s
  | .msgAck i => execMsgAck i s
  | .interruptPacketArrive i => execInterruptPacketArrive i s
  | .interruptTake tile ctx => execInterruptTake tile ctx s
  | .scWindowResolve window => execScWindowResolve window s
  | .firstBarrierComplete forme => execFirstBarrierComplete forme s
  | .exchangeEntrySend tile => execExchangeEntrySend tile s
  | .exchangeWriteLand i => execExchangeWriteLand i s
  | .secondBarrierComplete forme => execSecondBarrierComplete forme s
  | .bankSwap tile => execBankSwap tile s
  | .groupBarrierComplete forme block => execGroupBarrierComplete forme block s
  | .fpxCollection forme window => execFpxCollection forme window s
  | .wdog forme => execWdog forme s
  | .throughLaneForward tile conn => execThroughLaneForward tile conn s
  | .edgeFlitArrive i => execEdgeFlitArrive i s
  | .holdArrive i => execHoldArrive i s
  | .tickUpdateSend die => execTickUpdateSend die s
  | .tickUpdateArrive i => execTickUpdateArrive i s
  | .register queue => execRegister queue s
  | .unregister queue => execUnregister queue s
  | .launch queue => execLaunch queue s
  | .makeReady forme => execMakeReady forme s
  | .stop queue => execStop queue s
  | .preempt queue => execPreempt queue s
  | .contextSave forme => execContextSave forme s
  | .resume queue => execResume queue s
  | .kill queue => execKill queue s
  | .copy queue => execCopy queue s
  | .mapcmd queue => execMapcmd queue s
  | .nopRecord queue => execNopRecord queue s
  | .intr queue => execIntr queue s
  | .hqtailWrite queue val => execHqtailWrite queue val s
  | .recordFetch queue => execRecordFetch queue s
  | .recordAccept queue => execRecordAccept queue s
  | .tailwordPoll queue => execTailwordPoll queue s
  | .queueEnable queue cfg => execQueueEnable queue cfg s
  | .queueDestroy queue => execQueueDestroy queue s
  | .attgo => execAttgo s
  | .barRegisterWrite off val => execBarRegisterWrite off val s
  | .traceFrameWrite tile => execTraceFrameWrite tile s
  | .functionLevelReset => execFunctionLevelReset s
  | .powerOn => execPowerOn s
  | .clusterRamp die => execClusterRamp die s
  | .thermalThrottle die => execThermalThrottle die s
  | .throttleClear die => execThrottleClear die s
  | .thermalFatal die => execThermalFatal die s
  | .uncorrectableError site => execUncorrectableError site s
  | .scrub found => execScrub found s
  | .linkDown port => execLinkDown port s
  | .localTick die => execLocalTick die s
  | .eventRecordWrite => execEventRecordWrite s
  | .rangeOperationComplete tile ctx => execRangeOperationComplete tile ctx s
  | .tlrdReply tile ctx => execTlrdReply tile ctx s
  | .taintLineReadReply tile ctx => execTaintLineReadReply tile ctx s
  | .rollbackCounterRaise val => execRollbackCounterRaise val s

/-- The numbers 0 to n − 1, under a constructor of Event. -/
def upTo (n : Nat) (f : Nat → Event) : List Event := (List.range n).map f

/-- The event that a context's wait may end with. -/
def Wait.events (w : Wait) (p c : Nat) : List Event :=
  match w with
  | .recv _ _ => [.recvWake p c]
  | .tkal _ _ _ _ => [.tkalRelease p c]
  | .wfi => [.wfiWake p c]
  | .atomic _ _ => [.atomicComplete p c]
  | .race _ => [.raceCheckReply p c]
  | .range _ _ _ _ _ => [.rangeOperationComplete p c]
  | .tlrd _ _ => [.tlrdReply p c]
  | .taintRead _ _ => [.taintLineReadReply p c]
  | .hashdom d v => [.hashdomWrite d v]
  | _ => []

/-- The events of one context. -/
def Ctx.events (x : Ctx) (p c : Nat) : List Event :=
  x.wait.events p c ++ x.wins.map (fun w => .longLatencyLanding p c w.id) ++ [.commitPoint p c, .interruptTake p c]

/-- The events of one tile. -/
def Tile.events (t : Tile) : List Event :=
  let p := t.phys
  t.ctxs.toList.zipIdx.flatMap (fun x => x.1.events p x.2) ++
  t.sb.flatMap (fun e => [.storeConfirm p e.idx, .storeEntryFault p e.idx]) ++
  [.routineStart p, .mldExec p, .mswapExec p, .mmacExec p, .mmaczExec p, .mstExec p, .mrdExec p, .mwrExec p, .mzeroExec p,
   .burstEnd p, .exchangeEntrySend p, .bankSwap p, .traceFrameWrite p] ++
  upTo t.fab.conns.length (.throughLaneForward p)

/-- The events of the memory system and of the networks. -/
def State.netEvents (s : State) : List Event :=
  upTo s.l2.length .walk ++ upTo s.l2.length .l2Fill ++ upTo s.reqs.length .rehomeReply ++ upTo s.pushes.length .updateMerge ++
  s.domWrites.map (fun d => .hashdomWriteComplete d.1) ++
  upTo s.net.length .remoteStoreLand ++ upTo s.net.length .sendArrive ++ upTo s.net.length .sendwArrive ++
  upTo s.net.length .depositArrive ++ upTo s.net.length .interruptPacketArrive ++ upTo s.net.length .exchangeWriteLand ++
  upTo s.acks.length .msgAck ++ upTo s.edge.length .edgeFlitArrive ++ upTo s.holds.length .holdArrive ++
  s.sc.map (fun o => .scWindowResolve o.window)

/-- The events of the engines and of mapping. -/
def State.engineEvents (s : State) : List Event :=
  s.engs.flatMap (fun e => [.ecpyExec e.eng e.ctx, .ecpy2Exec e.eng e.ctx, .estrmExec e.eng e.ctx, .engineCommandComplete e.eng e.ctx] ++
    upTo 16 (.nodeFire e.eng e.ctx)) ++
  (if s.mapq.isEmpty then [] else [.asidon, .asidoff, .map, .mapreq, .unmap, .migrate, .query, .presp]) ++
  s.ctls.toList.zipIdx.flatMap (fun c => c.1.slots.map (fun x => .pageRequestRecordWrite c.2 x.slot) ++
    upTo c.1.migs.length (fun i => .migrationCopyLine c.2 i false))

/-- The events of the formes. -/
def State.formeEvents (s : State) : List Event :=
  s.formes.flatMap (fun f => [.makeReady f.id, .contextSave f.id, .firstBarrierComplete f.id, .secondBarrierComplete f.id, .wdog f.id] ++
    ((s.tiles.filter (fun t => t.forme == f.id)).filterMap Tile.block).eraseDups.map (.groupBarrierComplete f.id) ++
    (s.tiles.filter (fun t => t.forme == f.id)).flatMap (fun t => t.ctxs.toList.filterMap (fun c => c.fpx.map (fun x => .fpxCollection f.id x.window))))

/-- The events of the control complex on one queue. -/
def queueEvents (q : Nat) : List Event :=
  [.tailwordPoll q, .recordFetch q, .recordAccept q, .register q, .unregister q, .launch q, .stop q, .preempt q, .resume q, .kill q,
   .copy q, .mapcmd q, .nopRecord q, .intr q]

/-- The queue has something to do. -/
def HQueue.busy (q : HQueue) : Bool := q.en || q.fetched.isSome || !q.accepted.isEmpty

/-- The events of the host side and of the dies. -/
def State.packageEvents (s : State) : List Event :=
  [.eventRecordWrite] ++ ((List.range 64).filter (fun q => (s.queue q).busy)).flatMap queueEvents ++
  upTo 4 .thermalThrottle ++ upTo 4 .throttleClear ++ upTo 4 .thermalFatal ++ upTo 4 .tickUpdateSend ++
  upTo s.ticks.length .tickUpdateArrive

/-- Every event that may be due and that needs nothing from outside the part. -/
def State.events (s : State) : List Event :=
  s.netEvents ++ s.tiles.flatMap Tile.events ++ s.engineEvents ++ s.formeEvents ++ s.packageEvents

/-- A move changes more than the actor. -/
def State.differs (s : State) (o : Out) : Bool :=
  match o with
  | .next s' => { s' with actor := s.actor } != s
  | _ => true

/-- The event is due. -/
def State.due (s : State) (e : Event) : Bool := s.differs (runEvent e s)

/-! ### The default order -/

/-- The stall marks of every context cleared: each tries again. -/
def State.wakeAll (s : State) : State :=
  { s with tiles := s.tiles.map (fun (t : Tile) => { t with ctxs := t.ctxs.map (fun c => { c with stall := none }) }) }

/-- A core turns to a context that has not stalled. -/
def State.coreReady (s : State) (t : Tile) : Bool :=
  match s.pick t with
  | some c => (t.ctxs[c]).fresh
  | none => false

/-- The die whose tick comes next: the one of the least L. -/
def State.slowDie (s : State) : Nat :=
  (List.range 4).foldl (fun b d => if (s.die d).l.toNat < (s.die b).l.toNat then d else b) 0

/-- What follows a tick of a die: its tokens pass (R320), and the requests answered RETRY are sent again (R109). -/
def State.afterTick (s : State) (d : Nat) : List Move :=
  .event (.tokenPass d) :: (upTo s.reqs.length .retryReissue).map .event

/-- The next die to bring up a cluster (R424). -/
def State.rampDie (s : State) : Option Nat := (List.range 4).find? (fun d => (s.die d).ramped < 64)

/-- The move that the default order makes: bring-up, then the first core that can issue, the first event that is due,
the first switch that can fire, and the tick of a die. -/
def State.defaultMove (s : State) : Move :=
  if !s.powered then .event .powerOn
  else match s.rampDie with
    | some d => .event (.clusterRamp d)
    | none =>
      match s.tiles.find? s.coreReady with
      | some t => .core t.phys
      | none =>
        match s.events.find? s.due with
        | some e => .event e
        | none =>
          match s.tiles.find? (fun t => s.differs (switchMove t.phys s)) with
          | some t => .switch t.phys
          | none => .event (.localTick s.slowDie)

/-- The move that comes next, and the state without it: the head of the schedule, or the default order's. A stalled
context tries again after any other agent has moved; the moves of R109 and R320 follow a tick. -/
def State.nextMove (s : State) : Move × State :=
  match s.moves with
  | m :: r => (m, { s with moves := r })
  | [] =>
    match s.defaultMove with
    | .core p => (.core p, s)
    | .event (.localTick d) => (.event (.localTick d), { s with moves := s.afterTick d })
    | m => (m, s)

/-- A move of the package. -/
def doMove (m : Move) (s : State) : Out :=
  match m with
  | .core p => coreMove p s
  | .switch p => switchMove p s
  | .event e => runEvent e s
  | .env e => .next (envMove e s)

/-- Other agents than a core let every stalled context try again. -/
def wake (m : Move) (o : Out) : Out :=
  match m, o with
  | .core _, o => o
  | _, .next s => .next s.wakeAll
  | _, o => o

/-- Why nothing moves: the rails are cut until a power cycle (R429), or the boot ROM refuses the firmware (R435). -/
def State.dead (s : State) (m : Move) : Option Fault :=
  if s.railsCut && m != .event .powerOn then some .railsCut
  else if !s.powered && !s.fwAccepted then some .noFirmware
  else none

/-- One step of the package. -/
def schedule (s : State) : Out :=
  match s.nextMove.1, s.nextMove.2 with
  | m, s' =>
    match s.dead m with
    | some f => .fault f
    | none => wake m (doMove m s')

end Sys2Proof.Machine
end

