-- ==== Sys2Proof/Machine/Place.lean ====
section
/-! DEFINITION. The state in which a given word is the next to run: the least that a core, or a switch, needs to fetch
it (log entry 27). -/

namespace Sys2Proof.Machine

/-- Where the word stands in the forme's address space. -/
def placePc : Word := 0x100000

/-- An image of one tile. -/
def placeImage : Image := { w := 1, h := 1 }

/-- A forme of one tile, made ready and computing superstep 0. -/
def placeForme : Forme := { id := 0, asid := 0, x0 := 0, y0 := 0, img := placeImage, b := 1, v := 1, phase := .compute }

/-- A span with the rights RD and EX over the word's page, homed at logical tile 0. -/
def placeSpan : Span := { b := placePc, l := placePc, a := 0xD400000000000000 }

/-- A context that runs a thread at the word. -/
def placeCtx : Ctx := { st := .running, pc := placePc, spans := vset (Vector.replicate 32 {}) 0 placeSpan }

/-- The L1I line that holds the word. -/
def placeLine (w : Lane) : L1Line := { asid := 0, line := placePc.toNat / 64, dom := 0, data := w.setWidth 512, taint := 0 }

/-- A tile whose context 0 is to issue the word; where the word is a route word, a tile whose switch is to run it. -/
def placeTile (core : Bool) (w : Lane) : Tile :=
  if core then
    { phys := 0, ctxs := vset (Vector.replicate 4 {}) 0 placeCtx, issuing := 3, l1i := [placeLine w], dispMask := 1, barMask := 1 }
  else { phys := 0, sw := { prog := [w], halted := false } }

/-- s, brought up, with that tile in the place of physical tile 0, its forme, and that tile's move next. -/
def State.placeWord (s : State) (nbits w : Nat) : State :=
  let l : Lane := BitVec.ofNat 32 (w % 2 ^ nbits)
  let core : Bool := match decode l.toNat, decodeRoute l.toNat with
    | .error _, .ok _ => false
    | _, _ => true
  { s with
    tiles := placeTile core l :: s.tiles.filter (fun t => t.phys != 0)
    formes := placeForme :: s.formes.filter (fun f => f.id != 0)
    dies := s.dies.map (fun d => { d with ramped := 64 })
    powered := true, fatal := none, railsCut := false
    host := { s.host with dstate := 1 }
    moves := [if core then .core 0 else .switch 0] }

end Sys2Proof.Machine
end

