-- ==== Sys2Proof/Machine/Step.lean ====
section
/-! DEFINITION. One step of the package, and the state in which a given word is the next to run. -/

namespace Sys2Proof.Machine

/-- One step: the agent whose move it is moves (Machine/Schedule.lean). -/
def step (s : State) : Host.Outcome State Fault Refusal := schedule s

/-- s with the instruction of nbits bits w where step fetches next (log entry 27): on a tile that is put in place of
any that the state holds (Machine/Place.lean). -/
def State.withFetchWord (s : State) (nbits w : Nat) : State := s.placeWord nbits w

end Sys2Proof.Machine
end

