-- ==== Sys2Proof/Safety.lean ====
section
/-! DEFINITION. What counts as a safe run: the terms in which statements about the whole machine are made. -/

namespace Sys2Proof.Safety

open Sys2Proof.Machine

/-- The package works: neither FATAL nor a cut of the rails has stopped it, and bring-up has ended. -/
def Works (s : State) : Prop := s.powered = true ∧ s.fatal = none ∧ s.railsCut = false ∧ s.released = true

/-- Neither FREEZE nor a fault of the forme has stopped a tile's core. -/
def CoreRuns (s : State) (p : Nat) : Prop := (s.tileD p).frozen = false ∧ (s.formeOf (s.tileD p)).phase.runs = true

/-- The memories of a tile are in canonical form. -/
def TileCanonical (t : Tile) : Prop :=
  Memory.wf t.main = true ∧ Memory.wf t.bankA = true ∧ Memory.wf t.bankB = true

/-- Every memory of the state is in canonical form: device memory, the host's, other packages', and every local store. -/
def Canonical (s : State) : Prop :=
  Memory.wf s.hbm = true ∧ Memory.wf s.hostMem = true ∧ (∀ r ∈ s.remoteMem, Memory.wf r.2 = true) ∧
  (∀ t ∈ s.tiles, TileCanonical t) ∧ (∀ t ∈ s.idle, TileCanonical t)

/-- A step answers a next state. -/
def Progresses (s : State) : Prop := ∃ t, step s = .next t

/-- A forme holds the acting tile. -/
def Acts (s : State) : Prop := (s.tileAt s.actor.tile).isSome = true

/-- The acting context issues instruction i now and i raises no decode fault: the context runs, waits for nothing and no
window that has run out holds it back (R51); i passes the checks of R50 and R52; neither an interrupt (R358) nor a DSTORE that
was restored with the context (R115) is due; its scalar ports hold the flits and the room that it needs (R169). -/
def Issues (i : Instr) (s : State) : Prop :=
  gate s = .go ∧ decodeFault i s = none ∧ windowFault i s = none ∧ s.ctx.intDue = false ∧ s.ctx.dstoreAt ≠ some s.ctx.pc ∧
  ((instrShape i).fold.isNone = true → portsReady (instrShape i).ops s.tile = true)

/-- The state that instruction i leaves, issued in s, where t is s with i's effect and control passes to the next word in
sequence: PC moves on (R86, R89), the open windows count the instruction and those that have run out close (R51, R53). -/
def followed (i : Instr) (s t : State) : State := settle i s (.ok t)

end Sys2Proof.Safety
end

