-- ==== Sys2Proof/WellFormed.lean ====
section
/-! DEFINITION. The well-formed instructions: every field within its width and at a value that the encoding
assigns (Tables 2-11 and 6-3 to 6-5), every step of the hardware naming an agent that the part has. -/

namespace Sys2Proof

/-- Every operand is at a value that the instruction's encoding, or the part, admits. -/
def Instr.WellFormed (i : Instr) : Prop :=
  match i with
  | .add d a b => d < 64 ∧ a < 64 ∧ b < 64
  | .sub d a b => d < 64 ∧ a < 64 ∧ b < 64
  | .and d a b => d < 64 ∧ a < 64 ∧ b < 64
  | .or d a b => d < 64 ∧ a < 64 ∧ b < 64
  | .xor d a b => d < 64 ∧ a < 64 ∧ b < 64
  | .andn d a b => d < 64 ∧ a < 64 ∧ b < 64
  | .orn d a b => d < 64 ∧ a < 64 ∧ b < 64
  | .sll d a b => d < 64 ∧ a < 64 ∧ b < 64
  | .srl d a b => d < 64 ∧ a < 64 ∧ b < 64
  | .sra d a b => d < 64 ∧ a < 64 ∧ b < 64
  | .slt d a b => d < 64 ∧ a < 64 ∧ b < 64
  | .sltn d a b => d < 64 ∧ a < 64 ∧ b < 64
  | .min d a b => d < 64 ∧ a < 64 ∧ b < 64
  | .max d a b => d < 64 ∧ a < 64 ∧ b < 64
  | .minn d a b => d < 64 ∧ a < 64 ∧ b < 64
  | .maxn d a b => d < 64 ∧ a < 64 ∧ b < 64
  | .clz d a => d < 64 ∧ a < 64
  | .ctz d a => d < 64 ∧ a < 64
  | .popc d a => d < 64 ∧ a < 64
  | .bswap d a => d < 64 ∧ a < 64
  | .addw d a b => d < 64 ∧ a < 64 ∧ b < 64
  | .subw d a b => d < 64 ∧ a < 64 ∧ b < 64
  | .sllw d a b => d < 64 ∧ a < 64 ∧ b < 64
  | .srlw d a b => d < 64 ∧ a < 64 ∧ b < 64
  | .sraw d a b => d < 64 ∧ a < 64 ∧ b < 64
  | .czero d a b => d < 64 ∧ a < 64 ∧ b < 64
  | .addi d a i => d < 64 ∧ a < 64 ∧ i < 16384
  | .andi d a i => d < 64 ∧ a < 64 ∧ i < 16384
  | .ori d a i => d < 64 ∧ a < 64 ∧ i < 16384
  | .xori d a i => d < 64 ∧ a < 64 ∧ i < 16384
  | .slti d a i => d < 64 ∧ a < 64 ∧ i < 16384
  | .sltni d a i => d < 64 ∧ a < 64 ∧ i < 16384
  | .addiw d a i => d < 64 ∧ a < 64 ∧ i < 16384
  | .slli d a s => d < 64 ∧ a < 64 ∧ s < 64
  | .srli d a s => d < 64 ∧ a < 64 ∧ s < 64
  | .srai d a s => d < 64 ∧ a < 64 ∧ s < 64
  | .lui d i => d < 64 ∧ i < 1048576
  | .adpc d i => d < 64 ∧ i < 1048576
  | .mul d a b l => d < 64 ∧ a < 64 ∧ b < 64 ∧ l < 16
  | .mulh d a b l => d < 64 ∧ a < 64 ∧ b < 64 ∧ l < 16
  | .mulhn d a b l => d < 64 ∧ a < 64 ∧ b < 64 ∧ l < 16
  | .mulhsn d a b l => d < 64 ∧ a < 64 ∧ b < 64 ∧ l < 16
  | .div d a b l => d < 64 ∧ a < 64 ∧ b < 64 ∧ l < 16
  | .divn d a b l => d < 64 ∧ a < 64 ∧ b < 64 ∧ l < 16
  | .rem d a b l => d < 64 ∧ a < 64 ∧ b < 64 ∧ l < 16
  | .remn d a b l => d < 64 ∧ a < 64 ∧ b < 64 ∧ l < 16
  | .mulw d a b l => d < 64 ∧ a < 64 ∧ b < 64 ∧ l < 16
  | .divw d a b l => d < 64 ∧ a < 64 ∧ b < 64 ∧ l < 16
  | .divnw d a b l => d < 64 ∧ a < 64 ∧ b < 64 ∧ l < 16
  | .beq a b o => a < 64 ∧ b < 64 ∧ o < 16384
  | .bne a b o => a < 64 ∧ b < 64 ∧ o < 16384
  | .blt a b o => a < 64 ∧ b < 64 ∧ o < 16384
  | .bge a b o => a < 64 ∧ b < 64 ∧ o < 16384
  | .bltn a b o => a < 64 ∧ b < 64 ∧ o < 16384
  | .bgen a b o => a < 64 ∧ b < 64 ∧ o < 16384
  | .jal d o => d < 64 ∧ o < 1048576
  | .jalr d a i => d < 64 ∧ a < 64 ∧ i < 16384
  | .loopC h a l => h < 64 ∧ a < 64 ∧ l < 64
  | .loopM i a s => i < 64 ∧ a < 64 ∧ s < 4
  | .lbrk a => a < 64
  | .lctx d s => d < 64 ∧ s < 64 ∧ (s ≤ 5)
  | .ld d a l z i => d < 64 ∧ a < 64 ∧ l < 16 ∧ z < 8 ∧ i < 128 ∧ (z < 7)
  | .ldx d a b l z h => d < 64 ∧ a < 64 ∧ b < 64 ∧ l < 16 ∧ z < 8 ∧ h < 2 ∧ (z < 7)
  | .st s a z i => s < 64 ∧ a < 64 ∧ z < 4 ∧ i < 4096
  | .stx s a b z h => s < 64 ∧ a < 64 ∧ b < 64 ∧ z < 4 ∧ h < 4
  | .wbR v a b => v < 4 ∧ a < 64 ∧ b < 64 ∧ (v ≤ 1)
  | .invR v a b => v < 4 ∧ a < 64 ∧ b < 64 ∧ (v ≤ 1)
  | .wbinvR v a b => v < 4 ∧ a < 64 ∧ b < 64 ∧ (v ≤ 1)
  | .iinvR v a b => v < 4 ∧ a < 64 ∧ b < 64 ∧ (v ≤ 1)
  | .fetchb => True
  | .pfr v a b => v < 4 ∧ a < 64 ∧ b < 64 ∧ (v ≤ 1)
  | .sbreplay a => a < 64
  | .sbdrop a => a < 64
  | .sbstat d a l => d < 64 ∧ a < 64 ∧ l < 16
  | .amoWSwap d a b o s => d < 64 ∧ a < 64 ∧ b < 64 ∧ o < 4 ∧ s < 4
  | .amoWAdd d a b o s => d < 64 ∧ a < 64 ∧ b < 64 ∧ o < 4 ∧ s < 4
  | .amoWAnd d a b o s => d < 64 ∧ a < 64 ∧ b < 64 ∧ o < 4 ∧ s < 4
  | .amoWOr d a b o s => d < 64 ∧ a < 64 ∧ b < 64 ∧ o < 4 ∧ s < 4
  | .amoWXor d a b o s => d < 64 ∧ a < 64 ∧ b < 64 ∧ o < 4 ∧ s < 4
  | .amoWMin d a b o s => d < 64 ∧ a < 64 ∧ b < 64 ∧ o < 4 ∧ s < 4
  | .amoWMax d a b o s => d < 64 ∧ a < 64 ∧ b < 64 ∧ o < 4 ∧ s < 4
  | .amoWMinn d a b o s => d < 64 ∧ a < 64 ∧ b < 64 ∧ o < 4 ∧ s < 4
  | .amoWMaxn d a b o s => d < 64 ∧ a < 64 ∧ b < 64 ∧ o < 4 ∧ s < 4
  | .amoWCas d a b o s => d < 64 ∧ a < 64 ∧ b < 64 ∧ o < 4 ∧ s < 4
  | .amoDSwap d a b o s => d < 64 ∧ a < 64 ∧ b < 64 ∧ o < 4 ∧ s < 4
  | .amoDAdd d a b o s => d < 64 ∧ a < 64 ∧ b < 64 ∧ o < 4 ∧ s < 4
  | .amoDAnd d a b o s => d < 64 ∧ a < 64 ∧ b < 64 ∧ o < 4 ∧ s < 4
  | .amoDOr d a b o s => d < 64 ∧ a < 64 ∧ b < 64 ∧ o < 4 ∧ s < 4
  | .amoDXor d a b o s => d < 64 ∧ a < 64 ∧ b < 64 ∧ o < 4 ∧ s < 4
  | .amoDMin d a b o s => d < 64 ∧ a < 64 ∧ b < 64 ∧ o < 4 ∧ s < 4
  | .amoDMax d a b o s => d < 64 ∧ a < 64 ∧ b < 64 ∧ o < 4 ∧ s < 4
  | .amoDMinn d a b o s => d < 64 ∧ a < 64 ∧ b < 64 ∧ o < 4 ∧ s < 4
  | .amoDMaxn d a b o s => d < 64 ∧ a < 64 ∧ b < 64 ∧ o < 4 ∧ s < 4
  | .amoDCas d a b o s => d < 64 ∧ a < 64 ∧ b < 64 ∧ o < 4 ∧ s < 4
  | .updAdd w a b => w < 2 ∧ a < 64 ∧ b < 64
  | .updAnd w a b => w < 2 ∧ a < 64 ∧ b < 64
  | .updOr w a b => w < 2 ∧ a < 64 ∧ b < 64
  | .updXor w a b => w < 2 ∧ a < 64 ∧ b < 64
  | .updMin w a b => w < 2 ∧ a < 64 ∧ b < 64
  | .updMax w a b => w < 2 ∧ a < 64 ∧ b < 64
  | .updFadd a b => a < 64 ∧ b < 64
  | .updFmin a b => a < 64 ∧ b < 64
  | .updFmax a b => a < 64 ∧ b < 64
  | .updFlush => True
  | .fence s k => s < 8 ∧ k < 4 ∧ (s ≤ 4)
  | .tlwait d a b l => d < 64 ∧ a < 64 ∧ b < 64 ∧ l < 16
  | .tlrd d a => d < 64 ∧ a < 64
  | .tntRd d a s => d < 64 ∧ a < 64 ∧ s < 64 ∧ (s ≤ 2 ∧ (s = 2 ∨ a = 0))
  | .tntSet a s => a < 64 ∧ s < 64 ∧ (s ≤ 1)
  | .tntClr a s => a < 64 ∧ s < 64 ∧ (s ≤ 1)
  | .tntChk a s => a < 64 ∧ s < 64 ∧ (s ≤ 1)
  | .send a b => a < 64 ∧ b < 64
  | .sendw a b => a < 64 ∧ b < 64
  | .recv d g => d < 64 ∧ g < 64 ∧ (g ≤ 3)
  | .rpoll d g => d < 64 ∧ g < 64 ∧ (g ≤ 3)
  | .radv g => g < 64 ∧ (g ≤ 3)
  | .dep a b => a < 64 ∧ b < 64
  | .tkrd d s => d < 64 ∧ s < 64 ∧ (s ≤ 2)
  | .tkal d a => d < 64 ∧ a < 64
  | .sync => True
  | .gsync => True
  | .rdone => True
  | .tpost a b => a < 64 ∧ b < 64
  | .tinc a b => a < 64 ∧ b < 64
  | .vfadd d a b n m => d < 64 ∧ a < 64 ∧ b < 64 ∧ n < 8 ∧ m < 4
  | .vfsub d a b n m => d < 64 ∧ a < 64 ∧ b < 64 ∧ n < 8 ∧ m < 4
  | .vfmul d a b n m => d < 64 ∧ a < 64 ∧ b < 64 ∧ n < 8 ∧ m < 4
  | .vfmin d a b n m => d < 64 ∧ a < 64 ∧ b < 64 ∧ n < 8 ∧ m < 4
  | .vfmax d a b n m => d < 64 ∧ a < 64 ∧ b < 64 ∧ n < 8 ∧ m < 4
  | .vfcsgn d a b n m => d < 64 ∧ a < 64 ∧ b < 64 ∧ n < 8 ∧ m < 4
  | .vfabs d a n m => d < 64 ∧ a < 64 ∧ n < 8 ∧ m < 4
  | .vfneg d a n m => d < 64 ∧ a < 64 ∧ n < 8 ∧ m < 4
  | .vfma d a b n m => d < 64 ∧ a < 64 ∧ b < 64 ∧ n < 8 ∧ m < 4
  | .vfms d a b n m => d < 64 ∧ a < 64 ∧ b < 64 ∧ n < 8 ∧ m < 4
  | .vfnma d a b n m => d < 64 ∧ a < 64 ∧ b < 64 ∧ n < 8 ∧ m < 4
  | .vfnms d a b n m => d < 64 ∧ a < 64 ∧ b < 64 ∧ n < 8 ∧ m < 4
  | .vfdiv d a b n m => d < 64 ∧ a < 64 ∧ b < 64 ∧ n < 8 ∧ m < 4
  | .vfsqrt d a n m => d < 64 ∧ a < 64 ∧ n < 8 ∧ m < 4
  | .vfclass d a n m => d < 64 ∧ a < 64 ∧ n < 8 ∧ m < 4
  | .vadd d a b n m => d < 64 ∧ a < 64 ∧ b < 64 ∧ n < 8 ∧ m < 4
  | .vsub d a b n m => d < 64 ∧ a < 64 ∧ b < 64 ∧ n < 8 ∧ m < 4
  | .vmul d a b n m => d < 64 ∧ a < 64 ∧ b < 64 ∧ n < 8 ∧ m < 4
  | .vmulh d a b n m => d < 64 ∧ a < 64 ∧ b < 64 ∧ n < 8 ∧ m < 4
  | .vmin d a b n m => d < 64 ∧ a < 64 ∧ b < 64 ∧ n < 8 ∧ m < 4
  | .vmax d a b n m => d < 64 ∧ a < 64 ∧ b < 64 ∧ n < 8 ∧ m < 4
  | .vminn d a b n m => d < 64 ∧ a < 64 ∧ b < 64 ∧ n < 8 ∧ m < 4
  | .vmaxn d a b n m => d < 64 ∧ a < 64 ∧ b < 64 ∧ n < 8 ∧ m < 4
  | .vand d a b n m => d < 64 ∧ a < 64 ∧ b < 64 ∧ n < 8 ∧ m < 4
  | .vor d a b n m => d < 64 ∧ a < 64 ∧ b < 64 ∧ n < 8 ∧ m < 4
  | .vxor d a b n m => d < 64 ∧ a < 64 ∧ b < 64 ∧ n < 8 ∧ m < 4
  | .vsll d a b n m => d < 64 ∧ a < 64 ∧ b < 64 ∧ n < 8 ∧ m < 4
  | .vsrl d a b n m => d < 64 ∧ a < 64 ∧ b < 64 ∧ n < 8 ∧ m < 4
  | .vsra d a b n m => d < 64 ∧ a < 64 ∧ b < 64 ∧ n < 8 ∧ m < 4
  | .vabs d a n m => d < 64 ∧ a < 64 ∧ n < 8 ∧ m < 4
  | .vsel d a b n m => d < 64 ∧ a < 64 ∧ b < 64 ∧ n < 8 ∧ m < 4
  | .vfeq d a b n m => d < 64 ∧ a < 64 ∧ b < 64 ∧ n < 8 ∧ m < 4
  | .vflt d a b n m => d < 64 ∧ a < 64 ∧ b < 64 ∧ n < 8 ∧ m < 4
  | .vfle d a b n m => d < 64 ∧ a < 64 ∧ b < 64 ∧ n < 8 ∧ m < 4
  | .vfun d a b n m => d < 64 ∧ a < 64 ∧ b < 64 ∧ n < 8 ∧ m < 4
  | .veq d a b n m => d < 64 ∧ a < 64 ∧ b < 64 ∧ n < 8 ∧ m < 4
  | .vlt d a b n m => d < 64 ∧ a < 64 ∧ b < 64 ∧ n < 8 ∧ m < 4
  | .vltn d a b n m => d < 64 ∧ a < 64 ∧ b < 64 ∧ n < 8 ∧ m < 4
  | .vle d a b n m => d < 64 ∧ a < 64 ∧ b < 64 ∧ n < 8 ∧ m < 4
  | .mand d a b n m => d < 64 ∧ a < 64 ∧ b < 64 ∧ n < 8 ∧ m < 4
  | .mor d a b n m => d < 64 ∧ a < 64 ∧ b < 64 ∧ n < 8 ∧ m < 4
  | .mxor d a b n m => d < 64 ∧ a < 64 ∧ b < 64 ∧ n < 8 ∧ m < 4
  | .mnot d a n m => d < 64 ∧ a < 64 ∧ n < 8 ∧ m < 4
  | .mpop d a n m => d < 64 ∧ a < 64 ∧ n < 8 ∧ m < 4
  | .mfirst d a n m => d < 64 ∧ a < 64 ∧ n < 8 ∧ m < 4
  | .msetl d a n m => d < 64 ∧ a < 64 ∧ n < 8 ∧ m < 4
  | .mmovMm d a n m => d < 64 ∧ a < 64 ∧ n < 8 ∧ m < 4
  | .mmovXm d a n m => d < 64 ∧ a < 64 ∧ n < 8 ∧ m < 4
  | .mmovMx d a n m => d < 64 ∧ a < 64 ∧ n < 8 ∧ m < 4
  | .vfsum d a n m => d < 64 ∧ a < 64 ∧ n < 8 ∧ m < 4
  | .vfrmax d a n m => d < 64 ∧ a < 64 ∧ n < 8 ∧ m < 4
  | .vfrmin d a n m => d < 64 ∧ a < 64 ∧ n < 8 ∧ m < 4
  | .vrsum d a n m => d < 64 ∧ a < 64 ∧ n < 8 ∧ m < 4
  | .vrmax d a n m => d < 64 ∧ a < 64 ∧ n < 8 ∧ m < 4
  | .vrmin d a n m => d < 64 ∧ a < 64 ∧ n < 8 ∧ m < 4
  | .vrand d a n m => d < 64 ∧ a < 64 ∧ n < 8 ∧ m < 4
  | .vror d a n m => d < 64 ∧ a < 64 ∧ n < 8 ∧ m < 4
  | .vsplat d a n m => d < 64 ∧ a < 64 ∧ n < 8 ∧ m < 4
  | .vslu d a b n m => d < 64 ∧ a < 64 ∧ b < 64 ∧ n < 8 ∧ m < 4
  | .vsld d a b n m => d < 64 ∧ a < 64 ∧ b < 64 ∧ n < 8 ∧ m < 4
  | .vperm d a b n m => d < 64 ∧ a < 64 ∧ b < 64 ∧ n < 8 ∧ m < 4
  | .vext d a b n m => d < 64 ∧ a < 64 ∧ b < 64 ∧ n < 8 ∧ m < 4
  | .vins d a b n m => d < 64 ∧ a < 64 ∧ b < 64 ∧ n < 8 ∧ m < 4
  | .vzip d a b n m => d < 64 ∧ a < 64 ∧ b < 64 ∧ n < 8 ∧ m < 4
  | .vunzip d a b n m => d < 64 ∧ a < 64 ∧ b < 64 ∧ n < 8 ∧ m < 4
  | .vrcp d a n m => d < 64 ∧ a < 64 ∧ n < 8 ∧ m < 4
  | .vrsq d a n m => d < 64 ∧ a < 64 ∧ n < 8 ∧ m < 4
  | .vex2 d a n m => d < 64 ∧ a < 64 ∧ n < 8 ∧ m < 4
  | .vlg2 d a n m => d < 64 ∧ a < 64 ∧ n < 8 ∧ m < 4
  | .vtanh d a n m => d < 64 ∧ a < 64 ∧ n < 8 ∧ m < 4
  | .vld d a b l n h => d < 64 ∧ a < 64 ∧ b < 64 ∧ l < 16 ∧ n < 8 ∧ h < 2
  | .vst s a b n m h => s < 64 ∧ a < 64 ∧ b < 64 ∧ n < 8 ∧ m < 4 ∧ h < 2
  | .vgather d a b l n => d < 64 ∧ a < 64 ∧ b < 64 ∧ l < 16 ∧ n < 8
  | .vscatter s a b n => s < 64 ∧ a < 64 ∧ b < 64 ∧ n < 8
  | .vcvt d a n m => d < 64 ∧ a < 64 ∧ n < 8 ∧ m < 4
  | .vpack d a b n m => d < 64 ∧ a < 64 ∧ b < 64 ∧ n < 8 ∧ m < 4
  | .vunpk d a h n m => d < 64 ∧ a < 64 ∧ h < 64 ∧ n < 8 ∧ m < 4 ∧ (h ≤ 1)
  | .vqnt d a b n m => d < 64 ∧ a < 64 ∧ b < 64 ∧ n < 8 ∧ m < 4
  | .vdqt d a b n m => d < 64 ∧ a < 64 ∧ b < 64 ∧ n < 8 ∧ m < 4
  | .vrotFwd d a n m => d < 64 ∧ a < 64 ∧ n < 8 ∧ m < 4
  | .vrotInv d a n m => d < 64 ∧ a < 64 ∧ n < 8 ∧ m < 4
  | .vscl d a n m => d < 64 ∧ a < 64 ∧ n < 8 ∧ m < 4
  | .pfx d a b t r s => d < 16 ∧ a < 16 ∧ b < 16 ∧ t < 16 ∧ r < 4 ∧ s < 2
  | .mld d a b => d < 64 ∧ a < 64 ∧ b < 64 ∧ (a = 0 ∨ d = 0)
  | .mldT d a b => d < 64 ∧ a < 64 ∧ b < 64 ∧ (a ≠ 0 ∧ d = 0)
  | .mswap => True
  | .mmac d a b => d < 64 ∧ a < 64 ∧ b < 64
  | .mmacz d a b => d < 64 ∧ a < 64 ∧ b < 64
  | .mst d a b => d < 64 ∧ a < 64 ∧ b < 64
  | .mrd d a b l => d < 64 ∧ a < 64 ∧ b < 64 ∧ l < 16
  | .mwr d a b => d < 64 ∧ a < 64 ∧ b < 64
  | .mzero d b => d < 64 ∧ b < 64
  | .ecpy d a b => d < 64 ∧ a < 64 ∧ b < 64
  | .ecpy2 d a b => d < 64 ∧ a < 64 ∧ b < 64
  | .estrm d a b => d < 64 ∧ a < 64 ∧ b < 64
  | .enode d a b => d < 64 ∧ a < 64 ∧ b < 64
  | .csrr d n => d < 64 ∧ n < 1024 ∧ (csrAssigned n = true)
  | .csrw a n => a < 64 ∧ n < 1024 ∧ (csrAssigned n = true ∧ csrReadOnly n = false)
  | .csrs a n => a < 64 ∧ n < 1024 ∧ (csrAssigned n = true ∧ csrReadOnly n = false)
  | .csrc a n => a < 64 ∧ n < 1024 ∧ (csrAssigned n = true ∧ csrReadOnly n = false)
  | .trap h l => h < 64 ∧ l < 64
  | .tret => True
  | .uret => True
  | .wfi => True
  | .halt => True
  | .frz a => a < 64
  | .brk h l => h < 64 ∧ l < 64
  | .mark a c => a < 64 ∧ c < 64
  | .route n e s w c l b q t => c < 16 ∧ l < 2 ∧ b < 2 ∧ q < 32 ∧ routeOk n e s w c l b q t = true
  | .rep n e s w c k => c < 16 ∧ k < 4096 ∧ repOk n e s w = true
  | .ring f i p => f < 32 ∧ i < 32 ∧ p < 65536 ∧ f + i + 1 ≤ 32
  | .jmp t => t < 2048
  | .bnz c t => c < 4 ∧ t < 2048
  | .setc c v => c < 4 ∧ v < 65536
  | .tkwt b v => b < 2 ∧ v < 65536
  | .bus b s r k => b < 2 ∧ s < 32 ∧ 1 ≤ r ∧ r ≤ 9 ∧ k < 4096
  | .switchHalt => True
  | .nop => True
  | .atomicComplete tile ctx => tile < 4096 ∧ ctx < 4
  | .updateMerge _ => True
  | .recvWake tile ctx => tile < 4096 ∧ ctx < 4
  | .tkalRelease tile ctx => tile < 4096 ∧ ctx < 4
  | .routineStart tile => tile < 4096
  | .mldExec tile => tile < 4096
  | .mswapExec tile => tile < 4096
  | .mmacExec tile => tile < 4096
  | .mmaczExec tile => tile < 4096
  | .mstExec tile => tile < 4096
  | .mrdExec tile => tile < 4096
  | .mwrExec tile => tile < 4096
  | .mzeroExec tile => tile < 4096
  | .tokenPass die => die < 4
  | .burstEnd tile => tile < 4096
  | .ecpyExec eng ctx => eng < 48 ∧ ctx < 8
  | .ecpy2Exec eng ctx => eng < 48 ∧ ctx < 8
  | .estrmExec eng ctx => eng < 48 ∧ ctx < 8
  | .nodeFire eng ctx node => eng < 48 ∧ ctx < 8 ∧ node < 16
  | .engineCommandComplete eng ctx => eng < 48 ∧ ctx < 8
  | .hashdomWrite dom _ => dom < 16
  | .hashdomWriteComplete dom => dom < 16
  | .rehomeReply _ => True
  | .asidon => True
  | .asidoff => True
  | .map => True
  | .mapreq => True
  | .unmap => True
  | .migrate => True
  | .query => True
  | .presp => True
  | .wfiWake tile ctx => tile < 4096 ∧ ctx < 4
  | .longLatencyLanding tile ctx _ => tile < 4096 ∧ ctx < 4
  | .commitPoint tile ctx => tile < 4096 ∧ ctx < 4
  | .storeConfirm tile _ => tile < 4096
  | .storeEntryFault tile _ => tile < 4096
  | .raceCheckReply tile ctx => tile < 4096 ∧ ctx < 4
  | .l2Fill _ => True
  | .retryReissue _ => True
  | .walk _ => True
  | .pageRequestRecordWrite ctl slot => ctl < 12 ∧ slot < 64
  | .migrationCopyLine ctl _ _ => ctl < 12
  | .remoteStoreLand _ => True
  | .sendArrive _ => True
  | .sendwArrive _ => True
  | .depositArrive _ => True
  | .msgAck _ => True
  | .interruptPacketArrive _ => True
  | .interruptTake tile ctx => tile < 4096 ∧ ctx < 4
  | .scWindowResolve _ => True
  | .firstBarrierComplete _ => True
  | .exchangeEntrySend tile => tile < 4096
  | .exchangeWriteLand _ => True
  | .secondBarrierComplete _ => True
  | .bankSwap tile => tile < 4096
  | .groupBarrierComplete _ _ => True
  | .fpxCollection _ _ => True
  | .wdog _ => True
  | .throughLaneForward tile _ => tile < 4096
  | .edgeFlitArrive _ => True
  | .holdArrive _ => True
  | .tickUpdateSend die => die < 4
  | .tickUpdateArrive _ => True
  | .register queue => queue < 64
  | .unregister queue => queue < 64
  | .launch queue => queue < 64
  | .makeReady _ => True
  | .stop queue => queue < 64
  | .preempt queue => queue < 64
  | .contextSave _ => True
  | .resume queue => queue < 64
  | .kill queue => queue < 64
  | .copy queue => queue < 64
  | .mapcmd queue => queue < 64
  | .nopRecord queue => queue < 64
  | .intr queue => queue < 64
  | .hqtailWrite queue _ => queue < 64
  | .recordFetch queue => queue < 64
  | .recordAccept queue => queue < 64
  | .tailwordPoll queue => queue < 64
  | .queueEnable queue _ => queue < 64
  | .queueDestroy queue => queue < 64
  | .attgo => True
  | .barRegisterWrite off _ => off < 0x100000 ∧ off % 8 = 0
  | .traceFrameWrite tile => tile < 4096
  | .functionLevelReset => True
  | .powerOn => True
  | .clusterRamp die => die < 4
  | .thermalThrottle die => die < 4
  | .throttleClear die => die < 4
  | .thermalFatal die => die < 4
  | .uncorrectableError _ => True
  | .scrub _ => True
  | .linkDown port => port < 16
  | .localTick die => die < 4
  | .eventRecordWrite => True
  | .rangeOperationComplete tile ctx => tile < 4096 ∧ ctx < 4
  | .tlrdReply tile ctx => tile < 4096 ∧ ctx < 4
  | .taintLineReadReply tile ctx => tile < 4096 ∧ ctx < 4
  | .rollbackCounterRaise _ => True

/-- The instruction encodes to a word, and its operands are at values that the word can hold. -/
def Instr.Encodable (i : Instr) : Prop := i.WellFormed ∧ (encode i).isSome = true

end Sys2Proof
end

