-- ==== Sys2Proof/Certificates/Slice0/Obligations.lean ====
section
/-! DEFINITION. The statements about the model, for the provers. Each docstring names the rules of the spec that the
statement formalises; a clause that rests on a choice of the model says so and names its log entry.

Shared shapes: `Gives i f` says that instruction i, wherever it issues, takes the effect f and is followed in sequence;
`Jumps` the same for a transfer; `Answers` that a meaning answers a next state of which something holds. -/

namespace Sys2Proof.Claims

open Sys2Proof.Machine Sys2Proof.Safety

/-! ### Shapes of statements -/

/-- The meaning answers a next state, and the state satisfies P. -/
def Answers (i : Instr) (s : State) (P : State → Prop) : Prop := ∃ t, exec i s = .next t ∧ P t

/-- Wherever i issues, it takes the effect f and control passes to the next word in sequence. -/
def Gives (i : Instr) (f : State → State) : Prop := ∀ s, Issues i s → exec i s = .next (followed i s (f s))

/-- Wherever i issues in a state with H, it takes the effect f and control passes to the next word in sequence. -/
def GivesIf (i : Instr) (H : State → Prop) (f : State → State) : Prop :=
  ∀ s, Issues i s → H s → exec i s = .next (followed i s (f s))

/-- The two ticks after a taken transfer are charged to ISSUE (R73, R411). -/
def taken (t : State) : State := t.onTile (fun u => { u with bubble := 2 })

/-- The state after a transfer of control to `a`: PC there, the loops that do not hold it left (R86), windows counted. -/
def jumped (i : Instr) (s t : State) (a : Word) : State :=
  taken ((t.onCtx (fun c => { c with pc := a, loops := loopsAfterJump a c.loops })).retire (instrShape i).isPfx s.ctx.nextWin)

/-- The state after an instruction that has been sent and whose context waits for an event: the core has issued in this
tick (R411). -/
def sent (t : State) : State := t.onTile (fun u => { u with issued := true, bubble := 0 })

/-- The state after an effect that has set PC and the loop contexts itself. -/
def placedAt (i : Instr) (s t : State) : State := t.retire (instrShape i).isPfx s.ctx.nextWin

/-! ### Scalar results -/

/-- The result of one scalar source is written to D, tainted where the source is. -/
def unary (d a : Nat) (f : Word → Word) (s : State) : State :=
  let ra := s.readXs a
  ra.2.2.writeXd d (f ra.1) ra.2.1

/-- The result of two scalar sources, A read first, is written to D, tainted where a source is. -/
def binary (d a b : Nat) (f : Word → Word → Word) (s : State) : State :=
  let ra := s.readXs a
  let rb := ra.2.2.readXs b
  rb.2.2.writeXd d (f ra.1 rb.1) (ra.2.1 || rb.2.1)

/-- 1 where the relation holds, else 0. -/
def one (p : Prop) [Decidable p] : Word := if p then 1 else 0

/-- The low 32 bits. -/
def low (x : Word) : Lane := x.extractLsb' 0 32

/-- n is the number of leading zero bits of x. -/
def LeadingZeros (x : Word) (n : Nat) : Prop :=
  n ≤ 64 ∧ (∀ i < n, x.getLsbD (63 - i) = false) ∧ (n < 64 → x.getLsbD (63 - n) = true)

/-- n is the number of trailing zero bits of x. -/
def TrailingZeros (x : Word) (n : Nat) : Prop :=
  n ≤ 64 ∧ (∀ i < n, x.getLsbD i = false) ∧ (n < 64 → x.getLsbD n = true)

/-- The number of 1 bits of x. -/
def onesOf (x : Word) : Nat := ((List.range 64).filter (fun i => x.getLsbD i)).length

/-- Byte i of y is byte 7 − i of x. -/
def Swapped (x y : Word) : Prop := ∀ i < 8, y.extractLsb' (8 * i) 8 = x.extractLsb' (8 * (7 - i)) 8

/-- A one-source instruction whose result is known by a relation. -/
def UnaryBy (i : Instr) (d a : Nat) (R : Word → Word → Prop) : Prop :=
  ∃ f : Word → Word, (∀ x, R x (f x)) ∧ Gives i (unary d a f)

/-- The word of four fields from bits 26, 20, 14 and 0 on (formats I, B and R, Tables 2-4 to 2-6). -/
def word4 (op d a k : Nat) : Nat := op * 2 ^ 26 + d * 2 ^ 20 + a * 2 ^ 14 + k

/-- The word encodes no instruction: it is ILLOP (R60, StepRunsTheInstruction). -/
def Illegal (w : Nat) : Prop := ∃ x, decode w = .error x

end Sys2Proof.Claims

open Sys2Proof Sys2Proof.Machine Sys2Proof.Safety Sys2Proof.Claims

/-! ### Scalar arithmetic -/

/-- R74, Table 3-4, the two-source rows: wherever the instruction issues it writes the value of the table to D and passes on;
A is read before B and both before D, and the result is tainted where a source is (R71). Covers add, sub, and, or, xor,
andn, orn, sll, srl, sra, slt, sltn, min, max, minn, maxn, addw, subw, sllw, srlw, sraw, czero with every operand form:
x registers, input ports, deposit registers, output ports. -/
def Sys2Proof.Claims.AluTwoSourceResults : Prop :=
  ∀ d a b : Nat,
    Gives (.add d a b) (binary d a b (fun x y => x + y)) ∧
    Gives (.sub d a b) (binary d a b (fun x y => x - y)) ∧
    Gives (.and d a b) (binary d a b (fun x y => x &&& y)) ∧
    Gives (.or d a b) (binary d a b (fun x y => x ||| y)) ∧
    Gives (.xor d a b) (binary d a b (fun x y => x ^^^ y)) ∧
    Gives (.andn d a b) (binary d a b (fun x y => x &&& ~~~y)) ∧
    Gives (.orn d a b) (binary d a b (fun x y => x ||| ~~~y)) ∧
    Gives (.sll d a b) (binary d a b (fun x y => BitVec.ofNat 64 (x.toNat * 2 ^ y.toNat))) ∧
    Gives (.srl d a b) (binary d a b (fun x y => BitVec.ofNat 64 (x.toNat / 2 ^ y.toNat))) ∧
    Gives (.sra d a b) (binary d a b (fun x y => BitVec.ofInt 64 (x.toInt / 2 ^ min y.toNat 63))) ∧
    Gives (.slt d a b) (binary d a b (fun x y => one (x.toInt < y.toInt))) ∧
    Gives (.sltn d a b) (binary d a b (fun x y => one (x.toNat < y.toNat))) ∧
    Gives (.min d a b) (binary d a b (fun x y => BitVec.ofInt 64 (min x.toInt y.toInt))) ∧
    Gives (.max d a b) (binary d a b (fun x y => BitVec.ofInt 64 (max x.toInt y.toInt))) ∧
    Gives (.minn d a b) (binary d a b (fun x y => BitVec.ofNat 64 (min x.toNat y.toNat))) ∧
    Gives (.maxn d a b) (binary d a b (fun x y => BitVec.ofNat 64 (max x.toNat y.toNat))) ∧
    Gives (.addw d a b) (binary d a b (fun x y => (low (x + y)).signExtend 64)) ∧
    Gives (.subw d a b) (binary d a b (fun x y => (low (x - y)).signExtend 64)) ∧
    Gives (.sllw d a b) (binary d a b (fun x y => (BitVec.ofNat 32 ((low x).toNat * 2 ^ y.toNat)).signExtend 64)) ∧
    Gives (.srlw d a b) (binary d a b (fun x y => (BitVec.ofNat 32 ((low x).toNat / 2 ^ y.toNat)).signExtend 64)) ∧
    Gives (.sraw d a b) (binary d a b (fun x y => BitVec.ofInt 64 ((low x).toInt / 2 ^ min y.toNat 31))) ∧
    Gives (.czero d a b) (binary d a b (fun x y => if y = 0 then 0 else x))

/-- R74, Table 3-4, the one-source rows clz, ctz, popc and bswap. -/
def Sys2Proof.Claims.AluOneSourceResults : Prop :=
  ∀ d a : Nat,
    UnaryBy (.clz d a) d a (fun x y => LeadingZeros x y.toNat) ∧
    UnaryBy (.ctz d a) d a (fun x y => TrailingZeros x y.toNat) ∧
    UnaryBy (.popc d a) d a (fun x y => y.toNat = onesOf x) ∧
    UnaryBy (.bswap d a) d a Swapped

/-- R75, R76 and R77, Tables 3-5 and 3-6: the immediate forms. IMM14 is sign-extended, but for sltni, which takes it
zero-extended; lui and adpc shift the sign-extended IMM20 left by 14 and are untainted but for CTNT. -/
def Sys2Proof.Claims.AluImmediateResults : Prop :=
  ∀ d a k : Nat,
    Gives (.addi d a k) (unary d a (fun x => x + (BitVec.ofNat 14 k).signExtend 64)) ∧
    Gives (.andi d a k) (unary d a (fun x => x &&& (BitVec.ofNat 14 k).signExtend 64)) ∧
    Gives (.ori d a k) (unary d a (fun x => x ||| (BitVec.ofNat 14 k).signExtend 64)) ∧
    Gives (.xori d a k) (unary d a (fun x => x ^^^ (BitVec.ofNat 14 k).signExtend 64)) ∧
    Gives (.slti d a k) (unary d a (fun x => one (x.toInt < (BitVec.ofNat 14 k).toInt))) ∧
    Gives (.sltni d a k) (unary d a (fun x => one (x.toNat < k % 2 ^ 14))) ∧
    Gives (.addiw d a k) (unary d a (fun x => (low (x + (BitVec.ofNat 14 k).signExtend 64)).signExtend 64)) ∧
    (k < 64 → Gives (.slli d a k) (unary d a (fun x => x <<< k))) ∧
    (k < 64 → Gives (.srli d a k) (unary d a (fun x => x >>> k))) ∧
    (k < 64 → Gives (.srai d a k) (unary d a (fun x => x.sshiftRight k))) ∧
    Gives (.lui d k) (fun s => s.writeXd d ((BitVec.ofNat 20 k).signExtend 64 <<< 14) false) ∧
    Gives (.adpc d k) (fun s => s.writeXd d (s.ctx.pc + (BitVec.ofNat 20 k).signExtend 64 <<< 14) false)

/-- R74 to R77, Tables 3-3, 3-5 and 2-9: the words of scalar arithmetic, with every value of every field: D in bits 25:20, A in
19:14, B in 13:8 and F in 7:0; IMM14 in 13:0; IMM20 in 19:0. A B of clz, ctz, popc or bswap that is not 0, a function that
is not listed, a SHI function of 0 and a SHI word with bits 11:6 not 0 encode nothing. -/
def Sys2Proof.Claims.AluEncodings : Prop :=
  (∀ d a b, d < 64 → a < 64 → b < 64 →
    (∀ r ∈ ([
      (1, .add d a b), (2, .sub d a b), (3, .and d a b), (4, .or d a b), (5, .xor d a b), (6, .andn d a b), (7, .orn d a b),
      (8, .sll d a b), (9, .srl d a b), (10, .sra d a b), (11, .slt d a b), (12, .sltn d a b), (13, .min d a b),
      (14, .max d a b), (15, .minn d a b), (16, .maxn d a b), (21, .addw d a b), (22, .subw d a b), (23, .sllw d a b),
      (24, .srlw d a b), (25, .sraw d a b), (26, .czero d a b)] : List (Nat × Instr)),
      decode (word4 0 d a (b * 256 + r.1)) = .ok r.2) ∧
    (∀ r ∈ ([(17, .clz d a), (18, .ctz d a), (19, .popc d a), (20, .bswap d a)] : List (Nat × Instr)),
      decode (word4 0 d a r.1) = .ok r.2 ∧ (b ≠ 0 → Illegal (word4 0 d a (b * 256 + r.1)))) ∧
    (∀ f < 256, f = 0 ∨ 27 ≤ f → Illegal (word4 0 d a (b * 256 + f)))) ∧
  (∀ d a k, d < 64 → a < 64 → k < 2 ^ 14 →
    (∀ r ∈ ([
      (1, .addi d a k), (2, .andi d a k), (3, .ori d a k), (4, .xori d a k), (5, .slti d a k), (6, .sltni d a k),
      (7, .addiw d a k)] : List (Nat × Instr)),
      decode (word4 r.1 d a k) = .ok r.2) ∧
    (k < 64 → decode (word4 8 d a (1 * 2 ^ 12 + k)) = .ok (.slli d a k) ∧ decode (word4 8 d a (2 * 2 ^ 12 + k)) = .ok (.srli d a k) ∧
      decode (word4 8 d a (3 * 2 ^ 12 + k)) = .ok (.srai d a k)) ∧
    (k / 2 ^ 12 = 0 ∨ k / 64 % 64 ≠ 0 → Illegal (word4 8 d a k))) ∧
  (∀ d k, d < 64 → k < 2 ^ 20 →
    decode (9 * 2 ^ 26 + d * 2 ^ 20 + k) = .ok (.lui d k) ∧ decode (10 * 2 ^ 26 + d * 2 ^ 20 + k) = .ok (.adpc d k))

/-- Scalar arithmetic: every word of ALU, the immediates, SHI, lui and adpc, and the value each gives: AluTwoSourceResults,
AluOneSourceResults, AluImmediateResults and AluEncodings together. States R74, R75, R76, R77 whole. -/
def Obligations.ScalarArithmeticResults : Prop := AluTwoSourceResults ∧ AluOneSourceResults ∧ AluImmediateResults ∧ AluEncodings

/-! ### Rounding -/

namespace Sys2Proof.Claims

/-- The number that the code c of a format, its sign bit 0, stands for (Table 9-1): a fraction at the lowest exponent, or with
a leading 1. -/
def magnitude (t : Fmt) (c : Nat) : ℚ :=
  (if c / 2 ^ t.f = 0 then ((c % 2 ^ t.f : Nat) : ℚ) else ((2 ^ t.f + c % 2 ^ t.f : Nat) : ℚ)) *
    (2 : ℚ) ^ ((max (c / 2 ^ t.f) 1 : Int) - (2 ^ (t.e - 1) - 1 : Nat) - t.f)

/-- The codes of magnitudes below that of infinity. -/
def Magnitude (t : Fmt) (c : Nat) : Prop := c < (2 ^ t.e - 1) * 2 ^ t.f

/-- The code v of a format stands for the number x. -/
def StandsFor (t : Fmt) (v : Nat) (x : ℝ) : Prop :=
  ∃ c, Magnitude t c ∧ ((v = c ∧ x = magnitude t c) ∨ (v = 2 ^ (t.f + t.e) + c ∧ x = -(magnitude t c : ℝ)))

/-- The direction in which a mode of Table 2-8 (0 RNE, 1 RTZ, 2 RDN, 3 RUP) rounds the magnitude of a number: 0 to the nearest,
1 down, 2 up. -/
def Direction (rnd : Nat) (q : ℝ) (d : Nat) : Prop :=
  (rnd = 0 ∧ d = 0) ∨ (d = 1 ∧ (rnd = 1 ∨ (rnd = 2 ∧ 0 < q) ∨ (rnd = 3 ∧ q < 0))) ∨ (d = 2 ∧ ((rnd = 2 ∧ q < 0) ∨ (rnd = 3 ∧ 0 < q)))

/-- The magnitude c is the rounding of x: of the nearest ones, the even where two are as near; the largest not above x; the
smallest not below x. -/
def Closest (t : Fmt) (d : Nat) (x : ℝ) (c : Nat) : Prop :=
  Magnitude t c ∧
  (d = 0 → ∀ k, Magnitude t k → |x - magnitude t c| ≤ |x - magnitude t k| ∧ (|x - magnitude t k| = |x - magnitude t c| → k = c ∨ c % 2 = 0)) ∧
  (d = 1 → magnitude t c ≤ x ∧ ∀ k, Magnitude t k → magnitude t k ≤ x → magnitude t k ≤ magnitude t c) ∧
  (d = 2 → x ≤ magnitude t c ∧ ∀ k, Magnitude t k → x ≤ magnitude t k → magnitude t c ≤ magnitude t k)

/-- 2^n less some of the last places of a number just below it. -/
def below (t : Fmt) (n : Int) (places : ℚ) : ℚ := (2 : ℚ) ^ n * (1 - places / 2 ^ (t.f + 1))

/-- x rounds, with no bound on the exponent, to 2^n or more, for n one above the largest exponent: it overflows. -/
def Reaches (t : Fmt) (n : Int) (d : Nat) (x : ℝ) : Prop :=
  (d = 0 ∧ below t n (1 / 2) ≤ x) ∨ (d = 1 ∧ below t n 0 ≤ x) ∨ (d = 2 ∧ below t n 1 < x)

/-- R253: r is the code and the flags of the number q other than 0, rounded once to a format. Within the range it is q where the
format has q, and else the rounding of q with NX, and with UF where q, so rounded with no bound on the exponent, is below the
smallest normal number. Beyond it, with OF and NX, it is infinity or the largest number by the direction (o = 0, IEEE 754); the
largest number (o = 1) or the canonical NaN (o = 2), as Table 8-16 has it for the narrower type of a conversion. -/
def Rounds (t : Fmt) (rnd o : Nat) (q : ℝ) (r : Nat × FpFlags) : Prop :=
  let top : Int := 2 ^ (t.e - 1)
  let low : Int := 2 - 2 ^ (t.e - 1)
  let sign := fun c : Nat => (0 < q → r.1 = c) ∧ (q < 0 → r.1 = 2 ^ (t.f + t.e) + c)
  ∀ d, Direction rnd q d →
    (Reaches t top d |q| → r.2 = fOF ||| fNX ∧
      (o = 0 → d ≠ 1 → sign ((2 ^ t.e - 1) * 2 ^ t.f)) ∧ (o = 1 ∨ (o = 0 ∧ d = 1) → sign ((2 ^ t.e - 1) * 2 ^ t.f - 1)) ∧
      (o = 2 → r.1 = t.qnan)) ∧
    (¬ Reaches t top d |q| → ∃ c, Closest t d |q| c ∧ sign c ∧
      (magnitude t c = |q| → r.2 = fNone) ∧
      ((magnitude t c : ℝ) ≠ |q| → (Reaches t low d |q| → r.2 = fNX) ∧ (¬ Reaches t low d |q| → r.2 = fUF ||| fNX)))

/-- The zero of a format with a sign, and no flag. -/
def IsZero (t : Fmt) (neg : Prop) (r : Nat × FpFlags) : Prop :=
  r.2 = fNone ∧ (neg → r.1 = 2 ^ (t.f + t.e)) ∧ (¬ neg → r.1 = 0)

/-- The code has its sign bit set. -/
def Negative (t : Fmt) (v : Nat) : Prop := 2 ^ (t.f + t.e) ≤ v

end Sys2Proof.Claims

/-- R252 and R253, Tables 8-10 and 8-16: what the operations of the float instructions give, said of the numbers that their
operands stand for and of no operation of the model. In f32, f16 and bf16 and every rounding mode, a sum, product, fused
product and sum, quotient by a number other than 0 and square root of a positive number is the exact number rounded once,
with the flags of that rounding; an exact zero takes the sign that IEEE 754 gives it. So are 1 / A and 1 / √A of VSFU (f32,
to nearest even), the conversions between float types, from integers and to them, and one chunk of a product of the matrix unit
(R303, R304): the sum of the accumulator and finite products, rounded once to nearest even. How far the other functions of VSFU are
so rounded is log entry 6. -/
def Obligations.FloatOperationsRound : Prop :=
  (∀ (t : Fmt) (rnd : Nat) (u v w : Nat) (x y z : ℝ), t ∈ [fmtF32, fmtF16, fmtBf16] → rnd < 4 →
    StandsFor t u x → StandsFor t v y → StandsFor t w z →
    let opposite := ¬ (Negative t u ↔ Negative t v)
    (x + y ≠ 0 → Rounds t rnd 0 (x + y) (fAdd t rnd (t.decode u) (t.decode v))) ∧
    (x + y = 0 → IsZero t ((Negative t u ∧ Negative t v) ∨ (opposite ∧ rnd = 2)) (fAdd t rnd (t.decode u) (t.decode v))) ∧
    (x * y ≠ 0 → Rounds t rnd 0 (x * y) (fMul t rnd (t.decode u) (t.decode v))) ∧
    (x * y = 0 → IsZero t opposite (fMul t rnd (t.decode u) (t.decode v))) ∧
    (x * y + z ≠ 0 → Rounds t rnd 0 (x * y + z) (fFma t rnd (t.decode u) (t.decode v) (t.decode w))) ∧
    (x * y + z = 0 → IsZero t ((opposite ∧ Negative t w) ∨ (¬ (opposite ↔ Negative t w) ∧ rnd = 2))
      (fFma t rnd (t.decode u) (t.decode v) (t.decode w))) ∧
    (x ≠ 0 → y ≠ 0 → Rounds t rnd 0 (x / y) (fDiv t rnd (t.decode u) (t.decode v))) ∧
    (x = 0 → y ≠ 0 → IsZero t opposite (fDiv t rnd (t.decode u) (t.decode v))) ∧
    (0 < x → Rounds t rnd 0 (Real.sqrt x) (fSqrt t rnd (t.decode u))) ∧
    (x = 0 → IsZero t (Negative t u) (fSqrt t rnd (t.decode u)))) ∧
  (∀ (v : Nat) (x : ℝ), StandsFor fmtF32 v x →
    (x ≠ 0 → Rounds fmtF32 0 0 (1 / x) (sfRcp (fmtF32.decode v))) ∧
    (0 < x → Rounds fmtF32 0 0 (1 / Real.sqrt x) (sfRsq (fmtF32.decode v)))) ∧
  (∀ (t : Fmt) (rnd : Nat) (sat : Bool), t ∈ [fmtF32, fmtF16, fmtBf16] → rnd < 4 →
    let o := if sat = true then 2 else 1
    (∀ (r : Fmt) (v : Nat) (x : ℝ), r ∈ [fmtF32, fmtF16, fmtBf16] → StandsFor r v x →
      (x ≠ 0 → Rounds t rnd o x (convert (.flt r) (.flt t) rnd sat v)) ∧
      (x = 0 → IsZero t (Negative r v) (convert (.flt r) (.flt t) rnd sat v))) ∧
    (∀ (w : Nat) (sg : Bool) (v : Nat), w ∈ [8, 16, 32] → v < 2 ^ w →
      let i : Int := if sg = true ∧ 2 ^ (w - 1) ≤ v then (v : Int) - 2 ^ w else v
      (i ≠ 0 → Rounds t rnd o (i : ℝ) (convert (.int w sg) (.flt t) rnd sat v)) ∧
      (i = 0 → IsZero t False (convert (.int w sg) (.flt t) rnd sat v)))) ∧
  (∀ (acc : Lane) (x : ℝ) (ps : List (Bool × Nat × Int)), StandsFor fmtF32 acc.toNat x →
    let q : ℝ := x + (ps.map (fun p => (if p.1 then -1 else 1 : ℝ) * p.2.1 * (2 : ℝ) ^ p.2.2)).sum
    let r := (chunkSum acc (ps.map (fun p => .fin p.1 p.2.1 p.2.2))).toNat
    (q ≠ 0 → ∃ flags, Rounds fmtF32 0 0 q (r, flags)) ∧
    (q = 0 → IsZero fmtF32 (Negative fmtF32 acc.toNat ∧ ∀ p ∈ ps, p.1 = true ∧ p.2.1 = 0) (r, fNone))) ∧
  (∀ (t : Fmt) (rnd w : Nat) (sg sat : Bool) (v : Nat) (x : ℝ), t ∈ [fmtF32, fmtF16, fmtBf16] → rnd < 4 → w ∈ [8, 16, 32] → StandsFor t v x →
    let least : Int := if sg = true then -2 ^ (w - 1) else 0
    let most : Int := if sg = true then 2 ^ (w - 1) - 1 else 2 ^ w - 1
    let code := fun i : Int => (i % 2 ^ w).toNat
    ∀ i : Int, (rnd = 0 → |x - i| ≤ 1 / 2 ∧ (|x - i| = 1 / 2 → i % 2 = 0)) → (rnd = 1 → i = if 0 ≤ x then ⌊x⌋ else ⌈x⌉) →
      (rnd = 2 → i = ⌊x⌋) → (rnd = 3 → i = ⌈x⌉) →
      let r := convert (.flt t) (.int w sg) rnd sat v
      (least ≤ i → i ≤ most → r.1 = code i ∧ ((i : ℝ) = x → r.2 = fNone) ∧ ((i : ℝ) ≠ x → r.2 = fNX)) ∧
      (i < least → r = (code least, fNV)) ∧ (most < i → r = (code most, fNV)))

/-- A long-latency instruction of two scalar sources, read at issue: the window of its result, L instructions long, opens
with the value bound (R51, R78). -/
def Sys2Proof.Claims.opens (d a b l : Nat) (f : Word → Word → Word) (aux : Word) (s : State) : State :=
  let ra := s.readXs a
  let rb := ra.2.2.readXs b
  let t := ra.2.1 || rb.2.1
  rb.2.2.openWindow l d false .value (.bound (f ra.1 rb.1) t) t 0 aux

/-- The quotient rounded toward zero and the exact remainder as n-bit signed numbers, a quotient of 2^(n−1) saturated
(Table 3-8). -/
def Sys2Proof.Claims.squo (n : Nat) (x y : Int) : Int := if y = 0 then 0 else min (x.tdiv y) (2 ^ (n - 1) - 1)

/-- R78, Table 3-8, the products: wherever one issues, its operands are read and a window opens on D with the value of the
table. The result lands by LONG_LATENCY_LANDING (BoundResultLandsAndCloses). -/
def Sys2Proof.Claims.ProductsOpenTheirWindow : Prop :=
  ∀ d a b l : Nat,
    Gives (.mul d a b l) (opens d a b l (fun x y => BitVec.ofNat 64 (x.toNat * y.toNat)) 0) ∧
    Gives (.mulh d a b l) (opens d a b l (fun x y => BitVec.ofInt 64 (x.toInt * y.toInt / 2 ^ 64)) 0) ∧
    Gives (.mulhn d a b l) (opens d a b l (fun x y => BitVec.ofNat 64 (x.toNat * y.toNat / 2 ^ 64)) 0) ∧
    Gives (.mulhsn d a b l) (opens d a b l (fun x y => BitVec.ofInt 64 (x.toInt * (y.toNat : Int) / 2 ^ 64)) 0) ∧
    Gives (.mulw d a b l) (opens d a b l (fun x y => (BitVec.ofNat 32 ((low x).toNat * (low y).toNat)).signExtend 64) 0)

/-- R73 and R78, Table 3-8, the divides and remainders: where the tile's divider is free, one reads its operands, opens a
window on D with the value of the table and takes the divider; where it is busy the context waits and nothing else
changes. A zero divisor and the overflow cases give the stated values and no trap. -/
def Sys2Proof.Claims.DividesOpenTheirWindow : Prop :=
  ∀ (d a b l : Nat) (i : Instr) (f : Word → Word → Word),
    (i, f) ∈ ([
      (.div d a b l, fun x y => BitVec.ofInt 64 (squo 64 x.toInt y.toInt)),
      (.divn d a b l, fun x y => BitVec.ofNat 64 (x.toNat / y.toNat)),
      (.rem d a b l, fun x y => BitVec.ofInt 64 (x.toInt.tmod y.toInt)),
      (.remn d a b l, fun x y => BitVec.ofNat 64 (x.toNat % y.toNat)),
      (.divw d a b l, fun x y => BitVec.ofInt 64 (squo 32 (low x).toInt (low y).toInt)),
      (.divnw d a b l, fun x y => (BitVec.ofNat 32 ((low x).toNat / (low y).toNat)).signExtend 64)] : List (Instr × (Word → Word → Word))) →
    ∀ s, Issues i s →
      (s.tile.divBusy = false → exec i s = .next (followed i s ((opens d a b l f 1 s).onTile (fun t => { t with divBusy := true })))) ∧
      (s.tile.divBusy = true → exec i s = .next (s.stall .muldiv))

/-- R78, Table 3-7: the words of multiplication and division, with every value of every field; F of 0 or from 12 on encodes
nothing. -/
def Sys2Proof.Claims.MulDivEncodings : Prop :=
  ∀ d a b l, d < 64 → a < 64 → b < 64 → l < 16 →
    (∀ r ∈ ([
      (1, .mul d a b l), (2, .mulh d a b l), (3, .mulhn d a b l), (4, .mulhsn d a b l), (5, .div d a b l),
      (6, .divn d a b l), (7, .rem d a b l), (8, .remn d a b l), (9, .mulw d a b l), (10, .divw d a b l),
      (11, .divnw d a b l)] : List (Nat × Instr)),
      decode (word4 11 d a (b * 256 + l * 16 + r.1)) = .ok r.2) ∧
    (∀ f < 16, f = 0 ∨ 12 ≤ f → Illegal (word4 11 d a (b * 256 + l * 16 + f)))

/-- R51, R53 and R73: LONG_LATENCY_LANDING of a window whose value is bound. The value lands; a window with no instruction
left closes with it and writes its scalar destination, unless a later window of that destination has closed first (log
entry 5), and leaves; a divide gives the divider back. -/
def Sys2Proof.Claims.BoundResultLandsAndCloses : Prop :=
  ∀ (s : State) (p : Nat) (c : Fin 4) (w : Window) (v : Word) (x : Bool),
    (s.tileAt p).isSome = true → (s.tileD p).ctxs[c].wins = [w] → w.st = .bound v x → w.rem = 0 → w.vec = false →
    w.written = 0 → w.dst < 32 →
    Answers (.longLatencyLanding p c.val w.id) s (fun t =>
      (t.tileD p).ctxs[c].wins = [] ∧
      ((t.tileD p).ctxs[c].readX w.dst).1 = (if w.dst = 0 then 0 else v) ∧
      (∀ r, r ≠ w.dst → (t.tileD p).ctxs[c].readX r = (s.tileD p).ctxs[c].readX r) ∧
      (w.kind = .value → w.aux = 1 → (t.tileD p).divBusy = false))

/-- Multiplication and division: words, values, windows, landing and close: ProductsOpenTheirWindow, DividesOpenTheirWindow,
BoundResultLandsAndCloses and MulDivEncodings together. States R78 whole. -/
def Obligations.LongLatencyResults : Prop := ProductsOpenTheirWindow ∧ DividesOpenTheirWindow ∧ BoundResultLandsAndCloses ∧ MulDivEncodings

/-! ### Control -/

/-- A conditional branch: its operands are read, control taint follows a tainted one (R71, R81), and control passes to
PC + 4 × sext(OFF14, 14) where the condition holds, else to the next word in sequence. -/
def Sys2Proof.Claims.Branches (i : Instr) (a b o : Nat) (c : Word → Word → Bool) : Prop :=
  ∀ s, Issues i s →
    let ra := s.readXs a
    let rb := ra.2.2.readXs b
    let s1 := if ra.2.1 || rb.2.1 then rb.2.2.onCtx (fun c => c.setStat stCTNT true) else rb.2.2
    exec i s = .next (if c ra.1 rb.1 then jumped i s s1 (s.ctx.pc + 4 * (BitVec.ofNat 14 o).signExtend 64) else followed i s s1)

/-- R79 and R81, Table 3-9: the six conditional branches, taken and not taken, with every operand form. -/
def Sys2Proof.Claims.BranchResults : Prop :=
  ∀ a b o : Nat,
    Branches (.beq a b o) a b o (fun x y => decide (x = y)) ∧
    Branches (.bne a b o) a b o (fun x y => decide (x ≠ y)) ∧
    Branches (.blt a b o) a b o (fun x y => decide (x.toInt < y.toInt)) ∧
    Branches (.bge a b o) a b o (fun x y => decide (x.toInt ≥ y.toInt)) ∧
    Branches (.bltn a b o) a b o (fun x y => decide (x.toNat < y.toNat)) ∧
    Branches (.bgen a b o) a b o (fun x y => decide (x.toNat ≥ y.toNat))

/-- R80 and R81: jal and jalr write PC + 4 to D, tainted by no operand, and pass control to the target; a jalr whose target
is no multiple of 4 has no effect and raises ALIGN with the target in TVAL, tainted where A is (R360). -/
def Sys2Proof.Claims.JumpResults : Prop :=
  (∀ d o s, Issues (.jal d o) s →
    exec (.jal d o) s = .next (jumped (.jal d o) s (s.writeXd d (s.ctx.pc + 4) false) (s.ctx.pc + 4 * (BitVec.ofNat 20 o).signExtend 64))) ∧
  (∀ d a k s, Issues (.jalr d a k) s →
    let ra := s.readXs a
    let t := ra.1 + (BitVec.ofNat 14 k).signExtend 64
    let s1 := ra.2.2.writeXd d (s.ctx.pc + 4) false
    (t.toNat % 4 = 0 → exec (.jalr d a k) s =
      .next (jumped (.jalr d a k) s (if ra.2.1 then s1.onCtx (fun c => c.setStat stCTNT true) else s1) t)) ∧
    (t.toNat % 4 ≠ 0 → exec (.jalr d a k) s =
      .next (s.deliver { code := 0x05, tval := t, ipc := s.ctx.pc, step := BitVec.ofNat 64 s.forme.k, tnt := ra.2.1 })))

/-- R79 and R80, Table 3-9: the words of the branches and jumps, with every value of every field: A in bits 25:20 and B in 19:14
of a branch, D in bits 25:20 of a jump. -/
def Sys2Proof.Claims.TransferEncodings : Prop :=
  (∀ a b o, a < 64 → b < 64 → o < 2 ^ 14 →
    ∀ r ∈ ([(12, .beq a b o), (13, .bne a b o), (14, .blt a b o), (15, .bge a b o), (16, .bltn a b o), (17, .bgen a b o)] : List (Nat × Instr)),
      decode (word4 r.1 a b o) = .ok r.2) ∧
  (∀ d o, d < 64 → o < 2 ^ 20 → decode (18 * 2 ^ 26 + d * 2 ^ 20 + o) = .ok (.jal d o)) ∧
  (∀ d a k, d < 64 → a < 64 → k < 2 ^ 14 → decode (word4 19 d a k) = .ok (.jalr d a k))

/-- Branches, jal and jalr: words, targets, links, control taint and ALIGN: BranchResults, JumpResults and TransferEncodings
together. States R79, R80, R81 whole. -/
def Obligations.ControlTransfers : Prop := BranchResults ∧ JumpResults ∧ TransferEncodings

/-- R85 and R86: loop.c with N > 0, in a loop or outside, makes a loop context active within those that are, with the fields of
R85, and passes to the body's first word; with N = 0, outside a loop, it passes by its body of L words. R92: lbrk with A = 0
leaves an inner counted loop at its end and lets a modulo loop drain; with A ≠ 0 it only passes on. R93 and Table 3-13: lctx
reads CNT, N − CNT and V of the inner loop (selectors 0 to 2) and of the outer one (3 to 5), untainted; V of a counted loop
reads 1, and a loop that is not active reads 0. -/
def Sys2Proof.Claims.CountedLoopResults : Prop :=
  (∀ h a l s, a < 32 → Issues (.loopC h a l) s →
    let n : Lane := low (s.ctx.readX a).1
    let len := 64 * h + l
    Answers (.loopC h a l) s (fun t =>
      (n = 0 → s.ctx.loops = [] → t.ctx.pc = s.ctx.pc + 4 + BitVec.ofNat 64 (4 * (len + 1)) ∧ t.ctx.loops = []) ∧
      (n ≠ 0 → t.ctx.pc = s.ctx.pc + 4 ∧ t.ctx.loops =
        { modulo := false, sm1 := 0, beg := s.ctx.pc + 4, len, v := 0, cnt := 0, n, j := 0, dr := false, stages := [] } :: s.ctx.loops) ∧
      t.ctx.stat stCTNT = (s.ctx.stat stCTNT || (s.ctx.readX a).2))) ∧
  (∀ a s l, a < 32 → Issues (.lbrk a) s → s.ctx.loops = [l] →
    let s1 := if (s.ctx.readX a).2 then s.onCtx (fun c => c.setStat stCTNT true) else s
    ((s.ctx.readX a).1 ≠ 0 → exec (.lbrk a) s = .next (followed (.lbrk a) s s1)) ∧
    ((s.ctx.readX a).1 = 0 → l.modulo = false → exec (.lbrk a) s =
      .next (taken (placedAt (.lbrk a) s (s1.onCtx (fun c => { c with loops := [], pc := l.beg + BitVec.ofNat 64 (4 * (l.len + 1)) }))))) ∧
    ((s.ctx.readX a).1 = 0 → l.modulo = true → exec (.lbrk a) s =
      .next (followed (.lbrk a) s (s1.onCtx (fun c => { c with loops := [{ l with dr := true }] }))))) ∧
  (∀ d k s l r, k < 6 → Issues (.lctx d k) s → s.ctx.loops = l :: r →
    let value (x : LoopCtx) (j : Nat) : Word :=
      if j = 0 then x.cnt.setWidth 64 else if j = 1 then BitVec.ofNat 64 (x.n.toNat - x.cnt.toNat)
      else if x.modulo then x.v.setWidth 64 else 1
    exec (.lctx d k) s = .next (followed (.lctx d k) s (s.writeXd d
      (if k < 3 then value l k else match r with | o :: _ => value o (k - 3) | [] => 0) false))) ∧
  (∀ d k s, Issues (.lctx d k) s → s.ctx.loops = [] →
    exec (.lctx d k) s = .next (followed (.lctx d k) s (s.writeXd d 0 false)))

/-- R86, the end of a counted body: an instruction that is followed in sequence (Gives) passes to the next word inside the body
of the inner loop. From its last word, control passes back to the first word with CNT one higher while more iterations
remain, else to the end with the loop context free; where an outer counted loop ends there too, one iteration of it ends with
it. -/
def Sys2Proof.Claims.CountedBodiesRepeat : Prop :=
  ∀ (i : Instr) (s t : State) (l : LoopCtx) (r : List LoopCtx), Acts t → t.ctx.loops = l :: r → l.modulo = false →
    let u := (followed i s t).ctx
    let fin := l.beg + BitVec.ofNat 64 (4 * (l.len + 1))
    (t.ctx.pc + 4 ≠ fin → u.pc = t.ctx.pc + 4 ∧ u.loops = l :: r) ∧
    (t.ctx.pc + 4 = fin → (l.cnt + 1).toNat < l.n.toNat → u.pc = l.beg ∧ u.loops = { l with cnt := l.cnt + 1 } :: r) ∧
    (t.ctx.pc + 4 = fin → l.n.toNat ≤ (l.cnt + 1).toNat →
      (r = [] → u.pc = fin ∧ u.loops = []) ∧
      (∀ o q, r = o :: q → o.modulo = true ∨ o.beg + BitVec.ofNat 64 (4 * (o.len + 1)) ≠ fin → u.pc = fin ∧ u.loops = r) ∧
      (∀ o q, r = o :: q → o.modulo = false → o.beg + BitVec.ofNat 64 (4 * (o.len + 1)) = fin →
        ((o.cnt + 1).toNat < o.n.toNat → u.pc = o.beg ∧ u.loops = { o with cnt := o.cnt + 1 } :: q) ∧
        (o.n.toNat ≤ (o.cnt + 1).toNat → u.pc = fin ∧ u.loops = q)))

/-- R89 and R90, the slots of a modulo body: an instruction that is followed in sequence passes to the next slot whose stage has
its bit of V set. After the last of them CNT rises by 1, and V shifts left by one, taking in a 1 while CNT < N and the loop
does not drain, cut to its S bits: with V = 0 then the loop ends, else control passes to the first slot of the pass whose stage
is set in V. A pass without one is passed over in the same way (not stated here). -/
def Sys2Proof.Claims.ModuloPassesFollow : Prop :=
  ∀ (i : Instr) (s t : State) (l : LoopCtx), Acts t → t.ctx.loops = [l] → l.modulo = true →
    let u := (followed i s t).ctx
    let runs (v : BitVec 4) (j : Nat) : Prop := v.getLsbD (l.stages.getD j 0) = true
    let v' : BitVec 4 := ((l.v <<< 1) ||| (if (l.cnt + 1).toNat < l.n.toNat ∧ l.dr = false then 1 else 0)) &&& BitVec.ofNat 4 (2 ^ (l.sm1 + 1) - 1)
    (∀ j, l.j < j → j ≤ l.len → runs l.v j → (∀ k, l.j < k → k < j → ¬ runs l.v k) →
      u.pc = l.beg + BitVec.ofNat 64 (4 * j) ∧ u.loops = [{ l with j := j }]) ∧
    ((∀ k, l.j < k → k ≤ l.len → ¬ runs l.v k) →
      (v' = 0 → u.pc = l.beg + BitVec.ofNat 64 (4 * (l.len + 1)) ∧ u.loops = []) ∧
      (v' ≠ 0 → ∀ j, j ≤ l.len → runs v' j → (∀ k < j, ¬ runs v' k) →
        u.pc = l.beg + BitVec.ofNat 64 (4 * j) ∧ u.loops = [{ l with cnt := l.cnt + 1, v := v', j := j }]))

/-- R89: loop.m outside a loop, its stage-map words read as operands. With N > 0 and a stage map of R88 whose slot 0 has stage
0, the loop context becomes active with V = 1 and control passes to slot 0; with N = 0 no pass runs and control passes to
the end of the body. -/
def Sys2Proof.Claims.ModuloLoopBegins : Prop :=
  ∀ k a m s ws t, a < 32 → Issues (.loopM k a m) s → s.ctx.loops = [] →
    fetchWords ((k + 16) / 16) s (s.ctx.pc + 4) [] = (.ok ws, t) → stagesOk ws (k + 1) m = true → (stagesOf ws (k + 1)).getD 0 1 = 0 →
    t.ctx = s.ctx → t.actor = s.actor →
    let n : Lane := low (s.ctx.readX a).1
    let beg := s.ctx.pc + 4 + BitVec.ofNat 64 (4 * ((k + 16) / 16))
    Answers (.loopM k a m) s (fun u =>
      (n = 0 → u.ctx.pc = beg + BitVec.ofNat 64 (4 * (k + 1)) ∧ u.ctx.loops = []) ∧
      (n ≠ 0 → u.ctx.pc = beg ∧ u.ctx.loops =
        [{ modulo := true, sm1 := m, beg, len := k, v := 1, cnt := 0, n, j := 0, dr := false, stages := stagesOf ws (k + 1) }]))

/-- loop.c, loop.m, lbrk and lctx outside or in a counted loop: CountedLoopResults, CountedBodiesRepeat, ModuloPassesFollow
and ModuloLoopBegins together. Derived from spec/03_scalar.md: loop.c; spec/03_scalar.md: loop.m; spec/03_scalar.md:
lbrk and lctx. -/
def Obligations.LoopInstructions : Prop := CountedLoopResults ∧ CountedBodiesRepeat ∧ ModuloPassesFollow ∧ ModuloLoopBegins

/-- Device memory, the host's and other packages', the slices' lines and every local store, buffered store, update-only line
and L1D copy are as before. -/
def Sys2Proof.Claims.SameStores (s t : State) : Prop :=
  t.hbm = s.hbm ∧ t.hostMem = s.hostMem ∧ t.remoteMem = s.remoteMem ∧ t.l2 = s.l2 ∧
  ∀ p, (t.tileD p).main = (s.tileD p).main ∧ (t.tileD p).bankA = (s.tileD p).bankA ∧ (t.tileD p).bankB = (s.tileD p).bankB ∧
    (t.tileD p).sb = (s.tileD p).sb ∧ (t.tileD p).upd = (s.tileD p).upd ∧ (t.tileD p).l1d = (s.tileD p).l1d

/-- What an instruction that writes xD and waits for nothing leaves as it was: of the package all but the acting tile; of the tile
all but its acting context and its account of issue (R411); of the context every field but PC, the loops, the registers that
hold results, PFXP, VBEAT, and what waits. Of those registers every x register but D keeps value and taint bit where no open
window holds its result, and every vector and one-beat register where no window is open. -/
def Sys2Proof.Claims.ScalarFrame (d : Nat) (s t : State) : Prop :=
  t = { s with tiles := t.tiles } ∧ (∀ p, p ≠ s.actor.tile → t.tileAt p = s.tileAt p) ∧
  t.tile = { s.tile with ctxs := t.tile.ctxs, issued := true, bubble := 0 } ∧
  (∀ c : Fin 4, c ≠ s.actor.ctx → t.tile.ctxs[c] = s.tile.ctxs[c]) ∧
  t.ctx = { s.ctx with
    pc := t.ctx.pc, loops := t.ctx.loops, x := t.ctx.x, v := t.ctx.v, o := t.ctx.o, wins := t.ctx.wins
    taint := { s.ctx.taint with x := t.ctx.taint.x, v := t.ctx.taint.v, o := t.ctx.taint.o }
    status := Word.setBit s.ctx.status 57 false, pfxNext := none, pfxLost := false, vbeat := 0, stall := none, waited := none, wait := .nothing } ∧
  (∀ r, r < 32 → r ≠ d → (∀ w ∈ s.ctx.wins, w.dst ≠ r) → t.ctx.readX r = s.ctx.readX r) ∧
  (s.ctx.wins = [] → t.ctx.v = s.ctx.v ∧ t.ctx.o = s.ctx.o ∧ t.ctx.taint.v = s.ctx.taint.v ∧ t.ctx.taint.o = s.ctx.taint.o) ∧
  SameStores s t

/-- R74 to R77, the frame of scalar arithmetic: where one of the two-source, one-source and immediate instructions completes
with an x register as D and x registers as sources, every scalar register but D that no open window holds a result for
keeps its value and taint, and so do every vector and one-beat register where no window is open, every mask register, lr, the
deposit registers, every CSR of the context and of the tile with its taint bit, the spans, STATUS but for PFXP, and all of
memory. Only PC, the loops, PFXP and VBEAT, which end with an instruction (R57, R250), and the account of issue change. -/
def Obligations.ScalarArithmeticFrame : Prop :=
  ∀ (d a b k : Nat) (i : Instr),
    i ∈ ([.add d a b, .sub d a b, .and d a b, .or d a b, .xor d a b, .andn d a b, .orn d a b, .sll d a b, .srl d a b, .sra d a b,
      .slt d a b, .sltn d a b, .min d a b, .max d a b, .minn d a b, .maxn d a b, .clz d a, .ctz d a, .popc d a, .bswap d a,
      .addw d a b, .subw d a b, .sllw d a b, .srlw d a b, .sraw d a b, .czero d a b, .addi d a k, .andi d a k, .ori d a k,
      .xori d a k, .slti d a k, .sltni d a k, .addiw d a k, .slli d a k, .srli d a k, .srai d a k, .lui d k, .adpc d k] : List Instr) →
    d < 32 → a < 32 → b < 32 → ∀ s, Issues i s → Answers i s (ScalarFrame d s)

/-! ### Loads and stores -/

/-- The number that n little-endian bytes hold, as a register takes it from a load: sign-extended, or zero-extended. -/
def Sys2Proof.Claims.loaded (signed : Bool) (bs : List Byte) : Word :=
  if signed then BitVec.ofInt 64 (sextNat (natOfBytes bs) (8 * bs.length)) else BitVec.ofNat 64 (natOfBytes bs)

/-- The scalar loads with the address that each forms (R116): ld at A + sext(IMM7, 7) × size, ldx at A + B × size. `s1` is
the state once the address operands are read, `x` their taint. -/
def Sys2Proof.Claims.LoadForm (i : Instr) (s : State) (d l z : Nat) (ea : Word) (x : Bool) (s1 : State) : Prop :=
  (∃ a k, i = .ld d a l z k ∧ ea = (s.readXs a).1 + (BitVec.ofNat 7 k).signExtend 64 * BitVec.ofNat 64 (2 ^ (z / 2)) ∧
    x = (s.readXs a).2.1 ∧ s1 = (s.readXs a).2.2) ∨
  (∃ a b h, i = .ldx d a b l z h ∧
    ea = (s.readXs a).1 + ((s.readXs a).2.2.readXs b).1 * BitVec.ofNat 64 (2 ^ (z / 2)) ∧
    x = ((s.readXs a).2.1 || ((s.readXs a).2.2.readXs b).2.1) ∧ s1 = ((s.readXs a).2.2.readXs b).2.2)

/-- R98 and R116: a scalar load, ld or ldx, of local store. Aligned and accepted by the checks of R97 and R232, it opens a
window on D, l instructions long, with the bytes at that offset bound, extended by its size code, tainted where they,
the address or control are; nothing else changes. -/
def Sys2Proof.Claims.LoadsFromLocalStore : Prop :=
  ∀ (i : Instr) (s s1 : State) (d l z : Nat) (ea : Word) (x : Bool) (off : Nat),
    LoadForm i s d l z ea x s1 → Issues i s → ea.toNat % 2 ^ (z / 2) = 0 →
    checkDecl s1 .read ea (2 ^ (z / 2)) = .ok (.loc off) → s1.tile.poisoned off (2 ^ (z / 2)) = false →
    exec i s = .next (followed i s (s1.openWindow l d false (.load (2 ^ (z / 2)) (z % 2 == 0))
      (.bound (loaded (z % 2 == 0) (s1.tile.readLocal off (2 ^ (z / 2)))) (s1.tile.localTaint off (2 ^ (z / 2)) || (x || s1.ctx.ctnt)))
      (x || s1.ctx.ctnt) ea))

/-- R100, R105, R113, R116, R138 and R152: a scalar load through a span. The tile's update-only line of the address is pushed
first; `u` is the state then. It takes the context's own buffered bytes where they cover every granule of the access (log entry 9),
else the tile's L1D copy under the context's own buffered stores, both unless the span is CHECKED or NC, a push of the tile on the
line is still to be merged, or a load or atomic of the context on the line is still to be answered; else it sends a request to
the home slice and its window waits. A poisoned granule of an L1D copy freezes the core (R430). -/
def Sys2Proof.Claims.LoadsThroughSpans : Prop :=
  ∀ (i : Instr) (s s1 : State) (d l z : Nat) (ea : Word) (x : Bool) (n : Nat) (p : Span),
    LoadForm i s d l z ea x s1 → Issues i s → ea.toNat % 2 ^ (z / 2) = 0 →
    checkDecl s1 .read ea (2 ^ (z / 2)) = .ok (.span n p) →
    let size := 2 ^ (z / 2)
    let asid := s1.forme.asid
    let line := ea.toNat / 64
    let u := s1.pushLine asid ea.toNat
    let plain : Prop := p.chk = false ∧ p.nc = false ∧ pushOn u u.actor.tile asid line = false ∧
      u.reqs.any (fun r => r.openOn u.actor.tile u.actor.ctx asid line) = false
    let opened (v : State) (st : WinState) := exec i s =
      .next (followed i s (v.openWindow l d false (.load size (z % 2 == 0)) st (x || s1.ctx.ctnt) ea))
    (∀ bs t, plain → sbCover u.tile u.actor.ctx asid ea.toNat size = some (bs, t) →
      opened u (.bound (loaded (z % 2 == 0) bs) (t || (x || s1.ctx.ctnt)))) ∧
    (∀ c, plain → sbCover u.tile u.actor.ctx asid ea.toNat size = none → l1Find u u.tile asid ea.toNat = some c →
      let v := c.under (ownPending u.tile u.actor.ctx asid line)
      (lineTaint v.poison (ea.toNat % 64) size = false →
        opened u (.bound (loaded (z % 2 == 0) (Line.bytes v.data (ea.toNat % 64) size))
          (lineTaint v.taint (ea.toNat % 64) size || (x || s1.ctx.ctnt)))) ∧
      (lineTaint v.poison (ea.toNat % 64) size = true → exec i s = .next (sent (u.freezeCore u.actor.tile 3 u.ctx.pc)))) ∧
    (¬ plain ∨ (sbCover u.tile u.actor.ctx asid ea.toNat size = none ∧ l1Find u u.tile asid ea.toNat = none) →
      opened (u.sendReq p ea size (.load u.ctx.nextWin)) .waiting)

/-- A sent request finds its line valid at its home slice and no reason to wait there: no earlier push, load or store of its
tile holds it (R113, R131, R138, R152), it names the domain generation in force (R108), and no sum is pending (R153). -/
def Sys2Proof.Claims.FindsLine (s : State) (r : Req) (l : L2Line) : Prop :=
  s.reqAt r.id = some r ∧ r.st = .sent ∧ pushAhead s r = false ∧ loadAhead s r = false ∧ storeAhead s r = false ∧
  (∀ d g, r.dom = some (d, g) → domGen (vget s.hashdom d 0) = g) ∧
  s.l2At r.home r.asid r.line = some l ∧ l.fill = .valid ∧ s.ofu = []

/-- R109, R113 and R144: the home slice serves the request of a scalar load or of one element of a vector load, which reaches it in
LONG_LATENCY_LANDING. It is answered with the bytes of the line, under the stores of its own context before it and those
that the tile's L1D has shown (R120, R133), and with the taint of their granules; a CHECKED one whose word another tile wrote in
the present phase fails with RACE, naming that tile. -/
def Sys2Proof.Claims.HomeSlicesServeLoads : Prop :=
  ∀ (s : State) (p : Nat) (c : Fin 4) (w : Window) (r : Req) (l : L2Line),
    (s.tileAt p).isSome = true → (s.tileD p).ctxs[c].wins = [w] → w.st = .waiting → w.kind ≠ .tlwait →
    s.winReqs p c w.id = [r] → FindsLine s r l → readsPoison l (r.va.toNat % 64) r.size = false →
    let off := r.va.toNat % 64
    let race := raceOther l.shadow (wordsOf off r.size) (s.tileD r.tile).logical (s.phaseOf r.tile)
    Answers (.longLatencyLanding p c.val w.id) s (fun t =>
      t.hbm = s.hbm ∧ t.hostMem = s.hostMem ∧ (t.tileD p).ctxs = (s.tileD p).ctxs ∧
      (r.chk = false ∨ race = none →
        let m := forwarded s (s.tileD r.tile) r l
        t.reqAt r.id = some { r with st := .done (wordOf (Line.bytes m.data off r.size)) (lineTaint m.taint off r.size) }) ∧
      (∀ o, r.chk = true → race = some o →
        let e : Exc := { code := 0x20, tval := r.va, ipc := r.pc, step := r.step, info0 := BitVec.ofNat 64 o, tnt := r.tnt }
        t.reqAt r.id = some { r with st := .failed e }))

/-- R116 and R117: LONG_LATENCY_LANDING of a load's window whose one request has been answered. An answer lands as the loaded
number; a failure is kept as the window's fault, to be delivered at its close with kind window. -/
def Sys2Proof.Claims.AnsweredLoadLands : Prop :=
  ∀ (s : State) (p : Nat) (c : Fin 4) (w : Window) (r : Req) (size : Nat) (sg : Bool),
    (s.tileAt p).isSome = true → (s.tileD p).ctxs[c].wins = [w] → w.st = .waiting → w.kind = .load size sg → w.rem = 1 →
    s.winReqs p c w.id = [r] →
    (∀ v x, r.st = .done v x → Answers (.longLatencyLanding p c.val w.id) s (fun t =>
      (t.tileD p).ctxs[c].wins = [{ w with st := .landed (if sg then BitVec.ofInt 64 (sextNat v.toNat (8 * size)) else v) (x || w.tnt) }] ∧
      t.reqs = s.reqs.filter (fun q => q ≠ r))) ∧
    (∀ e, r.st = .failed e → Answers (.longLatencyLanding p c.val w.id) s (fun t =>
      (t.tileD p).ctxs[c].wins = [{ w with st := .failed e }] ∧
      ({ w with st := .failed e } : Window).fault = some { e with kind := 1, tnt := e.tnt || (addrCode e.code && w.tnt) }))

/-- Scalar loads from local store and through spans, and the landing of their answers: LoadsFromLocalStore,
LoadsThroughSpans, HomeSlicesServeLoads and AnsweredLoadLands together. Derived from spec/04_memory.md: Loads and
stores; spec/04_memory.md: The local and remote regions; spec/04_memory.md: Misses. -/
def Obligations.LoadsReadMemory : Prop := LoadsFromLocalStore ∧ LoadsThroughSpans ∧ HomeSlicesServeLoads ∧ AnsweredLoadLands

/-- The scalar stores with the address that each forms (R118): st at A + sext(IMM12, 12) × size, stx at A + B × size. -/
def Sys2Proof.Claims.StoreForm (i : Instr) (s : State) (src z : Nat) (ea : Word) (x : Bool) (s1 : State) : Prop :=
  (∃ a k, i = .st src a z k ∧ ea = (s.readXs a).1 + (BitVec.ofNat 12 k).signExtend 64 * BitVec.ofNat 64 (2 ^ z) ∧
    x = (s.readXs a).2.1 ∧ s1 = (s.readXs a).2.2) ∨
  (∃ a b h, i = .stx src a b z h ∧
    ea = (s.readXs a).1 + ((s.readXs a).2.2.readXs b).1 * BitVec.ofNat 64 (2 ^ z) ∧
    x = ((s.readXs a).2.1 || ((s.readXs a).2.2.readXs b).2.1) ∧ s1 = ((s.readXs a).2.2.readXs b).2.2)

/-- R98, R118 and R148, with the frame: a scalar store, st or stx, to local store outside the queue window. The low size
bytes of the source stand at the offset afterwards, in main store or in the active bank; every other byte of local
store, of the other banks, of device memory and of the slices' lines is as before, as are the other tiles' stores. The
memories are in canonical form (CanonicalHoldsAtReset). -/
def Sys2Proof.Claims.StoresToLocalStore : Prop :=
  ∀ (i : Instr) (s s1 : State) (src z : Nat) (ea : Word) (x : Bool) (off : Nat),
    StoreForm i s src z ea x s1 → Issues i s → TileCanonical s.tile → ea.toNat % 2 ^ z = 0 →
    checkDecl s1 .write ea (2 ^ z) = .ok (.loc off) → s1.tile.windowAt off = none →
    Answers i s (fun t =>
      t.tile.readLocal off (2 ^ z) = bytesOfNat (2 ^ z) (s1.readXs src).1.toNat ∧
      t.tile.localTaint off 1 = (s1.peekTaint src || x || s1.ctx.ctnt || (z < 3 && s.tile.localTaint off 1)) ∧
      (∀ a, a < off ∨ off + 2 ^ z ≤ a → (a < 0x80000 ↔ off < 0x80000) → t.tile.readLocal a 1 = s.tile.readLocal a 1) ∧
      (off < 0x80000 → t.tile.bankA = s.tile.bankA ∧ t.tile.bankB = s.tile.bankB) ∧
      (0x80000 ≤ off → t.tile.main = s.tile.main ∧ t.tile.shadowBank = s.tile.shadowBank) ∧
      t.tile.activeA = s.tile.activeA ∧ t.hbm = s.hbm ∧ t.hostMem = s.hostMem ∧ t.l2 = s.l2 ∧ t.tile.sb = s.tile.sb ∧
      ∀ q, q ≠ s.actor.tile → (t.tileD q).main = (s.tileD q).main ∧ (t.tileD q).bankA = (s.tileD q).bankA ∧ (t.tileD q).bankB = (s.tileD q).bankB)

/-- R99 and R118, with the frame: a scalar store, st or stx, to the remote region, with room in the injection queue. A packet
with the low size bytes of the source for that offset of the exchange window of that logical tile enters the network, or is
held at the tile while R235 holds its writes; no memory changes. -/
def Sys2Proof.Claims.StoresToTheRemoteRegion : Prop :=
  ∀ (i : Instr) (s s1 : State) (src z : Nat) (ea : Word) (x : Bool) (dst off : Nat) (u : Tile),
    StoreForm i s src z ea x s1 → Issues i s → ea.toNat % 2 ^ z = 0 → checkDecl s1 .write ea (2 ^ z) = .ok (.remote dst off) →
    s1.tile.injq.length < 8 → s1.logicalTile s1.tile.forme dst = some u →
    Answers i s (fun t =>
      ∃ k : Packet, k.kind = .remoteStore off (bytesOfNat (2 ^ z) (s1.readXs src).1.toNat) s1.actor.ctx s1.ctx.pc ∧
        k.dst = u.phys ∧ k.src = s1.tile.phys ∧ k.srcCtx = s1.actor.ctx ∧ k.taint = (s1.peekTaint src || x || s1.ctx.ctnt) ∧
        k.step = BitVec.ofNat 64 s1.forme.k ∧
        (s1.holding s1.tile = false → t.net = s1.net ++ [k] ∧ t.tile.injq = s1.tile.injq ∧ t.tile.unacked = s1.tile.unacked + 1) ∧
        (s1.holding s1.tile = true → t.net = s1.net ∧ t.tile.injq = s1.tile.injq ++ [k]) ∧ SameStores s t)

/-- R112, R113, R118 and R145, with the frame: a scalar store, st or stx, through a span, whose checks pass and for which the
tile's store buffer has a free entry. Unless the span is CHECKED, and where it is CHECKED once its race check has passed, it
takes a pending entry of the buffer with the bytes of the source at their place in the 32-byte chunk and the context's next
SEQ, and no memory changes; through a CHECKED span its race check is sent first and the context waits (R145). -/
def Sys2Proof.Claims.StoresThroughSpans : Prop :=
  ∀ (i : Instr) (s s1 : State) (src z : Nat) (ea : Word) (x : Bool) (n : Nat) (p : Span),
    StoreForm i s src z ea x s1 → Issues i s → ea.toNat % 2 ^ z = 0 → z ≤ 3 →
    checkDecl s1 .write ea (2 ^ z) = .ok (.span n p) → ¬ ((s1.peekTaint src || x || s1.ctx.ctnt) = true ∧ p.sink = true) →
    s1.tile.sb.length < 32 → faultedOn s1.tile.sb s1.actor.ctx s1.forme.asid (ea.toNat / 64) = none →
    (p.chk = false ∨ s1.ctx.wait = .raceOk → Answers i s (fun t =>
      ∃ e, t.tile.sb = s1.tile.sb ++ [e] ∧ e.st = .pending ∧ e.ctx = s1.actor.ctx ∧ e.asid = s1.forme.asid ∧
        e.va.toNat = ea.toNat / 32 * 32 ∧ (∀ b < 32, e.mask.getLsbD b = decide (ea.toNat % 32 ≤ b ∧ b < ea.toNat % 32 + 2 ^ z)) ∧
        (∀ b < 2 ^ z, e.data.extractLsb' (8 * (ea.toNat % 32 + b)) 8 = (s1.readXs src).1.extractLsb' (8 * b) 8) ∧
        e.taint = (s1.peekTaint src || x || s1.ctx.ctnt) ∧
        e.seq = s1.ctx.seq + 1 ∧ t.ctx.seq = s1.ctx.seq + 1 ∧ e.home = homeOf s1 s1.tile p (ea.toNat / 32 * 32) ∧
        t.hbm = s.hbm ∧ t.hostMem = s.hostMem ∧ t.l2 = s.l2 ∧
        ∀ q, (t.tileD q).main = (s.tileD q).main ∧ (t.tileD q).bankA = (s.tileD q).bankA ∧ (t.tileD q).bankB = (s.tileD q).bankB)) ∧
    (p.chk = true → s1.ctx.wait ≠ .raceOk → Answers i s (fun t =>
      t.ctx.wait = .race s1.nextReq ∧ t.ctx.pc = s1.ctx.pc ∧ t.tile.sb = s1.tile.sb ∧ t.reqs.length = s1.reqs.length + 1))

/-- Scalar stores: the bytes stored, the buffer entry, and every other byte as before: StoresToLocalStore,
StoresThroughSpans and StoresToTheRemoteRegion together. Derived from spec/04_memory.md: Loads and stores;
spec/04_memory.md: The late-fault store buffer. -/
def Obligations.StoresWriteMemory : Prop := StoresToLocalStore ∧ StoresThroughSpans ∧ StoresToTheRemoteRegion

/-- R116, R118 and R119: a scalar load or store whose address is no multiple of its size has no effect and raises ALIGN,
with the address in TVAL, tainted where an address operand is (R360). The address operands' flits stand at their ports again,
since the state is the one before. -/
def Obligations.MisalignedAccessRaisesAlign : Prop :=
  (∀ i s s1 d l z ea x, LoadForm i s d l z ea x s1 → Issues i s → ea.toNat % 2 ^ (z / 2) ≠ 0 →
    exec i s = .next (s.deliver { code := 0x05, tval := ea, ipc := s.ctx.pc, step := BitVec.ofNat 64 s.forme.k, tnt := x })) ∧
  (∀ i s s1 src z ea x, StoreForm i s src z ea x s1 → Issues i s → ea.toNat % 2 ^ z ≠ 0 →
    exec i s = .next (s.deliver { code := 0x05, tval := ea, ipc := s.ctx.pc, step := BitVec.ofNat 64 s.forme.k, tnt := x }))

/-- R122 and R123: wb.r, inv.r, wbinv.r and iinv.r of a range of no bytes complete at once and only pass on; of a range that the
checks of R122 accept they complete in RANGE_OPERATION_COMPLETE, for which they make the context wait, their PC kept and no
line or memory changed as yet. pfr completes at once and never faults: a range that its checks refuse is dropped, and one
that they accept is asked for; which of its lines arrive, and when, is a free choice that no statement is about (R123, log
entry 7). -/
def Sys2Proof.Claims.RangeOperationsBegin : Prop :=
  (∀ (v a b : Nat) (i : Instr) (fn : Nat),
    (i, fn) ∈ ([(.wbR v a b, 1), (.invR v a b, 2), (.wbinvR v a b, 3), (.iinvR v a b, 4)] : List (Instr × Nat)) →
    a < 32 → b < 32 → ∀ s, Issues i s →
      ((s.ctx.readX b).1 = 0 → exec i s = .next (followed i s s)) ∧
      (∀ n p, (s.ctx.readX b).1 ≠ 0 → rangeCheck s fn v (s.ctx.readX a).1.toNat (s.ctx.readX b).1.toNat = .ok (n, p) →
        rangeUndecl s n (s.ctx.readX a).1.toNat = none →
        Answers i s (fun t =>
          t.ctx.wait = .range fn v (s.ctx.readX a).1.toNat ((s.ctx.readX a).1.toNat + (s.ctx.readX b).1.toNat - 1) p ∧
          t.ctx.pc = s.ctx.pc ∧ t.l2 = s.l2 ∧ t.hbm = s.hbm))) ∧
  (∀ v a b s, Issues (.pfr v a b) s → a < 32 → b < 32 →
    ((s.ctx.readX b).1 = 0 → exec (.pfr v a b) s = .next (followed (.pfr v a b) s s)) ∧
    (∀ e, rangeCheck s 6 v (s.ctx.readX a).1.toNat (s.ctx.readX b).1.toNat = .error e → exec (.pfr v a b) s = .next (followed (.pfr v a b) s s)) ∧
    (∀ n p, (s.ctx.readX b).1 ≠ 0 → rangeCheck s 6 v (s.ctx.readX a).1.toNat (s.ctx.readX b).1.toNat = .ok (n, p) →
      (rangeUndecl s n (s.ctx.readX a).1.toNat ≠ none → exec (.pfr v a b) s = .next (followed (.pfr v a b) s s)) ∧
      (rangeUndecl s n (s.ctx.readX a).1.toNat = none →
        exec (.pfr v a b) s = .next (followed (.pfr v a b) s (s.onTile (fun t => { t with pfr := t.pfr ++
          [{ l2 := v == 1, asid := s.forme.asid, span := p, first := (s.ctx.readX a).1.toNat / 64
             last := ((s.ctx.readX a).1.toNat + (s.ctx.readX b).1.toNat - 1) / 64 }] }))))))

/-- R124: fetchb discards every word that its context has fetched beyond itself, so that the next is fetched afresh through
L1I; no other context changes, and it is no off-core reference: issue stays with its context (R28). Every window of the
context has a number below the next. -/
def Obligations.FetchbDiscardsFetchedWords : Prop :=
  Gives .fetchb (fun s => s.onCtx (fun c => { c with fetched := [] })) ∧
  ∀ s, Issues .fetchb s → (∀ w ∈ s.ctx.wins, w.id < s.ctx.nextWin) →
    Answers .fetchb s (fun t => t.ctx.fetched = [] ∧ fetch t = fetchAt t t.ctx.pc ∧
      (∀ c, c ≠ s.actor.ctx → t.tile.ctxs[c] = s.tile.ctxs[c]) ∧ (∀ q, q ≠ s.actor.tile → t.tileD q = s.tileD q) ∧
      (s.tile.noteIssue t.tile s.actor.ctx false).offCore = false ∧ (s.tile.noteIssue t.tile s.actor.ctx false).issuing = s.actor.ctx)

/-- R123 and Table 4-15: RANGE_OPERATION_COMPLETE, by which wb.r, inv.r, wbinv.r and iinv.r complete: once the context's stores to
the range are settled and the tile's pushes of it merged, the operation takes its effect and the context passes on.

wb.r and wbinv.r of level l2: a dirty line of the range at its home slice, the only one of the range there, is written to the
place that its translation gives: its bytes stand there afterwards. wb.r keeps every line, and the line is clean. inv.r and
wbinv.r of level l2 leave no valid line of the range at its home slice (of a REPL span, at any slice). inv.r and wbinv.r of
either level leave no L1D copy of the range in the tile, nor in its fused cluster. iinv.r leaves no instruction line of the
range in the tile's L1I, and with level l2 in no tile's of the forme. -/
def Sys2Proof.Claims.RangeOperationsComplete : Prop :=
  ∀ (s0 : State) (p : Nat) (c : Fin 4) (fn lv first last : Nat) (sp : Span),
    let s := s0.as p c
    let asid := s.forme.asid
    let inside (n : Nat) : Prop := first / 64 ≤ n ∧ n ≤ last / 64
    Acts s → s.ctx.wait = .range fn lv first last sp → rangeReady s fn asid first last = true → 1 ≤ fn → fn ≤ 4 →
    Answers (.rangeOperationComplete p c.val) s0 (fun t =>
      t.ctx.wait = .nothing ∧ t.ctx.pc = s.ctx.fallThrough.pc ∧
      (∀ l loc uc s', (fn = 1 ∨ fn = 3) → lv = 1 → Canonical s → s.l2.filter (rangeLine s s.tile asid first last sp) = [l] → l.dirty = true →
        translate s asid (l.line * 64) 1 none = (.at loc uc, s') → t.readLoc loc.base 64 = Line.bytes l.data 0 64 ∧
        (fn = 1 → ∃ l' ∈ t.l2, l' = { l with dirty := false })) ∧
      (fn = 1 → t.l2.length = s.l2.length) ∧
      (fn = 2 ∨ fn = 3 → lv = 1 → ∀ l ∈ t.l2, rangeLine s s.tile asid first last sp l = false) ∧
      (fn = 2 ∨ fn = 3 → ∀ u ∈ t.tiles, u.phys = s.tile.phys ∨ (s.fusedTile s.tile = true ∧ clusterOf u.phys = clusterOf s.tile.phys) →
        ∀ l ∈ u.l1d, ¬ (l.asid = asid ∧ inside l.line)) ∧
      (fn = 4 → ∀ u ∈ t.tiles, u.phys = s.tile.phys ∨ (lv = 1 ∧ u.forme = s.tile.forme) → ∀ l ∈ u.l1i, ¬ (l.asid = asid ∧ inside l.line)))

/-- Range operations begin, wait and take their effect; pfr never faults: RangeOperationsBegin and RangeOperationsComplete
together. Derived from spec/04_memory.md: Range operations. -/
def Obligations.RangeOperations : Prop := RangeOperationsBegin ∧ RangeOperationsComplete

/-- A field of a word. -/
def Sys2Proof.Claims.bits (v : Word) (lo n : Nat) : Nat := (v.extractLsb' lo n).toNat

/-- Table 4-17: the value that sbstat reads for A. -/
def Sys2Proof.Claims.SbWord (s : State) (q v : Word) : Prop :=
  let own := s.tile.sb.filter (fun e => e.ctx == s.actor.ctx)
  let named := own.find? (fun e => e.idx == bits q 0 5)
  (bits q 5 3 = 7 →
    (∀ i < 32, v.getLsbD i = own.any (fun e => e.isFaulted && e.idx == i)) ∧
    bits v 32 8 = own.length ∧ bits v 40 8 = 32 - s.tile.sb.length ∧ bits v 48 16 = 0) ∧
  (bits q 5 3 < 7 → named = none → v = 0) ∧
  (∀ e, named = some e →
    (bits q 5 3 = 0 →
      v.getLsbD 63 = true ∧ v.getLsbD 62 = e.isFaulted ∧ v.getLsbD 61 = e.reported ∧ bits v 59 2 = e.ctx.val ∧
      bits v 51 8 = e.gen.toNat ∧ bits v 48 3 = 0 ∧ bits v 40 8 = e.cause.toNat ∧
      bits v 32 8 = ((List.range 32).filter (fun b => e.mask.getLsbD b)).length ∧ bits v 16 16 = 0 ∧ bits v 0 16 = e.asid) ∧
    (bits q 5 3 = 1 → ∀ b < 32, e.mask.getLsbD b = true → (∀ k < b, e.mask.getLsbD k = false) → v = e.va + BitVec.ofNat 64 b) ∧
    (bits q 5 3 = 2 → v = e.pc) ∧ (bits q 5 3 = 3 → v = e.step) ∧ (bits q 5 3 = 4 → v.toNat = e.seq.toNat) ∧
    (bits q 5 3 = 5 ∨ bits q 5 3 = 6 → v = 0))

/-- R126 and R127: sbdrop frees exactly the acting context's faulted entries that the mask selects, and no other entry. sbreplay
leaves every other entry alone and takes those that it selects in their order: one behind an entry of its line that is faulted,
as the buffer then stands, is faulted with that entry's cause (R113, log entry 9); else one whose address no span accepts for
writing is faulted with SPANF, one with tainted data whose span is SINK with TAINTSINK, each unreported, and any other is
pending again with the home that its span now gives. sbstat opens a window with the value of Table 4-17, untainted. The buffer
holds each index from 0 to 31 once at most, and ASIDs of 16 bits. -/
def Sys2Proof.Claims.StoreBufferInstructions : Prop :=
  ∀ a s, a < 32 →
    (Issues (.sbdrop a) s → Answers (.sbdrop a) s (fun t =>
      t.tile.sb = s.tile.sb.filter (fun e => !(e.ctx == s.actor.ctx && e.isFaulted && (s.ctx.readX a).1.getLsbD e.idx && decide (e.idx < 32))) ∧
      t.ctx.pc = s.ctx.fallThrough.pc)) ∧
    (Issues (.sbreplay a) s → Answers (.sbreplay a) s (fun t =>
      t.tile.sb.length = s.tile.sb.length ∧ t.ctx.pc = s.ctx.fallThrough.pc ∧
      ∀ k (h : k < s.tile.sb.length) (h' : k < t.tile.sb.length),
        let e := s.tile.sb[k]
        let e' := t.tile.sb[k]
        let before := (t.tile.sb.take k).find? (fun b => b.ctx == e.ctx && b.asid == e.asid && b.va.toNat / 64 == e.va.toNat / 64 && b.isFaulted)
        (¬ (e.ctx = s.actor.ctx ∧ e.isFaulted = true ∧ (s.ctx.readX a).1.getLsbD e.idx = true ∧ e.idx < 32) → e' = e) ∧
        (e.ctx = s.actor.ctx → e.isFaulted = true → (s.ctx.readX a).1.getLsbD e.idx = true → e.idx < 32 →
          (∀ b, before = some b → e' = { e with st := .faulted b.cause, reported := false }) ∧
          (before = none → ∀ n p, checkAccess s .write e.firstByte 1 = .ok (.span n p) →
            (e.taint = true → p.sink = true → e' = { e with st := .faulted 0x21, reported := false }) ∧
            (¬ (e.taint = true ∧ p.sink = true) →
              e' = { e with st := .pending, reported := false, shown := false, home := homeOf s s.tile p e.va.toNat, dom := p.dom
                            hash := p.home == 0 })) ∧
          (before = none → (∀ n p, checkAccess s .write e.firstByte 1 ≠ .ok (.span n p)) →
            e' = { e with st := .faulted 0x10, reported := false })))) ∧
    (∀ d l, Issues (.sbstat d a l) s → (∀ e ∈ s.tile.sb, e.idx < 32 ∧ e.asid < 2 ^ 16) → s.tile.sb.Pairwise (fun x y => x.idx ≠ y.idx) →
      s.tile.sb.length ≤ 32 →
      ∃ v, SbWord s (s.ctx.readX a).1 v ∧
        exec (.sbstat d a l) s = .next (followed (.sbstat d a l) s (s.openWindow l d false .value (.bound v false) false)))

/-! ### Atomics and updates -/

/-- Instruction i raises a fault of a code and subcode whose record satisfies Q and has no other effect: the fault is
delivered once every open window has settled (R361), and until then the context waits. Free fields of the record use
up free values. -/
def Sys2Proof.Claims.Faults (i : Instr) (s : State) (code sub : BitVec 8) (Q : Exc → Prop) : Prop :=
  ∃ e n, e.code = code ∧ e.sub = sub ∧ e.kind = kPrecise ∧ e.ipc = s.ctx.pc ∧ e.step = BitVec.ofNat 64 s.forme.k ∧ Q e ∧
    exec i s = .next (s.deliverIn (s.spend n) e)

/-- The new value of an atomic on w bits (Table 5-10), by function code: swap, add, and, or, xor, the four extrema, cas. -/
def Sys2Proof.Claims.amoValue (op w old b e : Nat) : Nat :=
  match op with
  | 1 => b
  | 2 => (old + b) % 2 ^ w
  | 3 => old &&& b
  | 4 => old ||| b
  | 5 => old ^^^ b
  | 6 => if sextNat b w < sextNat old w then b else old
  | 7 => if sextNat old w < sextNat b w then b else old
  | 8 => min old b
  | 9 => max old b
  | _ => if old = e then b else old

/-- The atomics with their function code, width in bytes and operands. -/
def Sys2Proof.Claims.AmoForm (i : Instr) (op n d a b o sc : Nat) : Prop :=
  (i, op, n) ∈ ([
    (.amoWSwap d a b o sc, 1, 4), (.amoWAdd d a b o sc, 2, 4), (.amoWAnd d a b o sc, 3, 4), (.amoWOr d a b o sc, 4, 4),
    (.amoWXor d a b o sc, 5, 4), (.amoWMin d a b o sc, 6, 4), (.amoWMax d a b o sc, 7, 4), (.amoWMinn d a b o sc, 8, 4),
    (.amoWMaxn d a b o sc, 9, 4), (.amoWCas d a b o sc, 10, 4),
    (.amoDSwap d a b o sc, 1, 8), (.amoDAdd d a b o sc, 2, 8), (.amoDAnd d a b o sc, 3, 8), (.amoDOr d a b o sc, 4, 8),
    (.amoDXor d a b o sc, 5, 8), (.amoDMin d a b o sc, 6, 8), (.amoDMax d a b o sc, 7, 8), (.amoDMinn d a b o sc, 8, 8),
    (.amoDMaxn d a b o sc, 9, 8), (.amoDCas d a b o sc, 10, 8)] : List (Instr × Nat × Nat))

/-- What an atomic of order o and scope sc finds where it proceeds (R155, R449, R140, Table 5-4): with order rel or sc a clear
commit point, every open window landed and, at .clus or wider, no update-only line and every earlier write acknowledged; with
order sc also its announcement, resolved, and no earlier SC atomic to its bytes. -/
def Sys2Proof.Claims.Proceeds (s : State) (o sc : Nat) : Prop :=
  o < 2 ∨ (commitCheck s = .go ∧ s.ctx.wins.all Window.isLanded = true ∧ (1 ≤ sc → s.tile.upd = [] ∧ s.writesAcked = true) ∧
    (o = 3 → ∃ q, s.ownSc = some q ∧ s.scReady q = true))

/-- R155, R156, Table 5-10, with the frame: each of the twenty atomics with scope .tile and order rlx, acq or, past its
commit point, rel, on an aligned location of main store or of the active exchange bank, D, A and B x registers. The
location holds the new value of the table afterwards, D the old one sign-extended and tainted, and every other byte of
memory is as before. Order sc with another scope than .sys, and a local address with another than .tile, is SCOPE and
changes nothing (Table 5-2). The memories are in canonical form. -/
def Sys2Proof.Claims.AtomicsOnLocalStore : Prop :=
  (∀ (i : Instr) (op n d a b o : Nat) (s : State) (off : Nat),
    AmoForm i op n d a b o 0 → d < 32 → a < 32 → b < 32 → o < 3 → (o = 2 → commitCheck s = .go) → Issues i s →
    TileCanonical s.tile → s.ctx.wins = [] →
    (s.ctx.readX a).1.toNat % n = 0 → checkDecl s .atomic (s.ctx.readX a).1 n = .ok (.loc off) → s.tile.poisoned off n = false →
    let old := natOfBytes (s.tile.readLocal off n)
    Answers i s (fun t =>
      natOfBytes (t.tile.readLocal off n) =
        amoValue op (8 * n) old ((s.ctx.readX b).1.toNat % 2 ^ (8 * n)) ((s.ctx.readX d).1.toNat % 2 ^ (8 * n)) ∧
      t.ctx.readX d = (if d = 0 then (0, false) else (BitVec.ofInt 64 (sextNat old (8 * n)), true)) ∧
      (∀ r, r < 32 → r ≠ d → t.ctx.readX r = s.ctx.readX r) ∧
      (∀ q, q < off ∨ off + n ≤ q → (q < 0x80000 ↔ off < 0x80000) → t.tile.readLocal q 1 = s.tile.readLocal q 1) ∧
      (off < 0x80000 → t.tile.bankA = s.tile.bankA ∧ t.tile.bankB = s.tile.bankB) ∧
      (0x80000 ≤ off → t.tile.main = s.tile.main ∧ t.tile.shadowBank = s.tile.shadowBank) ∧
      t.hbm = s.hbm ∧ t.l2 = s.l2 ∧ t.ctx.pc = s.ctx.fallThrough.pc)) ∧
  (∀ (i : Instr) (op n d a b o sc : Nat) (s : State) (tgt : Target),
    AmoForm i op n d a b o sc → a < 32 → Issues i s → (s.ctx.readX a).1.toNat % n = 0 →
    checkDecl s .atomic (s.ctx.readX a).1 n = .ok tgt → (o = 3 ∧ sc ≠ 3) ∨ ((∃ off, tgt = .loc off) ∧ sc ≠ 0) →
    Faults i s 0x22 0 (fun e => e.tval = instrWord i))

/-- R140, R152, R155, R156 and R449, Table 5-4: each of the twenty atomics of every order through a span. Where it proceeds, its
operands are read, the tile's update-only line of the address is pushed, and a request with its function, its operand and the
expected value goes to the home slice; the context waits for ATOMIC_COMPLETE, and no memory changes; with order rel or sc
every open window is closed. With order rel or sc it waits while a store of the context stands pending; at .clus or wider it
pushes what update-only line the tile holds, and waits; with order sc it announces itself and waits until its window is
resolved and it is first at its bytes. -/
def Sys2Proof.Claims.AtomicsThroughSpans : Prop :=
  ∀ (i : Instr) (op n d a b o sc : Nat) (s : State) (k : Nat) (p : Span),
    AmoForm i op n d a b o sc → d < 32 → a < 32 → b < 32 → o < 4 → (o = 3 → sc = 3) → Issues i s →
    (s.ctx.readX a).1.toNat % n = 0 → checkDecl s .atomic (s.ctx.readX a).1 n = .ok (.span k p) → p.sink = false →
    let ea := (s.ctx.readX a).1
    let at' (u : UpdLine) : Bool := u.asid == s.forme.asid && u.line == ea.toNat / 64
    (Proceeds s o sc → Answers i s (fun t =>
      ∃ r, t.reqs = s.reqs ++ [r] ∧ r.va = ea ∧ r.size = n ∧ r.st = .sent ∧ r.home = homeOf s s.tile p ea.toNat ∧
        (∃ x, r.kind = .atomic op (n == 8) (s.ctx.readX b).1 (s.ctx.readX d).1 x d o sc) ∧
        t.ctx.wait = .atomic r.id none ∧ t.ctx.pc = s.ctx.pc ∧ t.hbm = s.hbm ∧ t.l2 = s.l2 ∧ (2 ≤ o → t.ctx.wins = []) ∧
        t.tile.upd = s.tile.upd.filter (fun u => !at' u) ∧
        ∀ u ∈ s.tile.upd, at' u = true → ∃ q ∈ t.pushes, q.tile = s.actor.tile ∧ q.upd = { u with home := u.homeFor s.tile })) ∧
    (∀ e ∈ s.tile.sb, 2 ≤ o → e.ctx = s.actor.ctx → e.st = .pending → exec i s = .next (s.stall .commit)) ∧
    (∀ u, 2 ≤ o → 1 ≤ sc → commitCheck s = .go → s.ctx.wins.all Window.isLanded = true → s.tile.upd = [u] → Answers i s (fun t =>
      t.tile.upd = [] ∧ t.reqs = s.reqs ∧ t.ctx.pc = s.ctx.pc ∧ t.ctx.wins = s.ctx.wins ∧
      ∃ q, t.pushes = s.pushes ++ [q] ∧ q.tile = s.actor.tile ∧ q.upd = { u with home := u.homeFor s.tile })) ∧
    (o = 3 → commitCheck s = .go → s.ctx.wins.all Window.isLanded = true → s.tile.upd = [] → s.writesAcked = true →
      (s.ownSc = none → Answers i s (fun t => t.reqs = s.reqs ∧ t.ctx.pc = s.ctx.pc ∧
        ∃ q, t.sc = s.sc ++ [q] ∧ q.tile = s.actor.tile ∧ q.ctx = s.actor.ctx ∧ q.va = some ea ∧ q.size = n ∧ q.resolved = false ∧
          q.window = (s.die (physDie s.actor.tile)).p.toNat / 32)) ∧
      (∀ q, s.ownSc = some q → s.scReady q = false → Answers i s (fun t => t.reqs = s.reqs ∧ t.ctx.pc = s.ctx.pc ∧ t.sc = s.sc)))

/-- R109, R155 and R156, Table 5-10: the home slice serves the request of an atomic, which reaches it in ATOMIC_COMPLETE,
indivisibly. It is answered with the old value, sign-extended and tainted; the line holds the new value at its place and
every other byte as before, the granule's taint bit as Table 5-10 gives it, and it is dirty. -/
def Sys2Proof.Claims.HomeSlicesServeAtomics : Prop :=
  ∀ (s : State) (p : Nat) (c : Fin 4) (r : Req) (l : L2Line) (op : Nat) (wide : Bool) (b e : Word) (x : Bool) (d o sc : Nat) (port : Option (Nat × FlitVal × Bool)),
    (s.as p c).ctx.wait = .atomic r.id port → r.kind = .atomic op wide b e x d o sc → FindsLine s r l →
    let n := if wide then 8 else 4
    let off := r.va.toNat % 64
    let old := natOfBytes (Line.bytes l.data off n)
    r.va.toNat % n = 0 → readsPoison l off n = false →
    Answers (.atomicComplete p c.val) s (fun t =>
      t.reqAt r.id = some { r with st := .done (BitVec.ofInt 64 (sextNat old (8 * n))) true } ∧ t.hbm = s.hbm ∧
      ∃ l', t.l2At r.home r.asid r.line = some l' ∧ l'.dirty = true ∧
        natOfBytes (Line.bytes l'.data off n) = amoValue op (8 * n) old (b.toNat % 2 ^ (8 * n)) (e.toNat % 2 ^ (8 * n)) ∧
        (∀ i < 64, i < off ∨ off + n ≤ i → Line.bytes l'.data i 1 = Line.bytes l.data i 1) ∧
        (∀ g < 8, l'.taint.getLsbD g =
          if g = off / 8 then op == 1 || op == 10 || l.taint.getLsbD g || x else l.taint.getLsbD g))

/-- R155 and R156, Table 5-4: ATOMIC_COMPLETE of an atomic that its home slice has performed: D takes the old value with its
taint, an SC atomic leaves the SC order, and control passes on; with order acq or sc at .clus or wider the tile's clean L1D
copies are discarded, at .clus but in a tile of a fused cluster. One whose translation failed has no effect and raises its
fault precisely. -/
def Sys2Proof.Claims.AtomicCompletes : Prop :=
  ∀ (s : State) (p : Nat) (c : Fin 4) (r : Req) (op : Nat) (w : Bool) (b e : Word) (x : Bool) (d o sc : Nat),
    Acts (s.as p c) → (s.as p c).ctx.wait = .atomic r.id none → s.reqAt r.id = some r → r.kind = .atomic op w b e x d o sc →
    (s.as p c).ctx.wins = [] → d < 32 →
    (∀ v t0, r.st = .done v t0 → Answers (.atomicComplete p c.val) s (fun t =>
      (t.ctx.readX d).1 = (if d = 0 then 0 else v) ∧ t.ctx.wait = .nothing ∧ t.ctx.pc = (s.as p c).ctx.fallThrough.pc ∧
      t.reqs = s.reqs.filter (fun q => q.id != r.id) ∧ t.sc = s.sc.filter (fun q => !(q.tile == p && q.ctx == c)) ∧
      t.actor = { tile := p, ctx := c } ∧
      (o = 1 ∨ o = 3 → 1 ≤ sc → s.fusedTile (s.tileD p) = false ∨ 2 ≤ sc → (t.tileD p).l1d = []) ∧
      (o = 0 ∨ o = 2 ∨ sc = 0 → (t.tileD p).l1d = (s.tileD p).l1d))) ∧
    (∀ f, r.st = .failed f → exec (.atomicComplete p c.val) s =
      .next (((({ s.as p c with sc := s.sc.filter (fun q => !(q.tile == p && q.ctx == c)) }).dropReq r.id).onCtx
        (fun y => { y with wait := .nothing })).takeFault f))

/-- Every atomic: on local store, sent to its home slice, and completed by the reply: AtomicsOnLocalStore,
AtomicsThroughSpans, HomeSlicesServeAtomics and AtomicCompletes together. Derived from spec/05_ordering.md: Atomics:
amo.w and amo.d. -/
def Obligations.AtomicOperations : Prop := AtomicsOnLocalStore ∧ AtomicsThroughSpans ∧ HomeSlicesServeAtomics ∧ AtomicCompletes

/-- R158 on local store: the updates on an aligned location of main store, A and B x registers: it takes the combination
of its value with the operand on 32 or 64 bits (Table 5-8; upd.fadd on f32). The memories are in canonical form. -/
def Sys2Proof.Claims.UpdatesOnLocalStore : Prop :=
  ∀ (w a b : Nat) (i : Instr) (n : Nat) (f : Nat → Nat → Nat),
    (i, n, f) ∈ ([
      (.updAdd w a b, (if w = 1 then 8 else 4), fun x y => (x + y) % 2 ^ (if w = 1 then 64 else 32)),
      (.updAnd w a b, (if w = 1 then 8 else 4), fun x y => x &&& y),
      (.updOr w a b, (if w = 1 then 8 else 4), fun x y => x ||| y),
      (.updXor w a b, (if w = 1 then 8 else 4), fun x y => x ^^^ y),
      (.updMin w a b, (if w = 1 then 8 else 4), fun x y =>
        if sextNat y (if w = 1 then 64 else 32) < sextNat x (if w = 1 then 64 else 32) then y else x),
      (.updMax w a b, (if w = 1 then 8 else 4), fun x y =>
        if sextNat x (if w = 1 then 64 else 32) < sextNat y (if w = 1 then 64 else 32) then y else x),
      (.updFadd a b, 4, fun x y => (fAdd fmtF32 0 (fmtF32.decode x) (fmtF32.decode y)).1),
      (.updFmin a b, 4, fun x y =>
        if (fmtF32.decode x).isNan || (fmtF32.decode y).isNan then 0x7FC00000 else (fMin fmtF32 x y).1),
      (.updFmax a b, 4, fun x y =>
        if (fmtF32.decode x).isNan || (fmtF32.decode y).isNan then 0x7FC00000 else (fMax fmtF32 x y).1)] : List (Instr × Nat × (Nat → Nat → Nat))) →
    a < 32 → b < 32 → ∀ s off, Issues i s → TileCanonical s.tile → (s.ctx.readX a).1.toNat % n = 0 →
      checkDecl s .upd (s.ctx.readX a).1 n = .ok (.loc off) → off < 0x80000 → s.tile.poisoned off n = false →
      Answers i s (fun t =>
        natOfBytes (t.tile.readLocal off n) =
          f (natOfBytes (s.tile.readLocal off n)) ((s.ctx.readX b).1.toNat % 2 ^ (8 * n)) % 2 ^ (8 * n) ∧
        (∀ q, q < off ∨ off + n ≤ q → Memory.get t.tile.main q = Memory.get s.tile.main q) ∧
        t.hbm = s.hbm ∧ t.l2 = s.l2 ∧ t.ctx.pc = s.ctx.fallThrough.pc)

/-- The updates with their function code and width in bytes. -/
def Sys2Proof.Claims.UpdForm (i : Instr) (fn n a b : Nat) : Prop :=
  (∃ w < 2, n = 4 * (w + 1) ∧ (i, fn) ∈ ([(.updAdd w a b, 1), (.updAnd w a b, 2), (.updOr w a b, 3), (.updXor w a b, 4), (.updMin w a b, 5),
    (.updMax w a b, 6)] : List (Instr × Nat))) ∨
  (n = 4 ∧ (i, fn) ∈ ([(.updFadd a b, 7), (.updFmin a b, 8), (.updFmax a b, 9)] : List (Instr × Nat)))

/-- Table 5-8: a pending value x combined with an operand y on w bits, by function code. -/
def Sys2Proof.Claims.updValue (fn w x y : Nat) : Nat :=
  match fn with
  | 1 => (x + y) % 2 ^ w
  | 2 => x &&& y
  | 3 => x ||| y
  | 4 => x ^^^ y
  | 5 => if sextNat y w < sextNat x w then y else x
  | 6 => if sextNat x w < sextNat y w then y else x
  | 7 => (fAdd fmtF32 0 (fmtF32.decode x) (fmtF32.decode y)).1
  | 8 => if (fmtF32.decode x).isNan || (fmtF32.decode y).isNan then 0x7FC00000 else (fMin fmtF32 x y).1
  | _ => if (fmtF32.decode x).isNan || (fmtF32.decode y).isNan then 0x7FC00000 else (fMax fmtF32 x y).1

/-- An update-only line of function fn and a width of n bytes that holds the one operand v, with its taint, at an address. -/
def Sys2Proof.Claims.HoldsOne (u : UpdLine) (asid fn n va : Nat) (v : Word) (x : Bool) : Prop :=
  u.asid = asid ∧ u.line = va / 64 ∧ u.fn = fn ∧ u.wide = (n == 8) ∧ u.valid = 1#16 <<< (va % 64 / n) ∧ u.vals.getD (va % 64 / n) 0 = v ∧
  u.taint.getLsbD (va % 64 / n) = x

/-- The update-only line u of the tile of s has been pushed: a push of it, to the home that it then computes, is among those of t. -/
def Sys2Proof.Claims.Pushed (s t : State) (u : UpdLine) : Prop :=
  ∃ q ∈ t.pushes, q.tile = s.actor.tile ∧ q.upd = { u with home := u.homeFor s.tile }

/-- R100, R149, R151, R152, R158, R159 and R331: each update of 4 or 8 bytes through a span, without ordered float mode.
Through an NC or CHECKED span, or on an uncached page, it is sent to its home slice at once, after the tile's
update-only line of its address. Else it is held in L1D: in a new line where the tile holds none of its address (with 8
such in its set one is pushed first: log entry 7); in that line where function and width agree: the word takes the
operand, or where it is pending the combination of Table 5-8, tainted where either is, the others stay; and else in a
new line once that one is pushed. upd.fadd taints its word. No memory changes. upd.flush passes on where the tile holds
no update-only line and none is on its way; else it pushes them and waits. -/
def Sys2Proof.Claims.UpdatesAreHeldAndFlushed : Prop :=
  (∀ (a b : Nat) (i : Instr) (fn n : Nat) (s : State) (k : Nat) (p : Span),
    UpdForm i fn n a b → a < 32 → b < 32 → Issues i s → (s.ctx.readX a).1.toNat % n = 0 →
    checkDecl s .upd (s.ctx.readX a).1 n = .ok (.span k p) → p.sink = false → fn ≠ 7 ∨ s.forme.ofuMode = false →
    let va := (s.ctx.readX a).1.toNat
    let v : Word := BitVec.ofNat 64 ((s.ctx.readX b).1.toNat % 2 ^ (8 * n))
    let x := (s.ctx.readX b).2 || s.ctx.ctnt || fn == 7
    let at' (u : UpdLine) : Bool := u.asid == s.forme.asid && u.line == va / 64
    let direct : Prop := p.nc = true ∨ p.chk = true ∨ s.uncachedPage s.forme.asid va = true
    let inSet := s.tile.upd.filter (fun u => l1Set u.line == l1Set (va / 64))
    (direct → Answers i s (fun t => t.ctx.pc = s.ctx.fallThrough.pc ∧ t.l2 = s.l2 ∧ t.hbm = s.hbm ∧
      t.tile.upd = s.tile.upd.filter (fun u => !at' u) ∧ (∀ u ∈ s.tile.upd, at' u = true → Pushed s t u) ∧
      ∃ q, t.pushes.getLast? = some q ∧ q.tile = s.actor.tile ∧ q.ofu = false ∧ HoldsOne q.upd s.forme.asid fn n va v x)) ∧
    (¬ direct → (∀ u ∈ s.tile.upd, at' u = false) → inSet.length < 8 → Answers i s (fun t => t.ctx.pc = s.ctx.fallThrough.pc ∧
      t.l2 = s.l2 ∧ t.hbm = s.hbm ∧ t.pushes = s.pushes ∧
      ∃ u, t.tile.upd = s.tile.upd ++ [u] ∧ u.home = homeOf s s.tile p va ∧ HoldsOne u s.forme.asid fn n va v x)) ∧
    (∀ pre u post, ¬ direct → s.tile.upd = pre ++ u :: post → at' u = true → (∀ q ∈ pre ++ post, at' q = false) → u.vals.length = 16 →
      (u.fn = fn → u.wide = (n == 8) → Answers i s (fun t => t.ctx.pc = s.ctx.fallThrough.pc ∧ t.l2 = s.l2 ∧ t.hbm = s.hbm ∧ t.pushes = s.pushes ∧
        ∃ w, t.tile.upd = pre ++ w :: post ∧ w.fn = fn ∧ w.wide = u.wide ∧ w.line = u.line ∧ w.asid = u.asid ∧ w.home = u.home ∧
          ∀ j < 16, w.valid.getLsbD j = (u.valid.getLsbD j || j == va % 64 / n) ∧
            w.taint.getLsbD j = (u.taint.getLsbD j || (j == va % 64 / n && x)) ∧
            w.vals.getD j 0 = if j ≠ va % 64 / n then u.vals.getD j 0
              else if u.valid.getLsbD j = true then BitVec.ofNat 64 (updValue fn (8 * n) (u.vals.getD j 0).toNat v.toNat) else v)) ∧
      (u.fn ≠ fn ∨ u.wide ≠ (n == 8) → inSet.length ≤ 8 → Answers i s (fun t => t.ctx.pc = s.ctx.fallThrough.pc ∧ t.l2 = s.l2 ∧ t.hbm = s.hbm ∧
        t.pushes.length = s.pushes.length + 1 ∧ Pushed s t u ∧
        ∃ w, t.tile.upd = pre ++ post ++ [w] ∧ w.home = homeOf s s.tile p va ∧ HoldsOne w s.forme.asid fn n va v x)))) ∧
  (∀ s, Issues .updFlush s → s.tile.upd = [] → s.pushes.all (fun u => u.tile != s.actor.tile) = true →
    Answers .updFlush s (fun t => t.ctx.pc = s.ctx.fallThrough.pc ∧ t.pushes = s.pushes)) ∧
  (∀ s, Issues .updFlush s → s.tile.upd ≠ [] → Answers .updFlush s (fun t =>
    t.tile.upd = [] ∧ t.ctx.pc = s.ctx.pc ∧ t.pushes.length = s.pushes.length + s.tile.upd.length ∧ ∀ u ∈ s.tile.upd, Pushed s t u))

/-- The number, in units of 2^-149, that an f32 code stands for; 0 for a code of infinity or NaN. -/
def Sys2Proof.Claims.exactF32 (b : Nat) : Int :=
  let e := b / 2 ^ 23 % 2 ^ 8
  let m : Nat := (if e = 0 then b % 2 ^ 23 else 2 ^ 23 + b % 2 ^ 23) * 2 ^ (max e 1 - 1)
  if e = 255 then 0 else if 2 ^ 31 ≤ b then -(m : Int) else m

/-- The exact sum w is the sum o, or an empty one, with the operand b of a taint added (R153). -/
def Sys2Proof.Claims.Summed (o w : OfuSum) (b : Nat) (x : Bool) : Prop :=
  w.slice = o.slice ∧ w.asid = o.asid ∧ w.va = o.va ∧ w.sum = o.sum + exactF32 b ∧
  w.pinf = (o.pinf || b == 0x7F800000) ∧ w.ninf = (o.ninf || b == 0xFF800000) ∧
  w.nan = (o.nan || (b / 2 ^ 23 % 2 ^ 8 == 255 && b % 2 ^ 23 != 0)) ∧ w.allNegZero = (o.allNegZero && b == 0x80000000) ∧
  w.taint = (o.taint || x)

/-- R153: upd.fadd in ordered float mode. Through a span it goes to its home slice at once; it taints nothing.
UPDATE_MERGE adds its operand to the exact sum of its word there, or begins one where the slice has fewer than 256, and
leaves the lines. FIRST_BARRIER_COMPLETE folds a sum into its word: it holds the exact sum of its value and the pending
one, rounded once to nearest even (Rounds), or the NaN, infinity or zero of R153; its granule is tainted where the sum
is; the rest stays. -/
def Sys2Proof.Claims.OrderedUpdatesSumExactly : Prop :=
  (∀ (a b : Nat) (s : State) (k : Nat) (p : Span), a < 32 → b < 32 → Issues (.updFadd a b) s → (s.ctx.readX a).1.toNat % 4 = 0 →
    checkDecl s .upd (s.ctx.readX a).1 4 = .ok (.span k p) → p.sink = false → s.forme.ofuMode = true →
    Answers (.updFadd a b) s (fun t => t.ctx.pc = s.ctx.fallThrough.pc ∧ t.l2 = s.l2 ∧ t.hbm = s.hbm ∧ t.ofu = s.ofu ∧
      ∃ q, t.pushes.getLast? = some q ∧ q.tile = s.actor.tile ∧ q.ofu = true ∧ q.forme = s.tile.forme ∧
        HoldsOne q.upd s.forme.asid 7 4 (s.ctx.readX a).1.toNat (BitVec.ofNat 64 ((s.ctx.readX b).1.toNat % 2 ^ 32))
          ((s.ctx.readX b).2 || s.ctx.ctnt))) ∧
  (∀ (k : Nat) (s : State) (q : Push) (i : Nat), s.pushes[k]? = some q → q.ofu = true → mergeHeld s k q = false →
    (∀ d g, q.dom = some (d, g) → domGen (vget s.hashdom d 0) = g) → i < 16 → q.upd.valid = 1#16 <<< i → (q.upd.vals.getD i 0).toNat < 2 ^ 32 →
    let va := q.upd.line * 64 + 4 * i
    let b := (q.upd.vals.getD i 0).toNat
    let at' (o : OfuSum) : Bool := o.slice == q.upd.home && o.asid == q.upd.asid && o.va == va
    (∀ pre o post, s.ofu = pre ++ o :: post → at' o = true → (∀ x ∈ pre ++ post, at' x = false) →
      Answers (.updateMerge k) s (fun t => t.l2 = s.l2 ∧ t.hbm = s.hbm ∧ t.pushes = s.pushes.eraseIdx k ∧
        ∃ w, t.ofu = pre ++ w :: post ∧ Summed o w b (q.upd.taint.getLsbD i) ∧ q.forme ∈ w.formes)) ∧
    ((∀ o ∈ s.ofu, at' o = false) → (s.ofu.filter (fun o => o.slice == q.upd.home)).length < 256 →
      Answers (.updateMerge k) s (fun t => t.l2 = s.l2 ∧ t.hbm = s.hbm ∧ t.pushes = s.pushes.eraseIdx k ∧
        ∃ o w, t.ofu = s.ofu ++ [w] ∧ o.slice = q.upd.home ∧ o.asid = q.upd.asid ∧ o.va = va ∧ o.sum = 0 ∧ o.pinf = false ∧ o.ninf = false ∧
          o.nan = false ∧ o.allNegZero = true ∧ o.taint = false ∧ Summed o w b (q.upd.taint.getLsbD i) ∧ w.formes = [q.forme]))) ∧
  (∀ (s : State) (fid : Nat) (f : Forme) (o : OfuSum) (l : L2Line), s.formeAt fid = some f → f.phase = .compute →
    (∀ u ∈ s.tilesOf fid, u.firstCond = true) → (∀ q ∈ s.pushes, q.ofu = true → q.forme ≠ fid) →
    s.ofu = [o] → fid ∈ o.formes → o.va % 4 = 0 → s.l2At o.slice o.asid (o.va / 64) = some l → l.fill = .valid →
    let off := o.va % 64
    let old := natOfBytes (Line.bytes l.data off 4)
    let nan (v : Nat) : Prop := v / 2 ^ 23 % 2 ^ 8 = 255 ∧ v % 2 ^ 23 ≠ 0
    Answers (.firstBarrierComplete fid) s (fun t => t.ofu = [] ∧ t.hbm = s.hbm ∧
      ∃ l', t.l2At o.slice o.asid (o.va / 64) = some l' ∧ l'.dirty = true ∧
        (∀ j < 64, j < off ∨ off + 4 ≤ j → Line.bytes l'.data j 1 = Line.bytes l.data j 1) ∧
        (∀ g < 8, l'.taint.getLsbD g = (l.taint.getLsbD g || (g == off / 8 && o.taint))) ∧
        let new := natOfBytes (Line.bytes l'.data off 4)
        let plus : Prop := o.pinf = true ∨ old = 0x7F800000
        let minus : Prop := o.ninf = true ∨ old = 0xFF800000
        (nan old ∨ o.nan = true ∨ (plus ∧ minus) → new = 0x7FC00000) ∧
        (¬ nan old → o.nan = false → (plus → ¬ minus → new = 0x7F800000) ∧ (minus → ¬ plus → new = 0xFF800000) ∧
          (¬ plus → ¬ minus → ∀ x : ℝ, StandsFor fmtF32 old x →
            let q : ℝ := x + o.sum / 2 ^ 149
            (q ≠ 0 → ∃ flags, Rounds fmtF32 0 0 q (new, flags)) ∧
            (q = 0 → new = if old = 0x80000000 ∧ o.allNegZero = true then 0x80000000 else 0)))))

/-! ### Fences, timelines, taint -/

/-- R101, R133, R141, R152, R160, R161, R449 and Table 5-4: a fence other than fence.sc passes on where its commit point is clear,
every open window has landed and, for a release at .clus or wider, its tile holds no update-only line and every earlier write of
its context is acknowledged. It writes each landed result into its register and closes every window. A release at .clus or wider
clears the touched-cluster mask; an acquire at .die or .sys, and at .clus but in a tile of a fused cluster, leaves the tile no L1D
copy, and any other fence leaves them all. It waits, and nothing else changes, while a store of the context stands pending in the
buffer, or while a window has not landed; the fault of a window it delivers, with kind window. A release at .clus or wider pushes
the tile's update-only lines and waits. fence.sc of a scope other than .sys is SCOPE; fence.sc.sys announces itself, waits for
its window, and then passes on and leaves the SC order. -/
def Obligations.FencesOrder : Prop :=
  (∀ sc k s, Issues (.fence sc k) s → k < 3 → sc < 5 → commitCheck s = .go → s.ctx.wins.all Window.isLanded = true →
    (k ≠ 0 → 2 ≤ sc → s.tile.upd = [] ∧ s.writesAcked = true) → s.ctx.wins.Pairwise (fun u w => u.id ≠ w.id) →
    s.ownSc = none → Answers (.fence sc k) s (fun t => t.ctx.pc = s.ctx.fallThrough.pc ∧ (k ≠ 0 → 2 ≤ sc → t.ctx.touched = 0) ∧
      (k ≠ 1 → 3 ≤ sc ∨ (sc = 2 ∧ s.fusedTile s.tile = false) → t.tile.l1d = []) ∧
      (k = 1 ∨ sc < 2 ∨ (sc = 2 ∧ s.fusedTile s.tile = true) → t.tile.l1d = s.tile.l1d) ∧
      t.ctx.wins = [] ∧ (s.ctx.wins = [] → t.ctx.x = s.ctx.x) ∧
      (∀ r, (∀ w ∈ s.ctx.wins, w.dst ≠ r ∨ w.vec = true) → t.ctx.readX r = s.ctx.readX r) ∧
      (∀ w ∈ s.ctx.wins, ∀ v x, w.st = .landed v x → w.vec = false → w.written = 0 → 0 < w.dst → w.dst < 32 →
        (∀ u ∈ s.ctx.wins, u.dst = w.dst → u.id = w.id) → (t.ctx.readX w.dst).1 = v) ∧
      t.hbm = s.hbm ∧ t.l2 = s.l2 ∧ t.sc = s.sc ∧ t.pushes = s.pushes ∧
      t.tile.main = s.tile.main ∧ t.tile.bankA = s.tile.bankA ∧ t.tile.bankB = s.tile.bankB ∧ t.tile.sb = s.tile.sb)) ∧
  (∀ sc k s, Issues (.fence sc k) s → k < 4 → (k = 3 → sc = 4) →
    (∀ e ∈ s.tile.sb, e.ctx = s.actor.ctx → e.st = .pending → exec (.fence sc k) s = .next (s.stall .commit)) ∧
    (commitCheck s = .go →
      (∀ w ∈ s.ctx.wins, w.isLanded = false → (∀ u ∈ s.ctx.wins, ∀ f, u.st ≠ .failed f) → exec (.fence sc k) s = .next (s.stall .mem)) ∧
      (∀ w pre post f, s.ctx.wins = pre ++ w :: post → (∀ u ∈ pre, ∀ g, u.st ≠ .failed g) → w.st = .failed f → w.kind ≠ .tlwait →
        exec (.fence sc k) s = .next (s.deliver { f with kind := 1, tnt := f.tnt || (addrCode f.code && w.tnt) })) ∧
      (s.ctx.wins.all Window.isLanded = true → k ≠ 0 → 2 ≤ sc → s.tile.upd ≠ [] → Answers (.fence sc k) s (fun t =>
        t.tile.upd = [] ∧ t.ctx.pc = s.ctx.pc ∧ t.ctx.wins = s.ctx.wins ∧ t.l2 = s.l2 ∧ t.hbm = s.hbm ∧
        t.pushes.length = s.pushes.length + s.tile.upd.length ∧ ∀ u ∈ s.tile.upd, Pushed s t u)))) ∧
  (∀ sc s, Issues (.fence sc 3) s → sc ≠ 4 → Faults (.fence sc 3) s 0x22 0 (fun e => e.tval = instrWord (.fence sc 3))) ∧
  (∀ s, Issues (.fence 4 3) s → commitCheck s = .go → s.ctx.wins = [] → s.tile.upd = [] → s.writesAcked = true →
    (s.sc.find? (fun o => o.tile == s.actor.tile && o.ctx == s.actor.ctx) = none →
      Answers (.fence 4 3) s (fun t => t.ctx.pc = s.ctx.pc ∧ ∃ o, t.sc = s.sc ++ [o] ∧ o.tile = s.actor.tile ∧ o.ctx = s.actor.ctx ∧
        o.resolved = false ∧ o.window = (s.die (physDie s.actor.tile)).p.toNat / 32)) ∧
    (∀ o, s.sc.find? (fun o => o.tile == s.actor.tile && o.ctx == s.actor.ctx) = some o → o.va = none →
      (o.resolved = false → Answers (.fence 4 3) s (fun t => t.ctx.pc = s.ctx.pc ∧ t.sc = s.sc)) ∧
      (o.resolved = true → Answers (.fence 4 3) s (fun t => t.ctx.pc = s.ctx.fallThrough.pc ∧
        t.sc = s.sc.filter (fun q => q.id != o.id))))) ∧
  (∀ w s, Answers (.scWindowResolve w) s (fun t => t.sc.length = s.sc.length ∧
    ∀ k (h : k < s.sc.length) (h' : k < t.sc.length), t.sc[k].resolved =
      (s.sc[k].resolved || (s.sc[k].window == w && decide (32 * (w + 1) + 512 ≤ (s.die (physDie s.sc[k].tile)).p.toNat)))))

/-- R162 to R164: tlwait opens a window that holds the threshold and the handle; tlrd gives the counter of the matrix unit or
of the exchange engine at once, tainted, and asks an engine for its counter; TLRD_REPLY brings the answer. A handle that
names no timeline of the context is ENGF TLID (what its record holds besides is free: log entry 15). A tlwait window waits
while its counter is below its threshold, and for good once its core is frozen; at the threshold LONG_LATENCY_LANDING
finds the fault of the lowest command of its context (of any, at the exchange engine) up to the threshold where one stands
unreported, else the counter, tainted, and for an
engine's timeline the tile's L1D copies go (fence.acq.sys); the result reaches its register when the window closes. -/
def Obligations.TimelinesAreReadAndAwaited : Prop :=
  (∀ d a b l s, Issues (.tlwait d a b l) s → a < 32 → b < 32 →
    (s.timeline (s.ctx.readX a).1 = none → Faults (.tlwait d a b l) s 0x80 1 (fun _ => True)) ∧
    (∀ n, s.timeline (s.ctx.readX a).1 = some n → exec (.tlwait d a b l) s = .next (followed (.tlwait d a b l) s
      (s.openWindow l d false .tlwait .waiting ((s.ctx.readX a).2 || (s.ctx.readX b).2) (s.ctx.readX b).1 (s.ctx.readX a).1)))) ∧
  (∀ d a s, Issues (.tlrd d a) s → a < 32 →
    (s.timeline (s.ctx.readX a).1 = none → Faults (.tlrd d a) s 0x80 1 (fun _ => True)) ∧
    ((s.ctx.readX a).1 = 0 → exec (.tlrd d a) s = .next (followed (.tlrd d a) s (s.writeXd d (BitVec.ofNat 64 s.tile.mx.tl) true))) ∧
    ((s.ctx.readX a).1 = 0x4000 → exec (.tlrd d a) s = .next (followed (.tlrd d a) s (s.writeXd d (BitVec.ofNat 64 s.tile.xch.tl) true))) ∧
    (∀ x ∈ s.engs, (s.ctx.readX a).1 = BitVec.ofNat 64 (2 ^ 15 + x.eng * 8 + x.ctx) → x.eng < 48 → x.ctx < 8 → x.forme = s.forme.id →
      (∀ y ∈ s.engs, y.eng = x.eng → y.ctx = x.ctx → y = x) →
      Answers (.tlrd d a) s (fun t => t.ctx.wait = .tlrd (BitVec.ofNat 64 x.tl) d ∧ t.ctx.pc = s.ctx.pc))) ∧
  (∀ s p c v d, Acts (s.as p c) → (s.as p c).ctx.wait = .tlrd v d → (s.as p c).ctx.wins = [] → d < 32 →
    Answers (.tlrdReply p c.val) s (fun t => t.ctx.readX d = (if d = 0 then (0, false) else (v, true)) ∧
      t.ctx.wait = .nothing ∧ t.ctx.pc = (s.as p c).ctx.fallThrough.pc)) ∧
  (∀ s p (c : Fin 4) w n fs, Acts (s.as p c) → w ∈ (s.as p c).ctx.wins → (∀ u ∈ (s.as p c).ctx.wins, u.id = w.id → u = w) →
    w.kind = .tlwait → w.st = .waiting → (s.as p c).timeline w.aux = some (n, fs) →
    let own := (s.as p c).tlFaults w.aux fs
    ((s.tileD p).frozen = true ∨ n < w.addr.toNat → exec (.longLatencyLanding p c.val w.id) s = .next s) ∧
    ((s.tileD p).frozen = false → w.addr.toNat ≤ n →
      ((∀ f ∈ own, w.addr.toNat < f.num) →
        (w.rem ≠ 0 → Answers (.longLatencyLanding p c.val w.id) s (fun t =>
          (∃ u ∈ (t.as p c).ctx.wins, u.id = w.id ∧ u.st = .landed (BitVec.ofNat 64 n) true) ∧
          (Word.field w.aux 14 2 = 2 → (t.tileD p).l1d = []))) ∧
        (w.rem = 0 → w.written = 0 → (s.as p c).ctx.wins = [w] → w.dst < 32 → Answers (.longLatencyLanding p c.val w.id) s (fun t =>
          (t.as p c).ctx.wins = [] ∧ (t.as p c).ctx.readX w.dst = (if w.dst = 0 then (0, false) else (BitVec.ofNat 64 n, true)) ∧
          (Word.field w.aux 14 2 = 2 → (t.tileD p).l1d = [])))) ∧
      (∀ g ∈ own, g.num ≤ w.addr.toNat → w.rem ≠ 0 → Answers (.longLatencyLanding p c.val w.id) s (fun t =>
        ∃ f ∈ own, f.num ≤ w.addr.toNat ∧ (∀ h ∈ own, f.num ≤ h.num) ∧
          ∃ u ∈ (t.as p c).ctx.wins, u.id = w.id ∧ u.st = .failed f.exc))))

/-- R166 and Table 5-15: tnt.rd of selector 0 gives the taint bits of x and v, selector 1 those of o, lr, m and acc and
control taint, untainted in both cases; selector 2 gives the granule bits of a local line, and asks the home slice of a
line that a span covers; TAINT_LINE_READ_REPLY brings the answer. -/
def Sys2Proof.Claims.TaintIsRead : Prop :=
  (∀ d a s, Issues (.tntRd d a 0) s → d < 32 → d ≠ 0 → s.ctx.wins = [] → Answers (.tntRd d a 0) s (fun t =>
    (t.ctx.readX d).2 = false ∧ ∀ i < 32, (t.ctx.readX d).1.getLsbD i = (decide (i ≠ 0) && s.ctx.taint.x.getLsbD i) ∧
      (t.ctx.readX d).1.getLsbD (32 + i) = s.ctx.taint.v.getLsbD i)) ∧
  (∀ d a s, Issues (.tntRd d a 1) s → d < 32 → d ≠ 0 → s.ctx.wins = [] → Answers (.tntRd d a 1) s (fun t =>
    (t.ctx.readX d).2 = false ∧ (t.ctx.readX d).1.getLsbD 8 = s.ctx.taint.lr ∧ (t.ctx.readX d).1.getLsbD 32 = s.ctx.stat stCTNT ∧
    ∀ i < 8, (t.ctx.readX d).1.getLsbD i = s.ctx.taint.o.getLsbD i ∧ (t.ctx.readX d).1.getLsbD (16 + i) = s.ctx.taint.m.getLsbD i ∧
      (t.ctx.readX d).1.getLsbD (24 + i) = s.tile.mx.accTaint.getLsbD i)) ∧
  (∀ d a s off, Issues (.tntRd d a 2) s → d < 32 → d ≠ 0 → a < 32 → s.ctx.wins = [] →
    checkAccess s .read (s.ctx.readX a).1 1 = .ok (.loc off) → Answers (.tntRd d a 2) s (fun t =>
      (t.ctx.readX d).2 = false ∧ ∀ i < 8, (t.ctx.readX d).1.getLsbD i = s.tile.localTaint (off / 64 * 64 + 8 * i) 8)) ∧
  (∀ d a s n p, Issues (.tntRd d a 2) s → a < 32 → checkAccess s .read (s.ctx.readX a).1 1 = .ok (.span n p) →
    Answers (.tntRd d a 2) s (fun t => t.ctx.wait = .taintRead s.nextReq d ∧ t.ctx.pc = s.ctx.pc ∧
      ∃ r, t.reqs = s.reqs ++ [r] ∧ r.kind = .taintRead d ∧ r.st = .sent ∧ r.va.toNat = (s.ctx.readX a).1.toNat / 64 * 64)) ∧
  (∀ s p c d r v x, Acts (s.as p c) → (s.as p c).ctx.wait = .taintRead r.id d → s.reqAt r.id = some r → r.st = .done v x →
    (s.as p c).ctx.wins = [] → d < 32 → Answers (.taintLineReadReply p c.val) s (fun t =>
      t.ctx.readX d = (if d = 0 then (0, false) else (v, false)) ∧ t.ctx.wait = .nothing ∧ t.ctx.pc = (s.as p c).ctx.fallThrough.pc))

/-- R165 and R166: tnt.set sets and tnt.clr clears the taint bits that A selects and no other; tnt.chk passes on where the
bitmap AND A is zero, and otherwise raises TAINTSINK with the bitmap in INFO0. In user mode with TCLRU = 0 tnt.clr is
PRIV. A is an x register. -/
def Sys2Proof.Claims.TaintIsSetClearedAndChecked : Prop :=
  (∀ a s, Issues (.tntSet a 0) s → a < 32 → Answers (.tntSet a 0) s (fun t =>
    s.ctx.wins = [] → t.ctx.x = s.ctx.x ∧ t.ctx.taint.o = s.ctx.taint.o ∧ t.ctx.taint.m = s.ctx.taint.m ∧
    t.ctx.pc = s.ctx.fallThrough.pc ∧ ∀ i < 32,
      t.ctx.taint.x.getLsbD i = (decide (i ≠ 0) && (s.ctx.taint.x.getLsbD i || (s.ctx.readX a).1.getLsbD i)) ∧
      t.ctx.taint.v.getLsbD i = (s.ctx.taint.v.getLsbD i || (s.ctx.readX a).1.getLsbD (32 + i)))) ∧
  (∀ a s, Issues (.tntClr a 0) s → a < 32 → Answers (.tntClr a 0) s (fun t =>
    s.ctx.wins = [] → t.ctx.x = s.ctx.x ∧ t.ctx.taint.o = s.ctx.taint.o ∧ t.ctx.taint.m = s.ctx.taint.m ∧
    t.ctx.pc = s.ctx.fallThrough.pc ∧ ∀ i < 32,
      t.ctx.taint.x.getLsbD i = (decide (i ≠ 0) && s.ctx.taint.x.getLsbD i && !(s.ctx.readX a).1.getLsbD i) ∧
      t.ctx.taint.v.getLsbD i = (s.ctx.taint.v.getLsbD i && !(s.ctx.readX a).1.getLsbD (32 + i)))) ∧
  (∀ a s, Issues (.tntSet a 1) s → a < 32 → Answers (.tntSet a 1) s (fun t =>
    s.ctx.wins = [] → t.ctx.taint.x = s.ctx.taint.x ∧ t.ctx.taint.v = s.ctx.taint.v ∧
    t.ctx.stat stCTNT = (s.ctx.stat stCTNT || (s.ctx.readX a).1.getLsbD 32) ∧ t.ctx.taint.lr = (s.ctx.taint.lr || (s.ctx.readX a).1.getLsbD 8) ∧
    ∀ i < 8, t.ctx.taint.o.getLsbD i = (s.ctx.taint.o.getLsbD i || (s.ctx.readX a).1.getLsbD i) ∧
      t.ctx.taint.m.getLsbD i = (s.ctx.taint.m.getLsbD i || (s.ctx.readX a).1.getLsbD (16 + i)) ∧
      t.tile.mx.accTaint.getLsbD i = (s.tile.mx.accTaint.getLsbD i || (s.ctx.readX a).1.getLsbD (24 + i)))) ∧
  (∀ a s, Issues (.tntClr a 1) s → a < 32 → Answers (.tntClr a 1) s (fun t =>
    s.ctx.wins = [] → t.ctx.taint.x = s.ctx.taint.x ∧ t.ctx.taint.v = s.ctx.taint.v ∧
    t.ctx.stat stCTNT = (s.ctx.stat stCTNT && !(s.ctx.readX a).1.getLsbD 32) ∧ t.ctx.taint.lr = (s.ctx.taint.lr && !(s.ctx.readX a).1.getLsbD 8) ∧
    ∀ i < 8, t.ctx.taint.o.getLsbD i = (s.ctx.taint.o.getLsbD i && !(s.ctx.readX a).1.getLsbD i) ∧
      t.ctx.taint.m.getLsbD i = (s.ctx.taint.m.getLsbD i && !(s.ctx.readX a).1.getLsbD (16 + i)) ∧
      t.tile.mx.accTaint.getLsbD i = (s.tile.mx.accTaint.getLsbD i && !(s.ctx.readX a).1.getLsbD (24 + i)))) ∧
  (∀ a sel s, Issues (.tntChk a sel) s → a < 32 →
    (s.taintMap sel &&& (s.ctx.readX a).1 = 0 → exec (.tntChk a sel) s = .next (followed (.tntChk a sel) s s)) ∧
    (s.taintMap sel &&& (s.ctx.readX a).1 ≠ 0 → Faults (.tntChk a sel) s 0x21 0 (fun e => e.info0 = s.taintMap sel))) ∧
  (∀ a sel s, gate s = .go → s.ctx.stat stPM = false → s.ctx.stat stTCLRU = false →
    Faults (.tntClr a sel) s 0x03 0 (fun e => e.tval = instrWord (.tntClr a sel) ∧ e.info0 = 0))

/-- tnt.rd, tnt.set, tnt.clr and tnt.chk: TaintIsRead and TaintIsSetClearedAndChecked together. Derived from
spec/05_ordering.md: Taint; spec/05_ordering.md: Taint instructions. -/
def Obligations.TaintInstructions : Prop := TaintIsRead ∧ TaintIsSetClearedAndChecked

/-! ### Messages -/

/-- Packet k enters the network, or the injection queue where the tile meets its first-barrier condition (R235). -/
def Sys2Proof.Claims.Injected (s t : State) (k : Packet) : Prop :=
  (s.holding s.tile = false → t.net = s.net ++ [k] ∧ t.tile.unacked = s.tile.unacked + 1 ∧ t.ctx.touched.getLsbD (clusterOf k.dst) = true ∧
    t.tile.injq = s.tile.injq) ∧
  (s.holding s.tile = true → t.net = s.net ∧ t.tile.injq = s.tile.injq ++ [k])

/-- R209, R212, R218 to R221: send, sendw and dep of x registers whose descriptors the checks accept, with room in the
injection queue, inject one packet with the fields of their descriptor and their body (a sendw of no body raises the counter
alone), and pass on; with the injection
queue full the context waits and nothing else changes. -/
def Sys2Proof.Claims.MessagesAreInjected : Prop :=
  (∀ a b s, Issues (.send a b) s → a < 32 → b < 32 →
    let d := (s.ctx.readX a).1
    let len := Word.field d 24 4 + 1
    let off := (s.ctx.readX b).1.toNat % 2 ^ 32
    Word.field d 0 12 < s.forme.count → bodyOk s.forme (s.ctx.readX b).1 (16 * len) = true →
    undeclFault s (.loc off) (s.ctx.readX b).1 (16 * len) false = none → s.tile.poisoned off (16 * len) = false →
    (8 ≤ s.tile.injq.length → exec (.send a b) s = .next (s.stall .msg)) ∧
    (s.tile.injq.length < 8 → Answers (.send a b) s (fun t => t.ctx.pc = s.ctx.fallThrough.pc ∧
      t.tile.msgSeq = (s.tile.msgSeq + 1) % 2 ^ 32 ∧
      ∃ k, Injected s t k ∧ k.srcLog = s.tile.logical ∧ k.srcCtx = s.actor.ctx ∧
        (∀ u, s.logicalTile s.tile.forme (Word.field d 0 12) = some u → k.dst = u.phys) ∧
        k.kind = .send (Word.field d 12 2) (Word.field d 16 8) len (Word.field d 32 32) s.tile.msgSeq
          (s.tile.readLocal off (16 * len)) s.actor.ctx s.ctx.pc))) ∧
  (∀ a b s, Issues (.sendw a b) s → a < 32 → b < 32 →
    let d := (s.ctx.readX a).1
    let len := Word.field d 20 5
    let off := (s.ctx.readX b).1.toNat % 2 ^ 32
    Word.field d 0 12 < s.forme.count → len ≤ 16 → Word.field d 32 19 % 16 = 0 → Word.field d 32 19 + 16 * len ≤ s.forme.mainSize →
    (0 < len → bodyOk s.forme (s.ctx.readX b).1 (16 * len) = true ∧ undeclFault s (.loc off) (s.ctx.readX b).1 (16 * len) false = none ∧
      s.tile.poisoned off (16 * len) = false) → s.tile.injq.length < 8 →
    Answers (.sendw a b) s (fun t => t.ctx.pc = s.ctx.fallThrough.pc ∧ ∃ k, Injected s t k ∧
      k.kind = .sendw (Word.field d 32 19) (Word.field d 28 4) (Word.field d 12 5) (s.tile.readLocal off (16 * len)))) ∧
  (∀ a b s, Issues (.dep a b) s → a < 32 → b < 32 → Word.field (s.ctx.readX a).1 0 12 < s.forme.count → s.tile.injq.length < 8 →
    Answers (.dep a b) s (fun t => t.ctx.pc = s.ctx.fallThrough.pc ∧ ∃ k, Injected s t k ∧
      k.taint = ((s.ctx.readX b).2 || s.ctx.ctnt) ∧
      k.kind = .dep (Word.field (s.ctx.readX a).1 16 8) (Word.field (s.ctx.readX a).1 14 2) (Word.field (s.ctx.readX a).1 12 2)
        s.tile.msgSeq (s.ctx.readX b).1 (s.ctx.readX a).1))

/-- R222 and R223: on a galley that is enabled and owned by the context, and whose record at HEAD is no pad, recv and rpoll
give the record's address, tainted, and radv moves HEAD past it. On an empty galley recv waits for RECV_WAKE, rpoll gives
0 and radv does nothing. A poisoned header at HEAD freezes the core (R430). Elsewhere all three are TASKF GALLEY. -/
def Sys2Proof.Claims.GalleysAreReceived : Prop :=
  ∀ d g s, d < 32 → g < 5 →
    (∀ i, i ∈ ([.recv d g, .rpoll d g, .radv g] : List Instr) → Issues i s →
      (galEnabled s.forme (s.tile.galley g).cfg = false ∨ galOWNER (s.tile.galley g).cfg ≠ s.actor.ctx.val) →
      Faults i s 0x42 2 (fun e => e.info0 = BitVec.ofNat 64 s.tile.logical)) ∧
    (galEnabled s.forme (s.tile.galley g).cfg = true → galOWNER (s.tile.galley g).cfg = s.actor.ctx.val → s.ctx.wins = [] →
      let head := galHEAD (s.tile.galley g).ptr
      let addr := BitVec.ofNat 64 (0x01FFFFFF00000000 + galBASE (s.tile.galley g).cfg + head % 2 ^ galSIZE (s.tile.galley g).cfg)
      (head ≠ galTAIL (s.tile.galley g).ptr → s.tile.headPad g = false → s.tile.headPoison g = false →
        (∀ i ∈ ([.recv d g, .rpoll d g] : List Instr), Issues i s → Answers i s (fun t =>
          t.ctx.readX d = (if d = 0 then (0, false) else (addr, true)) ∧ t.ctx.pc = s.ctx.fallThrough.pc ∧ t.tile.galley g = s.tile.galley g)) ∧
        (Issues (.radv g) s → Answers (.radv g) s (fun t => t.ctx.pc = s.ctx.fallThrough.pc ∧
          galHEAD (t.tile.galley g).ptr = (head + 16 * (1 + s.tile.headLen g)) % 2 ^ 32 ∧
          galTAIL (t.tile.galley g).ptr = galTAIL (s.tile.galley g).ptr))) ∧
      (head ≠ galTAIL (s.tile.galley g).ptr → s.tile.headPoison g = true → ∀ i ∈ ([.recv d g, .rpoll d g, .radv g] : List Instr), Issues i s →
        exec i s = .next (sent (s.freezeCore s.actor.tile 3 s.ctx.pc))) ∧
      (head = galTAIL (s.tile.galley g).ptr →
        (Issues (.recv d g) s → Answers (.recv d g) s (fun t => t.ctx.wait = .recv g d ∧ t.ctx.pc = s.ctx.pc)) ∧
        (Issues (.rpoll d g) s → Answers (.rpoll d g) s (fun t =>
          t.ctx.readX d = (if d = 0 then (0, false) else (0, true)) ∧ t.ctx.pc = s.ctx.fallThrough.pc)) ∧
        (Issues (.radv g) s → Answers (.radv g) s (fun t => t.tile.galley g = s.tile.galley g ∧ t.ctx.pc = s.ctx.fallThrough.pc)))) ∧
    (∀ p c, Acts (s.as p c) → (s.as p c).ctx.wait = .recv g d → (s.as p c).ctx.wins = [] → (s.tileD p).headPad g = false → (s.tileD p).headPoison g = false →
      galHEAD ((s.tileD p).galley g).ptr ≠ galTAIL ((s.tileD p).galley g).ptr →
      Answers (.recvWake p c.val) s (fun t => t.ctx.wait = .nothing ∧ t.ctx.pc = (s.as p c).ctx.fallThrough.pc ∧
        t.ctx.readX d = (if d = 0 then (0, false) else ((s.tileD p).headAddr g, true))))

/-- send, sendw, dep, recv, rpoll and radv: MessagesAreInjected and GalleysAreReceived together. Derived from
spec/07_supersteps.md: Galleys; spec/07_supersteps.md: Deposits; spec/07_supersteps.md: Message instructions: major MSG. -/
def Obligations.MessagesAndGalleys : Prop := MessagesAreInjected ∧ GalleysAreReceived

/-! ### Ticks, barriers of a context, tasks -/

/-- R197: tkrd reads L, P or the alignment interval, tainted. R198: tkal with its commit point clear passes on at once where
P has come 24 ticks past T, with slip 0 and counted late; else it waits with T, the tick of issue and D recorded, and
TKAL_RELEASE gives D the ticks waited, tainted, and restarts the interval counter. T is an x register. When a waiting tkal
is released, among the moves of other agents, is the model's order and no rule of the spec (log entry 3). -/
def Sys2Proof.Claims.TicksAndAlignment : Prop :=
  (∀ d, Gives (.tkrd d 0) (fun s => s.writeXd d (s.die (physDie s.actor.tile)).l true) ∧
    Gives (.tkrd d 1) (fun s => s.writeXd d (s.die (physDie s.actor.tile)).p true) ∧
    Gives (.tkrd d 2) (fun s => s.writeXd d (BitVec.ofNat 64 s.tile.alignCtr) true)) ∧
  (∀ d a s, Issues (.tkal d a) s → d < 32 → a < 32 → commitCheck s = .go →
    let t := (s.ctx.readX a).1
    let p := (s.die (physDie s.actor.tile)).p
    (t.toNat + 24 ≤ p.toNat → s.ctx.wins = [] → Answers (.tkal d a) s (fun u => u.ctx.readX d = (if d = 0 then (0, false) else (0, true)) ∧
      u.ctx.pc = s.ctx.fallThrough.pc ∧ u.tile.alignCtr = 0 ∧ Word.field u.tile.tkrep 0 16 = 0 ∧
      Word.field u.tile.tkrep 48 16 = min 65535 (Word.field s.tile.tkrep 48 16 + 1))) ∧
    (p.toNat < t.toNat + 24 → Answers (.tkal d a) s (fun u =>
      u.ctx.wait = .tkal t (s.die (physDie s.actor.tile)).l d none ∧ u.ctx.pc = s.ctx.pc ∧ u.tile.alignCtr = s.tile.alignCtr))) ∧
  (∀ s p c t q d x, Acts (s.as p c) → (s.as p c).ctx.wait = .tkal t q d x → (s.as p c).ctx.wins = [] → d < 32 →
    t.toNat + 24 ≤ (s.die (physDie p)).p.toNat → Answers (.tkalRelease p c.val) s (fun u =>
      u.ctx.readX d = (if d = 0 then (0, false) else ((s.die (physDie p)).l - q, true)) ∧ u.ctx.wait = .nothing ∧
      u.ctx.pc = (s.as p c).ctx.fallThrough.pc ∧ u.tile.alignCtr = 0 ∧
      Word.field u.tile.tkrep 0 16 = min 65535 ((s.die (physDie p)).l - q).toNat))

/-- R201, R202, R233: sync in a context that runs no routine and gsync in a context of the tile's GSMASK with a block record
the arrival and wait, once their fence work is done: commit point clear, no window open, no update-only line, every
write acknowledged. sync in a routine is TASKF SYNCRTN, gsync outside a block TASKF BLOCK. -/
def Sys2Proof.Claims.BarriersAreJoined : Prop :=
  (∀ s, Issues .sync s → s.ctx.running = none → commitCheck s = .go → s.ctx.wins = [] → s.tile.upd = [] → s.writesAcked = true →
    Answers .sync s (fun t => t.ctx.wait = .sync ∧ t.ctx.pc = s.ctx.pc ∧ t.tile.synced.getLsbD s.actor.ctx.val = true ∧
      (∀ c : Fin 4, c ≠ s.actor.ctx → t.tile.synced.getLsbD c.val = s.tile.synced.getLsbD c.val) ∧ t.tile.l1d = [])) ∧
  (∀ s, Issues .sync s → s.ctx.running.isSome = true → Faults .sync s 0x42 7 (fun e => e.info0 = BitVec.ofNat 64 s.tile.logical)) ∧
  (∀ s, Issues .gsync s → s.tile.block.isSome = true → s.tile.gsMask.getLsbD s.actor.ctx.val = true → commitCheck s = .go →
    s.ctx.wins = [] → s.tile.upd = [] → s.writesAcked = true →
    Answers .gsync s (fun t => t.ctx.wait = .gsync ∧ t.ctx.pc = s.ctx.pc ∧ t.tile.gsynced.getLsbD s.actor.ctx.val = true)) ∧
  (∀ s, Issues .gsync s → (s.tile.block = none ∨ s.tile.gsMask.getLsbD s.actor.ctx.val = false) →
    Faults .gsync s 0x42 8 (fun e => e.info0 = BitVec.ofNat 64 s.tile.logical))

/-- R224, R225, R227, R228: tpost arms an entry that is not armed, with a threshold of 1 to 65,535 and a routine of the
forme, and otherwise is TASKF with the subcode of the first check that fails; where the entry's count has not reached
the threshold no launch follows. tinc raises a counter of its own tile that stays within 16 bits. An entry that is due
after either fires: its count falls by the threshold and its launch is queued. tinc waits until what its context has sent
to memory has settled (the model's choice of when: log entry 16); a count beyond 65,535 is TASKF CNTOVF of the forme. -/
def Obligations.TaskEntriesAreArmedAndRaised : Prop :=
  (∀ a b s, Issues (.tpost a b) s → a < 32 → b < 32 →
    let va := (s.ctx.readX a).1
    let n := Word.field va 0 5
    let r := Word.field va 5 6
    let thr := Word.field (s.ctx.readX b).1 0 16
    let e := vget s.tile.tasks n {}
    (e.arm = true → Faults (.tpost a b) s 0x42 3 (fun x => x.info1 = BitVec.ofNat 64 n)) ∧
    (e.arm = false → thr = 0 → Faults (.tpost a b) s 0x42 4 (fun x => x.info1 = BitVec.ofNat 64 n)) ∧
    (e.arm = false → thr ≠ 0 → s.forme.img.routines.length ≤ r → Faults (.tpost a b) s 0x42 5 (fun x => x.info1 = BitVec.ofNat 64 n)) ∧
    (e.arm = false → e.cnt < thr → r < s.forme.img.routines.length →
      (∀ k < 32, k ≠ n → (vget s.tile.tasks k {}).due = false) →
      Answers (.tpost a b) s (fun t => t.ctx.pc = s.ctx.fallThrough.pc ∧ t.tile.ready = s.tile.ready ∧
        vget t.tile.tasks n {} = { e with arm := true, rearm := va.getLsbD 11, routine := r, thr })) ∧
    (e.arm = false → e.pend = false → 0 < thr → thr ≤ e.cnt → r < s.forme.img.routines.length →
      (∀ k < 32, k ≠ n → (vget s.tile.tasks k {}).due = false) → s.forme.phase = .compute → s.forme.stopping = false →
      Answers (.tpost a b) s (fun t => t.ctx.pc = s.ctx.fallThrough.pc ∧
        t.tile.ready = s.tile.ready ++ [{ routine := r, entry := some n }] ∧
        vget t.tile.tasks n {} = { arm := va.getLsbD 11, rearm := va.getLsbD 11, pend := true, routine := r, thr, cnt := e.cnt - thr }))) ∧
  (∀ a b s, Issues (.tinc a b) s → a < 32 → b < 32 →
    let n := Word.field (s.ctx.readX a).1 0 5
    let inc := Word.field (s.ctx.readX b).1 0 16
    let e := vget s.tile.tasks n {}
    s.tile.upd = [] → s.ownSettled = true →
    (∀ f, s.formeAt s.tile.forme = some f → f.fault = none → 65535 < e.cnt + inc → Answers (.tinc a b) s (fun t =>
      t.ctx.pc = s.ctx.fallThrough.pc ∧ t.tile.tasks = s.tile.tasks ∧
      ∃ g x, t.formeAt s.tile.forme = some g ∧ g.fault = some x ∧ x.code = 0x42 ∧ x.sub = 9 ∧ x.info1 = BitVec.ofNat 64 n)) ∧
    ((∀ k < 32, k ≠ n → (vget s.tile.tasks k {}).due = false) → e.cnt + inc ≤ 65535 →
    ((e.arm = false ∨ e.pend = true ∨ e.cnt + inc < e.thr) → Answers (.tinc a b) s (fun t =>
      t.ctx.pc = s.ctx.fallThrough.pc ∧ vget t.tile.tasks n {} = { e with cnt := e.cnt + inc } ∧ t.tile.ready = s.tile.ready)) ∧
    (e.arm = true → e.pend = false → e.thr ≤ e.cnt + inc → s.forme.phase = .compute → s.forme.stopping = false → Answers (.tinc a b) s (fun t =>
      t.ctx.pc = s.ctx.fallThrough.pc ∧
      vget t.tile.tasks n {} = { e with cnt := e.cnt + inc - e.thr, arm := e.rearm, pend := true } ∧
      t.tile.ready = s.tile.ready ++ [{ routine := e.routine, entry := some n }]))))

/-- R149, R225, R229 and R230: rdone outside a routine is TASKF NORTN (subcode 6). In a routine it waits for its commit point, pushes
the tile's update-only lines and waits while anything that its context has sent to memory is outstanding (log entry 16); then it
frees the context for dispatch with CTNT clear, and the entry that launched the routine for its next launch, which fires at once
where its count has come to the threshold. ROUTINE_START gives the first launch of the ready queue, where it conflicts with nothing,
to the lowest free dispatch context: PC at the routine's entry, the four argument registers, every other x, v, o and m register and
lr 0, every register untainted, CTNT and PFXP 0, no loop, and FPCTL, QCTL, the matrix CSRs, PFXPAY and VBEAT 0 and untainted
(VBEAT's taint bit among them, log entry 39); the deposit registers, the rest of STATUS, the trap and upcall registers, the spans and
TSCR keep their values. -/
def Obligations.RoutinesStartAndEnd : Prop :=
  (∀ s, Issues .rdone s → s.ctx.running = none → Faults .rdone s 0x42 6 (fun e => e.info0 = BitVec.ofNat 64 s.tile.logical)) ∧
  (∀ s r, Issues .rdone s → s.ctx.running = some r → commitCheck s = .go → s.tile.upd = [] → s.ownSettled = true →
    Answers .rdone s (fun t => t.ctx.st = .noThread ∧ t.ctx.running = none ∧ t.ctx.stat stCTNT = false ∧
      t.tile.main = s.tile.main ∧ t.l2 = s.l2 ∧ t.hbm = s.hbm ∧
      ∀ n, r.entry = some n → n < 32 → (∀ k < 32, k ≠ n → (vget s.tile.tasks k {}).due = false) →
        let e := vget s.tile.tasks n {}
        (e.arm = false ∨ e.cnt < e.thr → vget t.tile.tasks n {} = { e with pend := false } ∧ t.tile.ready = s.tile.ready) ∧
        (e.arm = true → e.thr ≤ e.cnt → s.forme.phase = .compute → s.forme.stopping = false →
          vget t.tile.tasks n {} = { e with pend := true, arm := e.rearm, cnt := e.cnt - e.thr } ∧
          t.tile.ready = s.tile.ready ++ [{ routine := e.routine, entry := some n }]))) ∧
  (∀ s r, Issues .rdone s → s.ctx.running = some r →
    (∀ e ∈ s.tile.sb, e.ctx = s.actor.ctx → e.st = .pending → exec .rdone s = .next (s.stall .commit)) ∧
    (commitCheck s = .go → s.tile.upd ≠ [] → Answers .rdone s (fun t => t.tile.upd = [] ∧ t.ctx.pc = s.ctx.pc ∧ t.ctx.running = some r ∧
      ∀ u ∈ s.tile.upd, Pushed s t u))) ∧
  (∀ p s t l c rt, s.tileAt p = some t → (s.formeOf t).phase = .compute → t.frozen = false → t.ready.head? = some l →
    s.startable t 0 = true → t.freeDispatch = some c → (s.formeOf t).img.routines[l.routine]? = some rt →
    Answers (.routineStart p) s (fun u =>
      let x := (u.tileD p).ctxs[c]
      let y := t.ctxs[c]
      (u.tileD p).ready = t.ready.tail ∧ x.st = .running ∧ x.pc = rt.entry ∧ x.running = some { routine := l.routine, entry := l.entry } ∧
      x.readX 10 = (BitVec.ofNat 64 (s.formeOf t).k, false) ∧
      x.readX 11 = (match l.entry with | some n => BitVec.ofNat 64 n | none => BitVec.ofNat 64 ((s.formeOf t).k - t.stage), false) ∧
      x.readX 12 = (0x01FFFFFF00000000, false) ∧ x.readX 13 = (BitVec.ofNat 64 t.logical, false) ∧
      (∀ r < 32, (r < 10 ∨ 13 < r) → x.readX r = (0, false)) ∧ (∀ r ≤ 40, ∀ e < 64, x.readVElem r e = (0, false)) ∧
      (∀ r < 8, vget x.m r 0 = 0) ∧ x.taint = {} ∧ x.loops = [] ∧ x.stat stCTNT = false ∧ x.stat stPFXP = false ∧
      x.fpctl = 0 ∧ x.qctl = 0 ∧ x.mastr = 0 ∧ x.msstr = 0 ∧ x.mascl = 0 ∧ x.mbscl = 0 ∧ x.pfxpay = 0 ∧ x.vbeat = 0 ∧
      (∀ n ∈ [0x10, 0x11, 0x12, 0x13, 0x20, 0x21, 0x22, 0x23], x.csrTaint.getLsbD n = false) ∧
      x.mb = y.mb ∧ x.mbstat = y.mbstat ∧ x.spans = y.spans ∧ x.tvec = y.tvec ∧ x.tfp = y.tfp ∧ x.uvec = y.uvec ∧ x.ufp = y.ufp ∧
      x.udeleg = y.udeleg ∧ x.tscr = y.tscr ∧ (∀ b < 64, b ≠ stCTNT → b ≠ stPFXP → x.stat b = y.stat b) ∧
      (∀ q : Fin 4, q ≠ c → (u.tileD p).ctxs[q] = t.ctxs[q]) ∧ (u.tileD p).main = t.main))

/-! ### Arrivals of the message network -/

/-- R99, R142, R145: REMOTE_STORE_LAND of a packet in order at its receiver. Where no word that it writes holds another
tile's record of the superstep, its bytes stand in the shadow bank, and the acknowledgement carries no fault; else
nothing is written and the acknowledgement carries RACE. No other tile and no other memory changes. -/
def Sys2Proof.Claims.RemoteStoresLand : Prop :=
  ∀ i s k off bs c pc, s.net[i]? = some k → k.kind = .remoteStore off bs c pc → s.inOrder i k = true → (s.tileAt k.dst).isSome = true →
    TileCanonical (s.tileD k.dst) →
    let t := s.tileD k.dst
    (t.shadowRace off bs.length k.srcLog (s.phaseOf k.dst) = none → Answers (.remoteStoreLand i) s (fun u =>
      Memory.read (u.tileD k.dst).shadowBank off bs.length = bs ∧
      (∀ a, a < off ∨ off + bs.length ≤ a → Memory.get (u.tileD k.dst).shadowBank a = Memory.get t.shadowBank a) ∧
      (u.tileD k.dst).activeBank = t.activeBank ∧ (u.tileD k.dst).main = t.main ∧ u.net = s.net.eraseIdx i ∧
      (∃ x, u.acks = s.acks ++ [x] ∧ x.fault = none ∧ x.dst = k.src) ∧ u.hbm = s.hbm ∧ u.l2 = s.l2 ∧
      ∀ q, q ≠ k.dst → u.tileD q = s.tileD q)) ∧
    (∀ o, t.shadowRace off bs.length k.srcLog (s.phaseOf k.dst) = some o → Answers (.remoteStoreLand i) s (fun u =>
      u.tiles = s.tiles ∧ u.hbm = s.hbm ∧ u.net = s.net.eraseIdx i ∧
      ∃ x e, u.acks = s.acks ++ [x] ∧ x.fault = some e ∧ x.dst = k.src ∧ e.code = 0x20 ∧ e.info0 = BitVec.ofNat 64 o))

/-- R215 and R216: SEND_ARRIVE of a packet in order. Its record, header and body, stands at TAIL of an enabled galley whose
owner's generation it names and that has room for it, and TAIL moves past it; a galley without room refuses it and the
sender owes GALLEYOVF; a disabled galley or another generation makes it a dead letter. The record does not meet the end
of the ring. -/
def Sys2Proof.Claims.SendsArrive : Prop :=
  ∀ i s k g gen len tag seq body c pc, s.net[i]? = some k → k.kind = .send g gen len tag seq body c pc → s.inOrder i k = true →
    (s.tileAt k.dst).isSome = true → g < 4 → body.length = 16 * len → TileCanonical (s.tileD k.dst) →
    let t := s.tileD k.dst
    let cfg := (t.galley g).cfg
    let ptr := (t.galley g).ptr
    (galEnabled (s.formeOf t) cfg = true → gen = (t.ctxs[ctxNum (galOWNER cfg)]).gen.toNat → galFits cfg ptr len = true →
      galTAIL ptr % 2 ^ galSIZE cfg + 16 * (1 + len) ≤ 2 ^ galSIZE cfg → Answers (.sendArrive i) s (fun u =>
        (u.tileD k.dst).readLocal (galBASE cfg + galTAIL ptr % 2 ^ galSIZE cfg + 16) body.length = body ∧
        (u.tileD k.dst).readLocal (galBASE cfg + galTAIL ptr % 2 ^ galSIZE cfg) 16 =
          galHeader (s.stepOf t) seq gen 0 len 0 k.srcCtx.val k.srcLog tag ∧
        galTAIL ((u.tileD k.dst).galley g).ptr = (galTAIL ptr + 16 + 16 * len) % 2 ^ 32 ∧
        galHEAD ((u.tileD k.dst).galley g).ptr = galHEAD ptr ∧ u.net = s.net.eraseIdx i ∧
        ∃ x, u.acks = s.acks ++ [x] ∧ x.fault = none)) ∧
    (galEnabled (s.formeOf t) cfg = true → gen = (t.ctxs[ctxNum (galOWNER cfg)]).gen.toNat → galFits cfg ptr len = false →
      Answers (.sendArrive i) s (fun u => u.tiles = s.tiles ∧ u.net = s.net.eraseIdx i ∧
        ∃ x e, u.acks = s.acks ++ [x] ∧ x.fault = some e ∧ e.code = 0x41)) ∧
    ((galEnabled (s.formeOf t) cfg = false ∨ gen ≠ (t.ctxs[ctxNum (galOWNER cfg)]).gen.toNat) →
      Answers (.sendArrive i) s (fun u => u.net = s.net.eraseIdx i ∧ (u.tileD k.dst).galley g = t.galley g ∧
        ∃ x, u.acks = s.acks ++ [x] ∧ x.fault = none))

/-- R217, R220, R358: SENDW_ARRIVE writes its bytes into main store and raises the counter after; DEPOSIT_ARRIVE of the
context's generation writes its deposit register, with VALID set and OVER set where it was; INTERRUPT_PACKET_ARRIVE of the
context's generation sets its line. The packets are in order, and the context is not saved: while it stands saved a
deposit is dead-lettered and its acknowledgement returns, and an interrupt packet stays where it is. -/
def Sys2Proof.Claims.OtherMessagesArrive : Prop :=
  (∀ i s k off inc n body, s.net[i]? = some k → k.kind = .sendw off inc n body → s.inOrder i k = true → (s.tileAt k.dst).isSome = true →
    TileCanonical (s.tileD k.dst) → off + body.length ≤ 0x80000 → (vget (s.tileD k.dst).tasks n {}).arm = false →
    (∀ m < 32, (vget (s.tileD k.dst).tasks m {}).due = false) → (vget (s.tileD k.dst).tasks n {}).cnt + inc ≤ 65535 → n < 32 →
    Answers (.sendwArrive i) s (fun u => (u.tileD k.dst).readLocal off body.length = body ∧
      (∀ a, a < off ∨ off + body.length ≤ a → Memory.get (u.tileD k.dst).main a = Memory.get (s.tileD k.dst).main a) ∧
      (vget (u.tileD k.dst).tasks n {}).cnt = (vget (s.tileD k.dst).tasks n {}).cnt + inc ∧ u.net = s.net.eraseIdx i)) ∧
  (∀ i s k gen mb c seq v d, s.net[i]? = some k → k.kind = .dep gen mb c seq v d → s.inOrder i k = true → (s.tileAt k.dst).isSome = true →
    c < 4 → mb < 4 → s.savedCtx (s.tileD k.dst) = false → gen = ((s.tileD k.dst).ctxs[ctxNum c]).gen.toNat →
    Answers (.depositArrive i) s (fun u =>
      let x := (s.tileD k.dst).ctxs[ctxNum c]
      let y := (u.tileD k.dst).ctxs[ctxNum c]
      vget y.mb mb 0 = v ∧ y.mbTaint.getLsbD mb = k.taint ∧ y.mbstat.getLsbD mb = true ∧
      y.mbstat.getLsbD (4 + mb) = (x.mbstat.getLsbD mb || x.mbstat.getLsbD (4 + mb)) ∧
      (∀ j < 4, j ≠ mb → vget y.mb j 0 = vget x.mb j 0 ∧ y.mbstat.getLsbD j = x.mbstat.getLsbD j) ∧
      y.x = x.x ∧ y.pc = x.pc ∧ y.status = x.status ∧ u.net = s.net.eraseIdx i)) ∧
  (∀ i s k c line gen, s.net[i]? = some k → k.kind = .intr c line gen → s.inOrder i k = true → (s.tileAt k.dst).isSome = true →
    c < 4 → line < 16 → s.savedCtx (s.tileD k.dst) = false → gen = ((s.tileD k.dst).ctxs[ctxNum c]).gen.toNat →
    Answers (.interruptPacketArrive i) s (fun u =>
      ((u.tileD k.dst).ctxs[ctxNum c]).intp = ((s.tileD k.dst).ctxs[ctxNum c]).intp ||| 1 <<< line ∧ u.net = s.net.eraseIdx i)) ∧
  (∀ i s k gen mb c seq v d, s.net[i]? = some k → k.kind = .dep gen mb c seq v d → s.inOrder i k = true → (s.tileAt k.dst).isSome = true →
    s.savedCtx (s.tileD k.dst) = true → Answers (.depositArrive i) s (fun u => u.net = s.net.eraseIdx i ∧
      (u.tileD k.dst).ctxs = (s.tileD k.dst).ctxs ∧ ∃ x, u.acks = s.acks ++ [x] ∧ x.fault = none)) ∧
  (∀ i s k c line gen, s.net[i]? = some k → k.kind = .intr c line gen → s.savedCtx (s.tileD k.dst) = true →
    exec (.interruptPacketArrive i) s = .next s)

/-- R210 and R237: MSG_ACK. The sender has one write fewer outstanding; a refused remote store or send leaves its fault with
the context that issued it, where that has the generation still. -/
def Sys2Proof.Claims.AcknowledgementsReachTheirSender : Prop :=
  ∀ i s a, s.acks[i]? = some a → (s.tileAt a.dst).isSome = true → a.xnum = none → Answers (.msgAck i) s (fun t =>
    t.acks = s.acks.eraseIdx i ∧ (t.tileD a.dst).unacked = (s.tileD a.dst).unacked - 1 ∧
    (∀ e, a.fault = some e → ((s.tileD a.dst).ctxs[a.ctx]).gen = a.gen →
      ((t.tileD a.dst).ctxs[a.ctx]).deferred = ((s.tileD a.dst).ctxs[a.ctx]).deferred ++ [e]) ∧
    (a.fault = none → (t.tileD a.dst).ctxs = (s.tileD a.dst).ctxs) ∧ t.net = s.net ∧ t.hbm = s.hbm)

/-- Remote stores, sends, sendw, deposits, interrupts and acknowledgements arrive: RemoteStoresLand, SendsArrive,
OtherMessagesArrive and AcknowledgementsReachTheirSender together. Derived from spec/07_supersteps.md: The dynamic
networks; spec/07_supersteps.md: Galleys; spec/07_supersteps.md: Deposits; spec/04_memory.md: The local and remote
regions. -/
def Obligations.PacketsArrive : Prop := RemoteStoresLand ∧ SendsArrive ∧ OtherMessagesArrive ∧ AcknowledgementsReachTheirSender

/-! ### Vector instructions -/

namespace Sys2Proof.Claims

/-- An element-wise instruction: the instruction, its second vector source if it has one, and the lane that it gives from
the pending payload and the lanes of A, B and the old D. -/
abbrev LaneOp := Instr × Option Nat × (Word → Lane → Lane → Lane → Lane)

/-- Tables 8-8 and 8-10 and R264, R265: the float instructions, those of VSFU (correctly rounded: log entry 6) and the
conversions. -/
def floatLaneOps (d a b h n m : Nat) : List LaneOp :=
  [(.vfadd d a b n m, some b, fun p x y z => (floatOp p (fun t r u v _ => fAdd t r (t.decode u) (t.decode v)) x y z).1),
   (.vfsub d a b n m, some b, fun p x y z => (floatOp p (fun t r u v _ => fAdd t r (t.decode u) (t.decode v).negate) x y z).1),
   (.vfmul d a b n m, some b, fun p x y z => (floatOp p (fun t r u v _ => fMul t r (t.decode u) (t.decode v)) x y z).1),
   (.vfmin d a b n m, some b, fun p x y z => (floatOp p (fun t _ u v _ => fMin t u v) x y z).1),
   (.vfmax d a b n m, some b, fun p x y z => (floatOp p (fun t _ u v _ => fMax t u v) x y z).1),
   (.vfcsgn d a b n m, some b, fun p x y z => (floatOp p (fun t _ u v _ =>
      (u % 2 ^ (t.width - 1) + v / 2 ^ (t.width - 1) * 2 ^ (t.width - 1), fNone)) x y z).1),
   (.vfabs d a n m, none, fun p x y z => (floatOp p (fun t _ u _ _ => (u % 2 ^ (t.width - 1), fNone)) x y z).1),
   (.vfneg d a n m, none, fun p x y z => (floatOp p (fun t _ u _ _ => (u ^^^ 2 ^ (t.width - 1), fNone)) x y z).1),
   (.vfma d a b n m, some b, fun p x y z => (floatOp p (fun t r u v w => fFma t r (t.decode u) (t.decode v) (t.decode w)) x y z).1),
   (.vfms d a b n m, some b, fun p x y z => (floatOp p (fun t r u v w => fFma t r (t.decode u) (t.decode v) (t.decode w).negate) x y z).1),
   (.vfnma d a b n m, some b, fun p x y z => (floatOp p (fun t r u v w => fFma t r (t.decode u).negate (t.decode v) (t.decode w)) x y z).1),
   (.vfnms d a b n m, some b, fun p x y z =>
      (floatOp p (fun t r u v w => fFma t r (t.decode u).negate (t.decode v) (t.decode w).negate) x y z).1),
   (.vfdiv d a b n m, some b, fun p x y z => (floatOp p (fun t r u v _ => fDiv t r (t.decode u) (t.decode v)) x y z).1),
   (.vfsqrt d a n m, none, fun p x y z => (floatOp p (fun t r u _ _ => fSqrt t r (t.decode u)) x y z).1),
   (.vfclass d a n m, none, fun _ x _ _ => BitVec.ofNat 32 (fClass x.toNat)),
   (.vrcp d a n m, none, fun _ x _ _ => BitVec.ofNat 32 (sfRcp (fmtF32.decode x.toNat)).1),
   (.vrsq d a n m, none, fun _ x _ _ => BitVec.ofNat 32 (sfRsq (fmtF32.decode x.toNat)).1),
   (.vex2 d a n m, none, fun _ x _ _ => BitVec.ofNat 32 (sfEx2 (fmtF32.decode x.toNat)).1),
   (.vlg2 d a n m, none, fun _ x _ _ => BitVec.ofNat 32 (sfLg2 (fmtF32.decode x.toNat)).1),
   (.vtanh d a n m, none, fun _ x _ _ => BitVec.ofNat 32 (sfTanh (fmtF32.decode x.toNat)).1),
   (.vcvt d a n m, none, fun p x _ _ => BitVec.ofNat 32 (cvtBy p tyI32 tyF32 x.toNat).1),
   (.vpack d a b n m, some b, fun p x y _ =>
      BitVec.ofNat 32 ((cvtBy p tyF32 tyBf16 x.toNat).1 + (cvtBy p tyF32 tyBf16 y.toNat).1 * 2 ^ 16)),
   (.vunpk d a h n m, none, fun p x _ _ => BitVec.ofNat 32 (cvtBy p tyBf16 tyF32 (x.toNat / 2 ^ (16 * h) % 2 ^ 16)).1)]

/-- Table 8-11: the integer instructions on each part of a lane, of the type that the prefix names, saturating where it
says so. -/
def intLaneOps (d a b n m : Nat) : List LaneOp :=
  [(.vadd d a b n m, some b, fun p x y _ => (intOp p true (fun w g u v => intVal w g u + intVal w g v) x y).1),
   (.vsub d a b n m, some b, fun p x y _ => (intOp p true (fun w g u v => intVal w g u - intVal w g v) x y).1),
   (.vmul d a b n m, some b, fun p x y _ => (intOp p true (fun w g u v => intVal w g u * intVal w g v) x y).1),
   (.vmulh d a b n m, some b, fun p x y _ => (intOp p false (fun w g u v => intVal w g u * intVal w g v / (2 ^ w : Nat)) x y).1),
   (.vmin d a b n m, some b, fun p x y _ => (intOp p false (fun w _ u v => min (intVal w true u) (intVal w true v)) x y).1),
   (.vmax d a b n m, some b, fun p x y _ => (intOp p false (fun w _ u v => max (intVal w true u) (intVal w true v)) x y).1),
   (.vminn d a b n m, some b, fun p x y _ => (intOp p false (fun _ _ u v => (min u v : Nat)) x y).1),
   (.vmaxn d a b n m, some b, fun p x y _ => (intOp p false (fun _ _ u v => (max u v : Nat)) x y).1),
   (.vand d a b n m, some b, fun _ x y _ => x &&& y),
   (.vor d a b n m, some b, fun _ x y _ => x ||| y),
   (.vxor d a b n m, some b, fun _ x y _ => x ^^^ y),
   (.vsll d a b n m, some b, fun p x y _ => (intOp p false (fun w _ u v => ((u * 2 ^ (v % w) : Nat) : Int)) x y).1),
   (.vsrl d a b n m, some b, fun p x y _ => (intOp p false (fun w _ u v => ((u / 2 ^ (v % w) : Nat) : Int)) x y).1),
   (.vsra d a b n m, some b, fun p x y _ => (intOp p false (fun w _ u v => intVal w true u / (2 ^ (v % w) : Nat)) x y).1),
   (.vabs d a n m, none, fun p x _ _ => (intOp p true (fun w _ u _ => ((intVal w true u).natAbs : Int)) x 0).1)]

/-- Table 8-11 where no prefix is pending: the type is i32, and the results are those of 32-bit arithmetic. -/
def plainLaneOps (d a b n m : Nat) : List LaneOp :=
  [(.vadd d a b n m, some b, fun _ x y _ => x + y), (.vsub d a b n m, some b, fun _ x y _ => x - y),
   (.vmul d a b n m, some b, fun _ x y _ => x * y),
   (.vmulh d a b n m, some b, fun _ x y _ => BitVec.ofInt 32 (x.toInt * y.toInt / 2 ^ 32)),
   (.vmin d a b n m, some b, fun _ x y _ => if x.toInt ≤ y.toInt then x else y),
   (.vmax d a b n m, some b, fun _ x y _ => if x.toInt ≤ y.toInt then y else x),
   (.vminn d a b n m, some b, fun _ x y _ => if x.toNat ≤ y.toNat then x else y),
   (.vmaxn d a b n m, some b, fun _ x y _ => if x.toNat ≤ y.toNat then y else x),
   (.vsll d a b n m, some b, fun _ x y _ => x <<< (y.toNat % 32)), (.vsrl d a b n m, some b, fun _ x y _ => x >>> (y.toNat % 32)),
   (.vsra d a b n m, some b, fun _ x y _ => x.sshiftRight (y.toNat % 32)),
   (.vabs d a n m, none, fun _ x _ _ => if x.toInt < 0 then -x else x),
   (.vfabs d a n m, none, fun _ x _ _ => x &&& 0x7FFFFFFF), (.vfneg d a n m, none, fun _ x _ _ => x ^^^ 0x80000000),
   (.vfcsgn d a b n m, some b, fun _ x y _ => (x &&& 0x7FFFFFFF) ||| (y &&& 0x80000000))]

/-- Element e of vector source n, or 0 where there is none. -/
def srcLane (c : Ctx) (n : Option Nat) (e : Nat) : Lane :=
  match n with
  | some b => (c.readVElem b e).1
  | none => 0

/-- Every vector register but D, the masks and the scalar registers are as before. -/
def VecFrame (d : Nat) (c u : Ctx) : Prop :=
  (∀ r e, r < 40 → r ≠ d → e < 64 → (u.readVElem r e).1 = (c.readVElem r e).1) ∧ u.m = c.m ∧ u.x = c.x

/-- D after an element-wise instruction in registers: from the beat that issues next on, each element of 0 to n − 1 that
participates takes the lane of the operation and every other keeps its value (R243, R244, R250); lr holds the elements
of those beats, and 0 beyond them (R245). -/
def LaneResult (op : LaneOp) (d a n m : Nat) (s : State) : Prop :=
  Answers op.1 s (fun t =>
    (∀ e < 64, (d < 32 ∨ e < 8) → (t.ctx.readVElem d e).1 =
      if 8 * s.ctx.vStart ≤ e ∧ e < 8 * (n + 1) ∧ s.ctx.participates m e = true
      then op.2.2 s.ctx.pay (s.ctx.readVElem a e).1 (srcLane s.ctx op.2.1 e) (s.ctx.readVElem d e).1
      else (s.ctx.readVElem d e).1) ∧
    (∀ e < 64, 8 * s.ctx.vStart ≤ e → vget t.ctx.lr e 0 = if e < 8 * (n + 1) then (t.ctx.readVElem d e).1 else 0) ∧
    VecFrame d s.ctx t.ctx ∧ t.ctx.pc = s.ctx.fallThrough.pc ∧ t.ctx.vbeat = 0 ∧ t.tile.fab = s.tile.fab)

/-- The registers of an element-wise instruction in v, o and lr alone, with no window open. -/
def InRegs (op : LaneOp) (d a n : Nat) (s : State) : Prop :=
  Issues op.1 s ∧ s.ctx.wins = [] ∧ d < 40 ∧ a ≤ 40 ∧ (∀ b, op.2.1 = some b → b ≤ 40) ∧ n < 8

/-- Lanes that a beat reads from a source: a flit's, or a register's. -/
def beatLane (s : State) (n i : Nat) : Lane :=
  if 41 ≤ n then (s.headIn (n - 41)).val.extractLsb' (32 * i) 32 else (s.ctx.readVElem n i).1

end Sys2Proof.Claims

/-- R242 to R245, R252 to R254, R256 to R258, R264 and R265, Tables 8-8, 8-9, 8-10 and 8-16: each float instruction,
special function and conversion in registers, with the lanes of the model's number formats: how they round is
FloatOperationsRound. From the beat that issues next on, lr holds the lanes of D, elements that do not participate with their old
value (R245: the model's reading of merged lanes, log entry 8). -/
def Sys2Proof.Claims.FloatLaneResults : Prop :=
  ∀ d a b h n m op s, op ∈ floatLaneOps d a b h n m → InRegs op d a n s → LaneResult op d a n m s

/-- R242 to R245 and R250, Table 8-11: each integer instruction in registers, of every type and saturation that a prefix
names; and vsel, whose mask selects and does not mask. The model's readings (log entry 8): that vabs of the most negative value of
an n type under SAT stays that value, beside Table 8-11's 'the most positive under SAT', and that lr takes the merged lanes of D. -/
def Sys2Proof.Claims.IntegerLaneResults : Prop :=
  (∀ d a b n m op s, op ∈ intLaneOps d a b n m → InRegs op d a n s → LaneResult op d a n m s) ∧
  (∀ d a b n m s, Issues (.vsel d a b n m) s → s.ctx.wins = [] → d < 40 → a ≤ 40 → b ≤ 40 → n < 8 → Answers (.vsel d a b n m) s (fun t =>
    (∀ e < 64, (d < 32 ∨ e < 8) → (t.ctx.readVElem d e).1 =
      if 8 * s.ctx.vStart ≤ e ∧ e < 8 * (n + 1) then
        (if s.ctx.participates m e = true then (s.ctx.readVElem a e).1 else (s.ctx.readVElem b e).1)
      else (s.ctx.readVElem d e).1) ∧ VecFrame d s.ctx t.ctx ∧ t.ctx.pc = s.ctx.fallThrough.pc))

/-- Table 8-11 and Table 8-8 where no prefix is pending: the integer results are those of 32-bit arithmetic, and the sign
instructions act on the sign bit of an f32. -/
def Sys2Proof.Claims.PlainLaneResults : Prop :=
  ∀ d a b n m op s, op ∈ plainLaneOps d a b n m → InRegs op d a n s → s.ctx.stat stPFXP = false → LaneResult op d a n m s

/-- R46, R243, R244 and R249: an element-wise instruction of one beat with ports among its operands. With a flit for each
read and room for its write it consumes one flit a read and sends one flit, whose lanes of elements that do not participate are 0;
else the context waits and nothing else changes. -/
def Sys2Proof.Claims.LanesThroughPorts : Prop :=
  ∀ d a b h m op s, op ∈ floatLaneOps d a b h 0 m ++ intLaneOps d a b 0 m → Issues op.1 s → s.ctx.wins = [] → s.ctx.vAct = false →
    (vPorts (a :: op.2.1.toList) (some d) s.tile = false → exec op.1 s = .next (s.stall .port)) ∧
    (vPorts (a :: op.2.1.toList) (some d) s.tile = true → Answers op.1 s (fun t =>
      (∀ q < 4, t.tile.inQ q = (s.tile.inQ q).drop ((a :: op.2.1.toList).countP (fun x => x == 41 + q))) ∧
      (∀ p < 4, d ≠ 45 + p → t.tile.outQ p = s.tile.outQ p) ∧
      (∀ p < 4, d = 45 + p → op.2.1 ≠ some a → ∃ f, t.tile.outQ p = s.tile.outQ p ++ [f] ∧ ∀ i < 8, f.val.extractLsb' (32 * i) 32 =
        if s.ctx.participates m i = true
        then op.2.2 s.ctx.pay (beatLane s a i) ((op.2.1.map (fun x => beatLane s x i)).getD 0) 0 else 0) ∧
      t.ctx.pc = s.ctx.fallThrough.pc))

/-- Element-wise vector instructions in registers and through ports, with the frame: FloatLaneResults, IntegerLaneResults,
PlainLaneResults and LanesThroughPorts together. Derived from spec/08_vector.md: Vector state and element layout;
spec/08_vector.md: Beats, issue and interlocks; spec/08_vector.md: Float arithmetic: VFA and VFB; spec/08_vector.md:
Special functions: VSFU; spec/08_vector.md: Integer arithmetic: VIA and VIB; spec/08_vector.md: Conversions: VCVT. -/
def Obligations.LaneInstructions : Prop := FloatLaneResults ∧ IntegerLaneResults ∧ PlainLaneResults ∧ LanesThroughPorts

/-- R259, Table 8-12: a comparison in registers writes bit e of mask D for each element of 0 to n − 1 that participates, from
the beat that issues next on, and leaves every other bit, mask and register alone. -/
def Sys2Proof.Claims.ComparisonResults : Prop :=
  ∀ (d a b n m : Nat) (i : Instr) (r : Lane → Lane → Bool),
    (i, r) ∈ ([
      (.veq d a b n m, fun x y => x == y), (.vlt d a b n m, fun x y => decide (x.toInt < y.toInt)),
      (.vltn d a b n m, fun x y => decide (x.toNat < y.toNat)), (.vle d a b n m, fun x y => decide (x.toInt ≤ y.toInt)),
      (.vfeq d a b n m, fun x y => (fcmp true (fun u v => !FVal.lt false u v && !FVal.lt false v u) x y).1),
      (.vflt d a b n m, fun x y => (fcmp false (FVal.lt false) x y).1),
      (.vfle d a b n m, fun x y => (fcmp false (fun u v => !FVal.lt false v u) x y).1),
      (.vfun d a b n m, fun x y => (fmtF32.decode x.toNat).isNan || (fmtF32.decode y.toNat).isNan)] : List (Instr × (Lane → Lane → Bool))) →
    a ≤ 40 → b ≤ 40 → d < 8 → n < 8 → ∀ s, Issues i s → s.ctx.wins = [] → Answers i s (fun t =>
      (∀ e < 64, (vget t.ctx.m d 0).getLsbD e =
        if 8 * s.ctx.vStart ≤ e ∧ e < 8 * (n + 1) ∧ s.ctx.participates m e = true
        then r (s.ctx.readVElem a e).1 (s.ctx.readVElem b e).1 else (vget s.ctx.m d 0).getLsbD e) ∧
      (∀ k < 8, k ≠ d → vget t.ctx.m k 0 = vget s.ctx.m k 0) ∧ t.ctx.v = s.ctx.v ∧ t.ctx.o = s.ctx.o ∧ t.ctx.lr = s.ctx.lr ∧
      t.ctx.x = s.ctx.x ∧ t.ctx.pc = s.ctx.fallThrough.pc)

/-- R260, R261, Table 8-13: the mask instructions on bits 0 to n − 1 in masks and x registers, bits beyond them keeping
their value; mpop counts the bits that are 1, mfirst gives the lowest of them or 64. -/
def Sys2Proof.Claims.MaskInstructionResults : Prop :=
  (∀ (d a b n m : Nat) (i : Instr) (f : Bool → Bool → Bool),
    (i, f) ∈ ([(.mand d a b n m, fun x y => x && y), (.mor d a b n m, fun x y => x || y), (.mxor d a b n m, fun x y => x != y),
      (.mnot d a n m, fun x _ => !x), (.mmovMm d a n m, fun x _ => x)] : List (Instr × (Bool → Bool → Bool))) →
    d < 8 → n < 8 → ∀ s, Issues i s → Answers i s (fun t => (∀ e < 64, (vget t.ctx.m d 0).getLsbD e =
      if 8 * s.ctx.vStart ≤ e ∧ e < 8 * (n + 1) then f ((vget s.ctx.m a 0).getLsbD e) ((vget s.ctx.m b 0).getLsbD e)
      else (vget s.ctx.m d 0).getLsbD e) ∧ (∀ k < 8, k ≠ d → vget t.ctx.m k 0 = vget s.ctx.m k 0) ∧ t.ctx.pc = s.ctx.fallThrough.pc)) ∧
  (∀ (d a n m : Nat) (i : Instr) (f : Word → Nat → Bool),
    (i, f) ∈ ([(.msetl d a n m, fun v e => decide (e < v.toNat)), (.mmovXm d a n m, fun v e => v.getLsbD e)] : List (Instr × (Word → Nat → Bool))) →
    d < 8 → a < 32 → n < 8 → ∀ s, Issues i s → s.ctx.vAct = false → Answers i s (fun t => (∀ e < 64, (vget t.ctx.m d 0).getLsbD e =
      if e < 8 * (n + 1) then f (s.ctx.readX a).1 e else (vget s.ctx.m d 0).getLsbD e) ∧ t.ctx.pc = s.ctx.fallThrough.pc)) ∧
  (∀ d a n m s, d < 32 → d ≠ 0 → n < 8 → s.ctx.wins = [] →
    let bit (e : Nat) : Bool := (vget s.ctx.m a 0).getLsbD e && decide (e < 8 * (n + 1))
    (Issues (.mpop d a n m) s → Answers (.mpop d a n m) s (fun t =>
      (t.ctx.readX d).1.toNat = ((List.range 64).filter bit).length ∧ t.ctx.pc = s.ctx.fallThrough.pc)) ∧
    (Issues (.mfirst d a n m) s → Answers (.mfirst d a n m) s (fun t =>
      (t.ctx.readX d).1.toNat = ((List.range 64).find? bit).getD 64 ∧ t.ctx.pc = s.ctx.fallThrough.pc)) ∧
    (Issues (.mmovMx d a n m) s → Answers (.mmovMx d a n m) s (fun t =>
      (∀ e < 64, (t.ctx.readX d).1.getLsbD e = bit e) ∧ t.ctx.pc = s.ctx.fallThrough.pc)))

/-- Vector comparisons and mask instructions: ComparisonResults and MaskInstructionResults together. Derived from
spec/08_vector.md: Comparisons and masks: VCMP and VMSK. -/
def Obligations.ComparisonsAndMasks : Prop := ComparisonResults ∧ MaskInstructionResults

/-- Two partial results joined; an empty one yields the other (R262). -/
def Sys2Proof.Claims.join {α : Type} (f : α → α → α) : Option α → Option α → Option α
  | some x, some y => some (f x y)
  | some x, none => some x
  | none, y => y

/-- R262: a reduction's order: each lane's elements in ascending beats, then ((0+1)+(2+3))+((4+5)+(6+7)). -/
def Sys2Proof.Claims.reduced {α : Type} (f : α → α → α) (el : Nat → Option α) (n : Nat) : Option α :=
  let p (i : Nat) : Option α := (List.range (n + 1)).foldl (fun acc j => Sys2Proof.Claims.join f acc (el (8 * j + i))) none
  let j := Sys2Proof.Claims.join f
  j (j (j (p 0) (p 1)) (j (p 2) (p 3))) (j (j (p 4) (p 5)) (j (p 6) (p 7)))

/-- R262: the reductions of a vector register into an x register, from beat 0: the exact 64-bit sum; signed extrema; AND
and OR; the float sum, each step rounded, and extrema, a NaN in its canonical form; with no element the identity of
the table. That vfsum of a single NaN element gives the canonical NaN (R253), where R262's own steps give the element itself, is
the model's reading (log entry 8). -/
def Sys2Proof.Claims.ReductionResults : Prop :=
  ∀ d a n m s, d < 32 → d ≠ 0 → a ≤ 40 → n < 8 → s.ctx.wins = [] → s.ctx.vAct = false →
    let on (e : Nat) : Bool := s.ctx.participates m e && decide (e < 8 * (n + 1))
    let x (e : Nat) : Lane := (s.ctx.readVElem a e).1
    let xs : List Lane := ((List.range 64).filter on).map x
    let el (e : Nat) : Option Nat := if on e then some (x e).toNat else none
    let canon (c : Nat) : Word := BitVec.ofNat 64 (if (fmtF32.decode c).isNan then 0x7FC00000 else c)
    let gives (i : Instr) (v : Word) : Prop := Issues i s → Answers i s (fun t =>
      (t.ctx.readX d).1 = v ∧ t.ctx.v = s.ctx.v ∧ t.ctx.o = s.ctx.o ∧ t.ctx.lr = s.ctx.lr ∧ t.ctx.m = s.ctx.m ∧ t.ctx.pc = s.ctx.fallThrough.pc)
    gives (.vrsum d a n m) (BitVec.ofInt 64 (xs.foldl (fun r v => r + v.toInt) 0)) ∧
    gives (.vrmax d a n m) (xs.foldl (fun r v => if r.toInt < v.toInt then v else r) 0x80000000#32 |>.signExtend 64) ∧
    gives (.vrmin d a n m) (xs.foldl (fun r v => if v.toInt < r.toInt then v else r) 0x7FFFFFFF#32 |>.signExtend 64) ∧
    gives (.vrand d a n m) (xs.foldl (fun r v => r &&& v) 0xFFFFFFFF#32 |>.setWidth 64) ∧
    gives (.vror d a n m) (xs.foldl (fun r v => r ||| v) 0#32 |>.setWidth 64) ∧
    gives (.vfsum d a n m) (((Sys2Proof.Claims.reduced (fun u v => (fAdd fmtF32 (payRND s.ctx.pay) (fmtF32.decode u) (fmtF32.decode v)).1) el n).map canon).getD 0) ∧
    gives (.vfrmax d a n m) (((Sys2Proof.Claims.reduced (fun u v => (fMax fmtF32 u v).1) el n).map canon).getD 0xFF800000) ∧
    gives (.vfrmin d a n m) (((Sys2Proof.Claims.reduced (fun u v => (fMin fmtF32 u v).1) el n).map canon).getD 0x7F800000)

/-- R263, Table 8-15: the permutations in registers, from beat 0, with the elements that do not participate keeping their
value; vext gives one element as a scalar, vins writes one element. -/
def Sys2Proof.Claims.PermutationResults : Prop :=
  ∀ d a b n m s, n < 8 → s.ctx.wins = [] → s.ctx.vAct = false →
    let len := 8 * (n + 1)
    let A (e : Nat) : Lane := (s.ctx.readVElem a e).1
    let B (e : Nat) : Lane := (s.ctx.readVElem b e).1
    let k := min (s.ctx.readX b).1.toNat 64
    let gives (i : Instr) (f : Nat → Lane) : Prop := Issues i s → d < 40 → a ≤ 40 → b ≤ 40 → Answers i s (fun t =>
      (∀ e < len, (d < 32 ∨ e < 8) → (t.ctx.readVElem d e).1 = if s.ctx.participates m e = true then f e else (s.ctx.readVElem d e).1) ∧
      VecFrame d s.ctx t.ctx ∧ t.ctx.pc = s.ctx.fallThrough.pc)
    (b < 32 → gives (.vslu d a b n m) (fun e => if k ≤ e then A (e - k) else 0)) ∧
    (b < 32 → gives (.vsld d a b n m) (fun e => if e + k < len then A (e + k) else 0)) ∧
    gives (.vperm d a b n m) (fun e => if (B e).toNat % 64 < len then A ((B e).toNat % 64) else 0) ∧
    gives (.vzip d a b n m) (fun e => if e % 2 = 0 then A (e / 2) else B (e / 2)) ∧
    gives (.vunzip d a b n m) (fun e => if 2 * e < len then A (2 * e) else B (2 * e - len)) ∧
    (Issues (.vsplat d a n m) s → d < 40 → a < 32 → Answers (.vsplat d a n m) s (fun t =>
      (∀ e < len, (d < 32 ∨ e < 8) → (t.ctx.readVElem d e).1 =
        if s.ctx.participates m e = true then low (s.ctx.readX a).1 else (s.ctx.readVElem d e).1) ∧ VecFrame d s.ctx t.ctx)) ∧
    (Issues (.vins d a b n m) s → d < 40 → a < 32 → b < 32 → Answers (.vins d a b n m) s (fun t =>
      (∀ e < 64, (d < 32 ∨ e < 8) → (t.ctx.readVElem d e).1 =
        if e = (s.ctx.readX b).1.toNat % 64 ∧ e < len ∧ s.ctx.participates m e = true then low (s.ctx.readX a).1 else (s.ctx.readVElem d e).1) ∧
      VecFrame d s.ctx t.ctx)) ∧
    (Issues (.vext d a b n m) s → d < 32 → d ≠ 0 → a ≤ 40 → b < 32 → Answers (.vext d a b n m) s (fun t =>
      (t.ctx.readX d).1 = (if (s.ctx.readX b).1.toNat % 64 < len then (A ((s.ctx.readX b).1.toNat % 64)).setWidth 64 else 0) ∧
      t.ctx.v = s.ctx.v ∧ t.ctx.o = s.ctx.o ∧ t.ctx.lr = s.ctx.lr))

/-- Reductions into a scalar and permutations of elements: ReductionResults and PermutationResults together. Derived from
spec/08_vector.md: Reductions: VRED; spec/08_vector.md: Permutations: VPERM. -/
def Obligations.ReductionsAndPermutations : Prop := ReductionResults ∧ PermutationResults

/-! ### Vector memory -/

/-- The vector loads with the address of element e (R266, R268): A + e × stride, the stride 4 where B is x0; A plus the
zero-extended element e of B. -/
def Sys2Proof.Claims.VecLoadForm (i : Instr) (s : State) (d l n : Nat) (ea : Nat → Word) : Prop :=
  (∃ a b h, i = .vld d a b l n h ∧ ea = fun e => (s.ctx.readX a).1 + BitVec.ofNat 64 e * (if b = 0 then 4 else (s.ctx.readX b).1)) ∨
  (∃ a b, i = .vgather d a b l n ∧ ea = fun e => (s.ctx.readX a).1 + ((s.ctx.readVElem b e).1).setWidth 64)

/-- The lane that the tile itself gives, at issue, for the four bytes at `a` of a cached span (R100, R113, R138): the bytes that
the context's own pending stores hold, where they cover the granule (log entry 9), else those of the L1D copy under the
context's pending stores; with no push of the tile and no load or atomic of the context under way on the line. -/
def Sys2Proof.Claims.TileGives (s : State) (p : Span) (a : Word) (v : Lane) : Prop :=
  p.chk = false ∧ p.nc = false ∧ pushOn s s.actor.tile s.forme.asid (a.toNat / 64) = false ∧
  s.reqs.any (fun r => r.openOn s.actor.tile s.actor.ctx s.forme.asid (a.toNat / 64)) = false ∧
  ((∃ bs x, sbCover s.tile s.actor.ctx s.forme.asid a.toNat 4 = some (bs, x) ∧ v = BitVec.ofNat 32 (natOfBytes bs)) ∨
   (sbCover s.tile s.actor.ctx s.forme.asid a.toNat 4 = none ∧ ∃ c, l1Find s s.tile s.forme.asid a.toNat = some c ∧
      let u := c.under (ownPending s.tile s.actor.ctx s.forme.asid (a.toNat / 64))
      lineTaint u.poison (a.toNat % 64) 4 = false ∧ v = BitVec.ofNat 32 (natOfBytes (Line.bytes u.data (a.toNat % 64) 4))))

/-- The tile does not hold what a read of the four bytes at `a` gives: it asks the home slice (R100, R105, R113). -/
def Sys2Proof.Claims.TileAsks (s : State) (p : Span) (a : Word) : Prop :=
  p.chk = true ∨ p.nc = true ∨ (sbCover s.tile s.actor.ctx s.forme.asid a.toNat 4 = none ∧ l1Find s s.tile s.forme.asid a.toNat = none)

/-- R98, R100, R113, R266 and R268: vld and vgather of aligned elements that the checks accept, the tile holding no update-only
line. Elements in local store, and elements of cached spans that the buffer or an L1D copy gives, have their lanes bound in the
window at issue; where every element must be asked for, because its span is NC or CHECKED or the tile holds nothing of it, each
sends a request of 4 bytes and the window waits; where some elements are given and others must be asked for, on other lines, the
window waits with a request for each, those given answered already. A fifth window with a vector destination waits at issue (R361); a misaligned
element raises ALIGN with its address, the lowest such element's. -/
def Sys2Proof.Claims.VectorLoadsBegin : Prop :=
  ∀ i s d l n ea, VecLoadForm i s d l n ea → Issues i s → n < 8 →
    let eas := (List.range (8 * (n + 1))).map ea
    (∀ offs : List Nat, checkElems s .read eas = .ok (offs.map Target.loc) → s.ctx.vecFull = false → s.ctx.wins = [] →
      (∀ o ∈ offs, s.tile.poisoned o 4 = false) → Answers i s (fun t =>
        ∃ w x, t.ctx.wins = [w] ∧ w.id = s.ctx.nextWin ∧ w.dst = d ∧ w.vec = true ∧ w.rem = l ∧ w.n = 8 * (n + 1) ∧
          w.st = .boundV (offs.map (fun o => BitVec.ofNat 32 (natOfBytes (s.tile.readLocal o 4)))) x ∧
          t.ctx.v = s.ctx.v ∧ t.ctx.pc = s.ctx.fallThrough.pc ∧ t.tile.main = s.tile.main)) ∧
    (∀ ts (vs : List Lane), checkElems s .read eas = .ok ts → vs.length = 8 * (n + 1) → s.ctx.vecFull = false → s.ctx.wins = [] → s.tile.upd = [] →
      (∀ e < 8 * (n + 1), ∃ k p, ts[e]? = some (.span k p) ∧ TileGives s p (ea e) (vs.getD e 0)) → Answers i s (fun t =>
        ∃ w x, t.ctx.wins = [w] ∧ w.id = s.ctx.nextWin ∧ w.dst = d ∧ w.vec = true ∧ w.rem = l ∧ w.st = .boundV vs x ∧
          t.ctx.v = s.ctx.v ∧ t.ctx.pc = s.ctx.fallThrough.pc ∧ t.reqs = s.reqs ∧ t.hbm = s.hbm ∧ t.l2 = s.l2)) ∧
    (∀ ts, checkElems s .read eas = .ok ts → s.ctx.vecFull = false → s.ctx.wins = [] → s.tile.upd = [] →
      (∀ e < 8 * (n + 1), ∃ k p, ts[e]? = some (.span k p) ∧ TileAsks s p (ea e)) → Answers i s (fun t =>
        (∃ w, t.ctx.wins = [w] ∧ w.dst = d ∧ w.vec = true ∧ w.rem = l ∧ w.st = .waiting) ∧ t.ctx.pc = s.ctx.fallThrough.pc ∧
        ∃ rs, t.reqs = s.reqs ++ rs ∧ rs.length = 8 * (n + 1) ∧
          ∀ e (h : e < rs.length), rs[e].va = ea e ∧ rs[e].size = 4 ∧ rs[e].st = .sent ∧ rs[e].kind = .vload s.ctx.nextWin e)) ∧
    (∀ ts (g : Nat → Option Lane), checkElems s .read eas = .ok ts → s.ctx.vecFull = false → s.ctx.wins = [] → s.tile.upd = [] →
      (∀ r ∈ s.reqs, r.id < s.nextReq) → (∃ e < 8 * (n + 1), g e = none) →
      (∀ e < 8 * (n + 1),
        (∃ o, ts[e]? = some (.loc o) ∧ s.tile.poisoned o 4 = false ∧ g e = some (BitVec.ofNat 32 (natOfBytes (s.tile.readLocal o 4)))) ∨
        (∃ k p, ts[e]? = some (.span k p) ∧ ((∃ v, TileGives s p (ea e) v ∧ g e = some v) ∨ (TileAsks s p (ea e) ∧ g e = none)))) →
      (∀ e < 8 * (n + 1), ∀ k < 8 * (n + 1), g e = none → g k ≠ none → (ea e).toNat / 64 ≠ (ea k).toNat / 64) → Answers i s (fun t =>
        (∃ w, t.ctx.wins = [w] ∧ w.id = s.ctx.nextWin ∧ w.dst = d ∧ w.vec = true ∧ w.rem = l ∧ w.st = .waiting) ∧ t.ctx.pc = s.ctx.fallThrough.pc ∧
        ∃ rs, t.reqs = s.reqs ++ rs ∧ rs.length = 8 * (n + 1) ∧ ∀ e < 8 * (n + 1), ∃ r ∈ rs, r.kind = .vload s.ctx.nextWin e ∧ r.va = ea e ∧
          r.tile = s.tile.phys ∧ r.ctx = s.actor.ctx ∧ (g e = none → r.st = .sent) ∧
          (∀ v, g e = some v → ∃ y x, r.st = .done y x ∧ y.setWidth 32 = v))) ∧
    (∀ ts, checkElems s .read eas = .ok ts → s.ctx.vecFull = true → exec i s = .next (s.stall .mem)) ∧
    (∀ e < 8 * (n + 1), (ea e).toNat % 4 ≠ 0 → (∀ k < e, (ea k).toNat % 4 = 0) → Faults i s 0x05 0 (fun x => x.tval = ea e))

/-- R117 and R266: LONG_LATENCY_LANDING of a vector load's window, with instructions left, whose element requests, in whatever
order they stand, have all been answered: the lanes land together, each element's at its place, and the requests go; where some
failed, the window keeps the failure of the lowest such element, to be delivered at its close. -/
def Sys2Proof.Claims.AnsweredLanesLand : Prop :=
  ∀ (s : State) (p : Nat) (c : Fin 4) (w : Window) (rs : List Req),
    (s.tileAt p).isSome = true → (s.tileD p).ctxs[c].wins = [w] → w.st = .waiting → w.vec = true → w.rem ≠ 0 →
    (w.kind = .vld ∨ ∃ offs, w.kind = .gather offs) → s.winReqs p c w.id = rs → rs ≠ [] →
    (∀ e < rs.length, ∃ r ∈ rs, r.kind = .vload w.id e) →
    (∀ (vs : List Lane), vs.length = rs.length → (∀ r ∈ rs, ∀ e, r.kind = .vload w.id e → ∃ v x, r.st = .done v x ∧ vs.getD e 0 = v.setWidth 32) →
      Answers (.longLatencyLanding p c.val w.id) s (fun t =>
        (∃ x, (t.tileD p).ctxs[c].wins = [{ w with st := .landedV vs x }]) ∧ t.reqs = s.reqs.filter (fun r => !rs.contains r))) ∧
    (∀ r ∈ rs, ∀ e f, r.kind = .vload w.id e → r.st = .failed f → (∀ q ∈ rs, ∀ k < e, q.kind = .vload w.id k → ∃ v x, q.st = .done v x) →
      (∀ q ∈ rs, q.isDone = true) → Answers (.longLatencyLanding p c.val w.id) s (fun t =>
        (t.tileD p).ctxs[c].wins = [{ w with st := .failed f }]))

/-- R51, R53 and R266: LONG_LATENCY_LANDING of a vector window whose lanes are bound, with no instruction left: it closes, and D,
a v register or an o register of 8 elements, takes the lanes; the elements beyond them, and those that later windows of D have
written already (log entry 5), keep their value, and so does every other register. -/
def Sys2Proof.Claims.BoundLanesLandAndClose : Prop :=
  ∀ (s : State) (p : Nat) (c : Fin 4) (w : Window) (vs : List Lane) (x : Bool),
    (s.tileAt p).isSome = true → (s.tileD p).ctxs[c].wins = [w] → w.st = .boundV vs x → w.rem = 0 → w.vec = true →
    (w.dst < 32 ∧ vs.length ≤ 64) ∨ (32 ≤ w.dst ∧ w.dst < 40 ∧ vs.length ≤ 8) →
    Answers (.longLatencyLanding p c.val w.id) s (fun t =>
      (t.tileD p).ctxs[c].wins = [] ∧
      (∀ e < 64, (w.dst < 32 ∨ e < 8) → ((t.tileD p).ctxs[c].readVElem w.dst e).1 =
        if w.written ≤ e ∧ e < vs.length then vs.getD e 0 else ((s.tileD p).ctxs[c].readVElem w.dst e).1) ∧
      (∀ r e, r < 40 → r ≠ w.dst → e < 64 → ((t.tileD p).ctxs[c].readVElem r e).1 = ((s.tileD p).ctxs[c].readVElem r e).1) ∧
      (t.tileD p).ctxs[c].x = (s.tileD p).ctxs[c].x ∧ (t.tileD p).ctxs[c].pc = (s.tileD p).ctxs[c].pc)

/-- vld and vgather: windows, requests, ALIGN, and the lanes that land: VectorLoadsBegin, AnsweredLanesLand and
BoundLanesLandAndClose together. Derived from spec/08_vector.md: Memory access: vld, vst, vgather, vscatter. -/
def Obligations.VectorLoads : Prop := VectorLoadsBegin ∧ AnsweredLanesLand ∧ BoundLanesLandAndClose

/-- The vector stores with the address and the participation of element e (R267, R268), and whether what they store is tainted
(R119): by the address, the mask, the source, a register here, or control. -/
def Sys2Proof.Claims.VecStoreForm (i : Instr) (s : State) (src n : Nat) (ea : Nat → Word) (on : Nat → Bool) (x : Bool) : Prop :=
  (∃ a b m h, i = .vst src a b n m h ∧ on = s.ctx.participates m ∧
    (ea = fun e => (s.ctx.readX a).1 + BitVec.ofNat 64 e * (if b = 0 then 4 else (s.ctx.readX b).1)) ∧
    x = ((s.ctx.readX a).2 || (s.ctx.readX b).2 || s.ctx.predTaint m || (s.ctx.readVElem src 0).2 || s.ctx.ctnt)) ∨
  (∃ a b, i = .vscatter src a b n ∧ on = (fun _ => true) ∧
    (ea = fun e => (s.ctx.readX a).1 + ((s.ctx.readVElem b e).1).setWidth 64) ∧
    x = ((s.ctx.readX a).2 || (s.ctx.readVElem b 0).2 || (s.ctx.readVElem src 0).2 || s.ctx.ctnt))

/-- R97, R119, R232, R267 and R268, with the frame: vst and vscatter of a register's elements to distinct aligned places of local
store, main store or the active bank, the queue window off, from beat 0, where the routine that runs, if one does, declares
every place. Each element that participates stands at its place afterwards, and every other byte of memory is as before. Where it
does not, the lowest element that it leaves out is UNDECL, and nothing is written. The memories are in canonical form. -/
def Sys2Proof.Claims.VectorStoresToLocalStore : Prop :=
  ∀ i s src n ea on x (off : Nat → Nat), VecStoreForm i s src n ea on x → Issues i s → n < 8 → src ≤ 40 → s.ctx.vAct = false →
    s.tile.mqwin.getLsbD 63 = false → TileCanonical s.tile →
    (∀ e < 8 * (n + 1), on e = true → ea e = BitVec.ofNat 64 (0x01FFFFFF00000000 + off e) ∧ off e % 4 = 0 ∧ off e < 2 ^ 32 ∧
      localOk s.forme (off e) 4 = true) →
    (∀ e < 8 * (n + 1), ∀ k < 8 * (n + 1), on e = true → on k = true → off e = off k → e = k) →
    let undeclared (e : Nat) : Bool := (undeclFault s (.loc (off e)) (ea e) 4 true).isSome
    ((∀ e < 8 * (n + 1), on e = true → undeclared e = false) → Answers i s (fun t =>
      (∀ e < 8 * (n + 1), on e = true → natOfBytes (t.tile.readLocal (off e) 4) = (s.ctx.readVElem src e).1.toNat) ∧
      (∀ q, (∀ e < 8 * (n + 1), on e = true → q < off e ∨ off e + 4 ≤ q) → t.tile.readLocal q 1 = s.tile.readLocal q 1) ∧
      t.tile.shadowBank = s.tile.shadowBank ∧ t.tile.activeA = s.tile.activeA ∧ t.tile.sb = s.tile.sb ∧ t.hbm = s.hbm ∧ t.l2 = s.l2 ∧
      t.ctx.pc = s.ctx.fallThrough.pc)) ∧
    (∀ e < 8 * (n + 1), on e = true → undeclared e = true → (∀ k < e, on k = true → undeclared k = false) →
      Faults i s 0x16 0 (fun y => y.tval = ea e ∧ ∀ r, s.ctx.running = some r → y.info0 = BitVec.ofNat 64 r.routine))

/-- R112, R119, R145, R150, R267 and R268, with the frame: vst and vscatter of a register's elements through spans, with room in the
store buffer, from beat 0. Where no SINK span would take tainted data, and the race check of every element of a CHECKED span
passes at its line's home slice, which holds the line, the buffer keeps its entries and takes new ones of the context. Each
element that participates has its 32-byte chunk and its four bytes marked in one of them, and the last element of an address
has its lane at that place; a byte of a new entry is marked for an element that participates alone. No memory changes; the
checked words' records are this tile's. Where another tile's record of the phase holds a checked word, the lowest such element is
RACE, and nothing is stored. Tainted data for a SINK span among the first beat's elements is TAINTSINK at the lowest of them, and
nothing is stored. -/
def Sys2Proof.Claims.VectorStoresThroughSpans : Prop :=
  ∀ i s src n ea on x (ts : List Target), VecStoreForm i s src n ea on x → Issues i s → n < 8 → src ≤ 40 → s.ctx.vAct = false →
    let es := (List.range (8 * (n + 1))).filter on
    checkElems s .write (es.map ea) = .ok ts → (∀ y ∈ ts, ∃ k p, y = .span k p) → s.tile.sb.length + 8 * (n + 1) ≤ 32 → s.tile.upd = [] →
    let words (a : Word) := wordsOf (a.toNat % 64) 4
    let lineOf (p : Span) (a : Word) := s.l2At (homeOf s s.tile p a.toNat) s.forme.asid (a.toNat / 64)
    -- the span of each checked element's address, and its line
    let Checked (j : Nat) (a : Word) (l : L2Line) : Prop := ∃ k p, es[j]?.map ea = some a ∧ ts[j]? = some (.span k p) ∧ p.chk = true ∧ lineOf p a = some l
    let Clear (j : Nat) : Prop := ∀ a l, Checked j a l → raceOther l.shadow (words a) s.tile.logical (s.phaseOf s.actor.tile) = none
    (∀ (j k : Nat) p a, ts[j]? = some (.span k p) → p.chk = true → es[j]?.map ea = some a → ∃ l, lineOf p a = some l ∧ l.fill = .valid) →
    ((∀ j, Clear j) → (∀ k p, Target.span k p ∈ ts → p.sink = true → x = false) →
      Answers i s (fun t => ∃ new, t.tile.sb = s.tile.sb ++ new ∧ (∀ e ∈ new, e.ctx = s.actor.ctx ∧ e.asid = s.forme.asid ∧ e.taint = x) ∧
        (∀ e < 8 * (n + 1), on e = true → ∃ y ∈ new, y.va.toNat = (ea e).toNat / 32 * 32 ∧
          (∀ b < 4, y.mask.getLsbD ((ea e).toNat % 32 + b) = true) ∧
          ((∀ k < 8 * (n + 1), e < k → on k = true → ea k ≠ ea e) →
            y.data.extractLsb' (8 * ((ea e).toNat % 32)) 32 = (s.ctx.readVElem src e).1)) ∧
        (∀ y ∈ new, ∀ b < 32, y.mask.getLsbD b = true → ∃ e < 8 * (n + 1), on e = true ∧ y.va.toNat = (ea e).toNat / 32 * 32 ∧
          (ea e).toNat % 32 ≤ b ∧ b < (ea e).toNat % 32 + 4) ∧
        ((∀ k p, Target.span k p ∈ ts → p.chk = false) → t.l2 = s.l2) ∧
        (∀ slice line l, s.l2At slice s.forme.asid line = some l → ∃ m, t.l2At slice s.forme.asid line = some m ∧ m = { l with shadow := m.shadow }) ∧
        (∀ j a l, Checked j a l → ∃ m, t.l2At l.slice s.forme.asid l.line = some m ∧ ∀ q, q ≠ s.tile.logical →
          raceOther m.shadow (words a) q (s.phaseOf s.actor.tile) ≠ none) ∧
        t.hbm = s.hbm ∧ t.tile.main = s.tile.main ∧ t.tile.bankA = s.tile.bankA ∧ t.tile.bankB = s.tile.bankB ∧
        t.ctx.pc = s.ctx.fallThrough.pc)) ∧
    (∀ j a l o, Checked j a l → raceOther l.shadow (words a) s.tile.logical (s.phaseOf s.actor.tile) = some o → (∀ h < j, Clear h) →
      Faults i s 0x20 0 (fun y => y.tval = a ∧ y.info0 = BitVec.ofNat 64 o)) ∧
    (∀ (j e k : Nat) p, x = true → (∀ k p, Target.span k p ∈ ts → p.chk = false) → es[j]? = some e → e < 8 → ts[j]? = some (.span k p) → p.sink = true →
      (∀ h < j, ∀ (k' : Nat) p', ts[h]? = some (.span k' p') → p'.sink = false) →
      ∃ y s', exec i s = .next (s.deliverIn s' y) ∧ y.code = 0x21 ∧ y.kind = kPrecise ∧ y.tval = ea e ∧ y.ipc = s.ctx.pc ∧
        s'.tile.sb = s.tile.sb ∧ s'.hbm = s.hbm ∧ s'.l2 = s.l2 ∧ s'.tile.main = s.tile.main)

/-- R99, R235, R267 and R268: a vst of a register's elements to the remote region, its injection queue empty, from beat 0: for each
element that participates, in element order, a packet with its four bytes for that place of that tile's exchange window
enters the network, or is held while R235 holds the tile's writes (of one beat here, since the queue holds eight). A vscatter
there is refused with SPANF REMLD, as everything but st, stx and vst is. -/
def Sys2Proof.Claims.VectorStoresToTheRemoteRegion : Prop :=
  (∀ src a b n m h s (dst off : Nat → Nat), Issues (.vst src a b n m h) s → n < 8 → src ≤ 40 → s.ctx.vAct = false → s.tile.injq = [] →
    let ea (e : Nat) : Word := (s.ctx.readX a).1 + BitVec.ofNat 64 e * (if b = 0 then 4 else (s.ctx.readX b).1)
    let es := (List.range (8 * (n + 1))).filter (s.ctx.participates m)
    checkElems s .write (es.map ea) = .ok (es.map (fun e => Target.remote (dst e) (off e))) →
    let Sent (ks : List Packet) : Prop := ks.length = es.length ∧ ∀ j (h : j < ks.length) (h' : j < es.length),
      ks[j].kind = .remoteStore (off es[j]) (bytesOfNat 4 (s.ctx.readVElem src es[j]).1.toNat) s.actor.ctx s.ctx.pc ∧
      ks[j].src = s.tile.phys ∧ ks[j].srcCtx = s.actor.ctx ∧
      ∀ u, s.logicalTile s.tile.forme (dst es[j]) = some u → ks[j].dst = u.phys
    (s.holding s.tile = false → Answers (.vst src a b n m h) s (fun t => (∃ ks, t.net = s.net ++ ks ∧ Sent ks) ∧ t.tile.injq = [] ∧
      t.tile.sb = s.tile.sb ∧ t.tile.main = s.tile.main ∧ t.hbm = s.hbm ∧ t.l2 = s.l2 ∧ t.ctx.pc = s.ctx.fallThrough.pc)) ∧
    (s.holding s.tile = true → n = 0 → Answers (.vst src a b n m h) s (fun t => Sent t.tile.injq ∧ t.net = s.net ∧
      t.tile.sb = s.tile.sb ∧ t.tile.main = s.tile.main ∧ t.hbm = s.hbm ∧ t.l2 = s.l2 ∧ t.ctx.pc = s.ctx.fallThrough.pc))) ∧
  (∀ src a b n s, Issues (.vscatter src a b n) s → n < 8 → s.ctx.vAct = false →
    let ea (e : Nat) : Word := (s.ctx.readX a).1 + ((s.ctx.readVElem b e).1).setWidth 64
    (∀ e < 8 * (n + 1), (ea e).toNat % 4 = 0) → isRemote (ea 0) = true → Faults (.vscatter src a b n) s 0x10 6 (fun x => x.tval = ea 0))

/-- vst and vscatter: the elements stored, and every other byte as before: VectorStoresToLocalStore,
VectorStoresThroughSpans and VectorStoresToTheRemoteRegion together. Derived from spec/08_vector.md: Memory access: vld,
vst, vgather, vscatter. -/
def Obligations.VectorStores : Prop := VectorStoresToLocalStore ∧ VectorStoresThroughSpans ∧ VectorStoresToTheRemoteRegion

/-! ### Prefix and block formats -/

/-- R57, R275 to R277: pfx sets PFXP and gives PFXPAY its fields, untainted; the instruction after it finds the payload
pending. -/
def Sys2Proof.Claims.PrefixIsPending : Prop :=
  ∀ d a b t r x s, Issues (.pfx d a b t r x) s → d < 16 → a < 16 → b < 16 → t < 16 → r < 4 → x < 2 → Answers (.pfx d a b t r x) s (fun u =>
    u.ctx.stat stPFXP = true ∧ Word.field u.ctx.pfxpay 15 4 = d ∧ Word.field u.ctx.pfxpay 11 4 = a ∧ Word.field u.ctx.pfxpay 7 4 = b ∧
    Word.field u.ctx.pfxpay 3 4 = t ∧ Word.field u.ctx.pfxpay 1 2 = r ∧ Word.field u.ctx.pfxpay 0 1 = x ∧
    u.ctx.csrTaint.getLsbD 0x12 = false ∧ u.ctx.pc = s.ctx.fallThrough.pc)

/-- R57, R250 and R277: an instruction that follows in sequence, pfx apart, leaves no prefix pending, no progress of a vector
instruction, and its context with no stall and no wait. -/
def Sys2Proof.Claims.CompletionSpendsThePrefix : Prop :=
  ∀ i s t, (t.tileAt t.actor.tile).isSome = true → (instrShape i).isPfx = false →
    (followed i s t).ctx.stat stPFXP = false ∧ (followed i s t).ctx.vbeat = 0 ∧ (followed i s t).ctx.stall = none ∧
    (followed i s t).ctx.wait = .nothing ∧ (followed i s t).hbm = t.hbm ∧ (followed i s t).tile.main = t.tile.main

/-- The instructions of major VQNT with the tag that each resolves (R288): the prefix's, or for vqnt and vdqt under a prefix tag
of 0 that of scale word 0; and whether its lengths go by the rotation length. -/
def Sys2Proof.Claims.BlockForm (i : Instr) (s : State) (d a b n m T : Nat) (byR : Bool) : Prop :=
  let rt := payRTAG s.ctx.pay
  (i = .vscl d a n m ∧ T = rt ∧ byR = false) ∨
  ((i = .vqnt d a b n m ∨ i = .vdqt d a b n m) ∧ T = (if rt ≠ 0 then rt else swTag (s.ctx.scaleAt b 0)) ∧ byR = false) ∨
  ((i = .vrotFwd d a n m ∨ i = .vrotInv d a n m) ∧ T = rt ∧ byR = true)

/-- The scale words of vqnt and vdqt pass the checks of R288: their tag is T, none is malformed, and one for 8-bit codes names no
k4 meaning. -/
def Sys2Proof.Claims.ScaleOk (T w x : Nat) : Prop := swTag x = T ∧ swBad x = false ∧ (w = 8 → swKtype x = 0)

/-- R288 to R293: vscl, vqnt, vdqt and vrot complete wherever their tag, from 0 to 15, has a seed and their length divides the
elements, with every type code that their prefix may name. vscl writes the scale word of each block; vqnt packs the codes of each
block, of 8 or 4 bits, scaled by its scale word; vdqt writes the values of the codes; vrot writes each rotation group,
forward or inverse. Under tag 0 vrot gives every number back as it was; under another tag a group that holds a NaN or an
infinity becomes the canonical NaN throughout. The functions on one block are the model's. -/
def Sys2Proof.Claims.BlockFormatsComplete : Prop :=
  ∀ d a b n m s T mask r, n < 8 → d < 40 → a ≤ 40 → b ≤ 40 → s.ctx.wins = [] → s.forme.seed T = some (mask, r) →
    let pay := s.ctx.pay
    let l := blockLen s.ctx.qctl T r
    let n8 := 8 * (n + 1)
    let td := if payTD pay = 0 then tyE4m3 else payTD pay
    let ta := if payTA pay = 0 then tyE4m3 else payTA pay
    let wd := if td = tyK4 then 4 else 8
    let wa := if ta = tyK4 then 4 else 8
    let W (j : Nat) : Nat := s.ctx.scaleAt b j
    (BlockForm (.vscl d a n m) s d a b n m T false → n8 % l = 0 → Issues (.vscl d a n m) s → Answers (.vscl d a n m) s (fun t =>
      let k := if td = tyK4 then Word.field s.ctx.qctl 0 2 else 0
      (∀ j < n8 / l, t.ctx.scaleAt d j = (chooseScale k T (codesOf td k) (forward T mask (s.ctx.block a j l))).1 % 2 ^ 16) ∧
      VecFrame d s.ctx t.ctx ∧ t.ctx.pc = s.ctx.fallThrough.pc)) ∧
    (BlockForm (.vqnt d a b n m) s d a b n m T false → n8 % l = 0 → (∀ j < n8 / l, ScaleOk T wd (W j)) →
      Issues (.vqnt d a b n m) s → Answers (.vqnt d a b n m) s (fun t =>
        (∀ j < n8 / l, ∀ i < l, t.ctx.codeAt d wd (j * l + i) =
          ((quantBlock (codesOf td (swKtype (W j))) (paySAT pay) (W j) (s.ctx.block a j l) (forward T mask (s.ctx.block a j l))).map
            (fun x => x.1)).getD i 0 % 2 ^ wd) ∧
        VecFrame d s.ctx t.ctx ∧ t.ctx.pc = s.ctx.fallThrough.pc)) ∧
    (BlockForm (.vdqt d a b n m) s d a b n m T false → n8 % l = 0 → (∀ j < n8 / l, ScaleOk T wa (W j)) →
      Issues (.vdqt d a b n m) s → Answers (.vdqt d a b n m) s (fun t =>
        (∀ j < n8 / l, ∀ i < l, (t.ctx.readVElem d (j * l + i)).1 =
          ((dequantBlock (codesOf ta (swKtype (W j))) T mask (W j) ((List.range l).map (fun k => s.ctx.codeAt a wa (j * l + k)))).map
            (fun x => x.1)).getD i 0) ∧
        VecFrame d s.ctx t.ctx ∧ t.ctx.pc = s.ctx.fallThrough.pc)) ∧
    (∀ x ∈ ([(.vrotFwd d a n m, false), (.vrotInv d a n m, true)] : List (Instr × Bool)),
      BlockForm x.1 s d a b n m T true → n8 % r = 0 → Issues x.1 s → Answers x.1 s (fun t =>
      (∀ j < n8 / r, ∀ i < r, (t.ctx.readVElem d (j * r + i)).1 =
        ((rotGroup x.2 T mask (s.ctx.block a j r)).map (fun y => y.1)).getD i 0) ∧
      (T = 0 → ∀ e < n8, (fmtF32.decode (s.ctx.readVElem a e).1.toNat).isNan = false → (t.ctx.readVElem d e).1 = (s.ctx.readVElem a e).1) ∧
      (T ≠ 0 → ∀ j < n8 / r, (∃ i < r, f32Exact (s.ctx.readVElem a (j * r + i)).1 = none) → ∀ i < r, (t.ctx.readVElem d (j * r + i)).1 = 0x7FC00000) ∧
      VecFrame d s.ctx t.ctx ∧ t.ctx.pc = s.ctx.fallThrough.pc))

/-- R288: the faults of major VQNT, in its order, each precise and with nothing written: SEEDF for a tag with no seed, BLKF where the
length that the instruction goes by does not divide its elements; for vqnt and vdqt, at the first scale word that fails,
TAGMM for another tag and FMTF for a malformed word. Each names the tag, SEEDF and BLKF the number of elements too, and the last two
the block. -/
def Sys2Proof.Claims.BlockFormatsFault : Prop :=
  ∀ i d a b n m s T byR, BlockForm i s d a b n m T byR → Issues i s → n < 8 →
    let n8 := 8 * (n + 1)
    (s.forme.seed T = none → Faults i s 0x62 0 (fun e => e.info0 = BitVec.ofNat 64 T ∧ Word.field e.info2 16 16 = n8 ∧ e.tval = instrWord i)) ∧
    (∀ mask r, s.forme.seed T = some (mask, r) →
      let l := blockLen s.ctx.qctl T r
      let k := if byR then r else l
      (n8 % k ≠ 0 → Faults i s 0x63 0 (fun e => e.info0 = BitVec.ofNat 64 T ∧ e.info2 = BitVec.ofNat 64 (n8 * 2 ^ 16 + k) ∧
        e.tval = instrWord i)) ∧
      ((i = .vqnt d a b n m ∨ i = .vdqt d a b n m) → n8 % l = 0 →
        let ty := if i = .vqnt d a b n m then payTD s.ctx.pay else payTA s.ctx.pay
        let w := if ty = tyK4 then 4 else 8
        ∀ j < n8 / l, (∀ h < j, ScaleOk T w (s.ctx.scaleAt b h)) →
          (swTag (s.ctx.scaleAt b j) ≠ T → Faults i s 0x60 0 (fun e => e.info0 = BitVec.ofNat 64 T ∧ e.info1 = BitVec.ofNat 64 j)) ∧
          (swTag (s.ctx.scaleAt b j) = T → ¬ ScaleOk T w (s.ctx.scaleAt b j) →
            Faults i s 0x61 0 (fun e => e.info0 = BitVec.ofNat 64 T ∧ e.info1 = BitVec.ofNat 64 j))))

/-- pfx and what spends it; vscl, vqnt, vdqt and vrot: PrefixIsPending, CompletionSpendsThePrefix, BlockFormatsComplete and
BlockFormatsFault together. Derived from spec/09_narrow.md: The prefix in execution; spec/09_narrow.md: The rotation;
spec/09_narrow.md: Instructions of major VQNT. -/
def Obligations.PrefixesAndBlockFormats : Prop := PrefixIsPending ∧ CompletionSpendsThePrefix ∧ BlockFormatsComplete ∧ BlockFormatsFault

/-! ### The matrix unit -/

/-- The matrix instructions with word 0 and the words 1 to 4 of the command that each forms (R307 to R313, Table 10-2).
Register 0 as A of mld selects an accumulator, and as B full masks. -/
def Sys2Proof.Claims.MatrixForm (i : Instr) (s : State) (opc acc : Nat) (w addr mask stride scale : Word) : Prop :=
  let p := s.ctx.pay
  let m (b : Nat) : Word := if b = 0 then 0xFFFFFFFFFFFFFFFF else (s.ctx.readX b).1
  let bf (t : Nat) : Nat := if t = 0 then 3 else t
  (∃ d a b tr, ((i = .mld d a b ∧ tr = 0) ∨ (i = .mldT d a b ∧ tr = 1)) ∧ opc = 1 ∧ acc = d ∧ mask = m b ∧ stride = 0 ∧ scale = s.ctx.mbscl ∧
    addr = (s.ctx.readX a).1 ∧ w = s.mxWord0 1 tr (if a = 0 then 1 else 0) d (bf (payTD p)) (payRTAG p) (payRND p) (if paySAT p then 1 else 0) 0) ∨
  (i = .mswap ∧ opc = 2 ∧ acc = 0 ∧ mask = 0 ∧ stride = 0 ∧ scale = 0 ∧ addr = 0 ∧ w = s.mxWord0 2 0 0 0 0 0 0 0 0) ∨
  (∃ d a b, ((i = .mmac d a b ∧ opc = 3) ∨ (i = .mmacz d a b ∧ opc = 4)) ∧ acc = d ∧ mask = m b ∧ stride = s.ctx.mastr ∧ scale = s.ctx.mascl ∧
    addr = (s.ctx.readX a).1 ∧ w = s.mxWord0 opc 0 0 d (bf (payTA p)) (payRTAG p) 0 0 0) ∨
  (∃ d a b, ((i = .mst d a b ∧ opc = 5) ∨ (i = .mwr d a b ∧ opc = 7)) ∧ acc = d ∧ mask = m b ∧ stride = s.ctx.msstr ∧ scale = 0 ∧
    addr = (s.ctx.readX a).1 ∧ w = s.mxWord0 opc 0 0 d 0 0 0 0 0) ∨
  (∃ d b, i = .mzero d b ∧ opc = 8 ∧ acc = d ∧ mask = m b ∧ stride = 0 ∧ scale = 0 ∧ addr = 0 ∧ w = s.mxWord0 8 0 0 d 0 0 0 0 0) ∨
  (∃ d a b l, i = .mrd d a b l ∧ opc = 6 ∧ acc = a ∧ mask = (s.ctx.readX b).1 ∧ stride = 0 ∧ scale = 0 ∧ addr = 0 ∧
    w = s.mxWord0 6 0 0 a 0 0 0 0 d)

/-- R296, R306 to R315: a matrix instruction whose command passes its checks takes a place at the end of the queue, numbered
one above MXENQ, and control passes on; mrd opens a window besides, of 64 elements, that the command's run settles. With
32 commands in the queue it waits; a command that fails a check raises its fault; where the scale word that gives T0 is poisoned
the core freezes (R430). No memory changes. -/
def Obligations.MatrixInstructionsEnqueue : Prop :=
  ∀ i s opc acc w addr mask stride scale, MatrixForm i s opc acc w addr mask stride scale → acc < 8 → Issues i s → s.ctx.vecFull = false →
    (∀ e, mxCheck s w addr mask stride scale = some e → exec i s = .next (s.deliver (s.withTaint i e))) ∧
    (mxCheck s w addr mask stride scale = none → s.tag0Poison w scale = true →
      exec i s = .next (sent (s.freezeCore s.actor.tile 3 s.ctx.pc))) ∧
    (mxCheck s w addr mask stride scale = none → s.tag0Poison w scale = false →
      (32 ≤ s.tile.mx.queue.length → exec i s = .next (s.stall .engine)) ∧
      (s.tile.mx.queue.length < 32 → s.ctx.wins = [] → Answers i s (fun t => t.ctx.pc = s.ctx.fallThrough.pc ∧ t.tile.mx.enq = s.tile.mx.enq + 1 ∧
        t.tile.mx.tl = s.tile.mx.tl ∧ t.tile.mx.acc = s.tile.mx.acc ∧ t.tile.main = s.tile.main ∧ t.hbm = s.hbm ∧
        (∃ c, t.tile.mx.queue = s.tile.mx.queue ++ [c] ∧ c.num = s.tile.mx.enq + 1 ∧ c.addr = addr ∧ c.mask = mask ∧ c.stride = stride ∧
          c.scale = scale ∧ c.ctx = s.actor.ctx ∧ c.pc = s.ctx.pc ∧ mxOpc c.word0 = opc ∧ mxAcc c.word0 = acc) ∧
        (∀ d a b l, i = .mrd d a b l → ∃ v, t.ctx.wins = [v] ∧ v.dst = d ∧ v.vec = true ∧ v.rem = l ∧ v.st = .waiting ∧
          v.kind = .mrd (s.tile.mx.enq + 1)) ∧
        ((∀ d a b l, i ≠ .mrd d a b l) → t.ctx.wins = []))))

/-- Command c heads the matrix queue of a tile, is of an operation, and reads no poisoned granule. -/
def Sys2Proof.Claims.MxHead (s : State) (p opc : Nat) (c : MxCmd) : Prop :=
  (s.tileAt p).isSome = true ∧ (s.tileD p).mx.queue.head? = some c ∧ mxOpc c.word0 = opc ∧ (s.tileD p).mxPoisoned (s.cmdRanges p c) = false

/-- Command c has left the queue and counts on the timeline of its unit (R162, R296). -/
def Sys2Proof.Claims.MxDone (s t : State) (p : Nat) (c : MxCmd) : Prop :=
  (t.tileD p).mx.queue = (s.tileD p).mx.queue.tail ∧ (t.tileD p).mx.tl = c.num ∧ (t.tileD p).mx.enq = (s.tileD p).mx.enq

/-- Element k of accumulator i. -/
def Sys2Proof.Claims.accAt (t : Tile) (i k : Nat) : Lane := vget (vget t.mx.acc i (Vector.replicate 256 0)) k 0

/-- R308, R311 to R313, R316: mswap, mst, mwr, mzero and mrd run at the head of the queue. The planes change places; mst
stores the selected elements not stored yet at their addresses, distinct words of main store, and nothing else; mwr
reads them, from the store as the command sees it (`view`), mzero clears them, and no other element changes; mrd lands
its row group in the window. Those touched before the run are free (log entry 3). -/
def Sys2Proof.Claims.AccumulatorCommandsRun : Prop :=
  ∀ s p c, (s.tileAt p).isSome = true → mxAcc c.word0 < 8 → TileCanonical (s.tileD p) →
    let t := s.tileD p
    let i := mxAcc c.word0
    let cells := accCells c.addr (strideOf c.stride) c.mask
    let todo := cells.filter (fun x => !c.wrote.contains x.1)
    let sel (k : Nat) : Bool := c.mask.getLsbD (k / 16) && c.mask.getLsbD (16 + k % 16)
    (MxHead s p 2 c → Answers (.mswapExec p) s (fun u => MxDone s u p c ∧ (u.tileD p).mx.active = t.mx.shadow ∧
      (u.tileD p).mx.shadow = t.mx.active ∧ (u.tileD p).mx.acc = t.mx.acc)) ∧
    (MxHead s p 5 c → (∀ x ∈ cells, x.2.toNat % 4 = 0 ∧ x.2.toNat % 2 ^ 32 + 4 ≤ 0x80000) →
      (∀ x ∈ cells, ∀ y ∈ cells, x.2.toNat % 2 ^ 32 = y.2.toNat % 2 ^ 32 → x = y) →
      Answers (.mstExec p) s (fun u => MxDone s u p c ∧
        (∀ x ∈ todo, natOfBytes ((u.tileD p).readLocal (x.2.toNat % 2 ^ 32) 4) = (accAt t i x.1).toNat) ∧
        (∀ q, (∀ x ∈ todo, q < x.2.toNat % 2 ^ 32 ∨ x.2.toNat % 2 ^ 32 + 4 ≤ q) → Memory.get (u.tileD p).main q = Memory.get t.main q) ∧
        (u.tileD p).mx.acc = t.mx.acc)) ∧
    (MxHead s p 7 c → Answers (.mwrExec p) s (fun u => MxDone s u p c ∧ (u.tileD p).main = t.main ∧
      (∀ x ∈ cells, accAt (u.tileD p) i x.1 = BitVec.ofNat 32 (natOfBytes ((c.view t).readLocal (x.2.toNat % 2 ^ 32) 4))) ∧
      (∀ k < 256, sel k = false → accAt (u.tileD p) i k = accAt t i k) ∧
      (∀ j < 8, j ≠ i → ∀ k < 256, accAt (u.tileD p) j k = accAt t j k))) ∧
    (MxHead s p 8 c → Answers (.mzeroExec p) s (fun u => MxDone s u p c ∧
      (∀ k < 256, accAt (u.tileD p) i k = if sel k = true then 0 else accAt t i k) ∧
      (∀ j < 8, j ≠ i → ∀ k < 256, accAt (u.tileD p) j k = accAt t j k))) ∧
    (∀ w, MxHead s p 6 c → (t.ctxs[c.ctx]).wins = [w] → w.kind = .mrd c.num → w.st = .waiting → 0 < w.rem →
      Answers (.mrdExec p) s (fun u => MxDone s u p c ∧ ∃ x v, ((u.tileD p).ctxs[c.ctx]).wins = [v] ∧ v.dst = w.dst ∧ v.rem = w.rem ∧
        v.st = .landedV ((List.range 64).map (fun e => accAt t i (64 * (c.mask.toNat % 4) + e))) x))

/-- Word k of line m of the scale strip of command c, of J words a line, as a tile's store stands for it (R302, R315). -/
def Sys2Proof.Claims.stripWord (t : Tile) (c : MxCmd) (j m k : Nat) : Nat :=
  natOfBytes (t.readLocal (Word.field c.scale 0 20 + 2 * (m * j + k)) 2)

/-- A scale word passes what mld and a product ask of it beside its tag (R307, R309): no mantissa without an exponent, and no k4
meaning beside 8-bit codes. -/
def Sys2Proof.Claims.ScaleGood (w x : Nat) : Prop := swBad x = false ∧ (w = 8 → swKtype x = 0)

/-- Depth position d of a command of a type is selected by its mask; k4 has two positions to a bit (R301). -/
def Sys2Proof.Claims.deep (c : MxCmd) (d : Nat) : Bool := c.mask.getLsbD (32 + if mxType c.word0 = tyK4 then d / 2 else d)

/-- Block length of a command: of its tag where its codes have 8 or 4 bits, else 16 (R305, R315). -/
def Sys2Proof.Claims.lengthOf (s : State) (p : Nat) (c : MxCmd) : Nat := if mxWidth (mxType c.word0) = 16 then 16 else s.cmdBlock p c

/-- R295, R303, R304, R305, R307 and R309, for every type: a product whose plane agrees in width, tag and length, whose
scale words carry that tag and are good, and whose depth mask, under a tag other than 0, splits no block, adds to each
selected element its row's and column's products, of code values times their scales, in four chunks, each rounded once
(FloatOperationsRound), from 0 for mmacz. A memory mld whose seed entry is loaded and whose scale words carry its tag,
are good and divide the depth fills the shadow plane with the selected codes, scale words, tag and length; one from an
accumulator with its 16-bit conversions. The tile bursts or its cluster holds a token. -/
def Sys2Proof.Claims.ProductsAndPlaneLoadsRun : Prop :=
  ∀ s p c, (s.tileAt p).isSome = true → mxAcc c.word0 < 8 →
    let t := s.tileD p
    let i := mxAcc c.word0
    let ty := mxType c.word0
    let w := mxWidth ty
    let depth := mxDepth ty
    let len := lengthOf s p c
    let j := mxWords depth len
    let pl := t.mx.active
    let row (m : Nat) : List Byte := (c.view t).readLocal ((c.addr + BitVec.ofNat 64 m * strideOf c.stride).toNat % 2 ^ 32) 32
    let sw (m k : Nat) : Nat := stripWord (c.view t) c j m k
    let elem (z : Bool) (m n : Nat) : Lane := product ty depth c.mask (fun d => mxVal ty (sw m (d / len)) (packedCode (row m) w d))
      (fun d => mxVal pl.ty ((pl.scales.getD (n * j + d / len) 0).toNat) (packedCode pl.codes w (16 * d + n)))
      (if z then 0 else accAt t i (16 * m + n))
    let used (d n : Nat) : Bool := c.mask.getLsbD (16 + n) && deep c d
    (∀ (ev : Instr) (opc : Nat) (z : Bool), (ev, opc, z) ∈ ([(.mmacExec p, 3, false), (.mmaczExec p, 4, true)] : List (Instr × Nat × Bool)) →
      MxHead s p opc c → s.tokenWait t = false → c.seedOk = true → mxWidth pl.ty = w → (mxRtag c.word0 = 0 ∨ mxRtag c.word0 = pl.tag) →
      (w ≠ 16 → depth % len = 0 ∧ len = pl.len ∧
        ∀ m < 16, c.mask.getLsbD m = true → ∀ k < j, swTag (sw m k) = pl.tag ∧ ScaleGood w (sw m k)) →
      (pl.tag ≠ 0 → ∀ d < depth, ∀ e < depth, d / pl.len = e / pl.len → deep c d = deep c e) → Answers ev s (fun u => MxDone s u p c ∧
        (∀ m < 16, ∀ n < 16, accAt (u.tileD p) i (16 * m + n) =
          if c.mask.getLsbD m && c.mask.getLsbD (16 + n) then elem z m n else accAt t i (16 * m + n)) ∧
        (∀ j < 8, j ≠ i → ∀ k < 256, accAt (u.tileD p) j k = accAt t j k) ∧ (u.tileD p).mx.active = pl ∧ (u.tileD p).mx.bursting = true ∧
        (u.tileD p).main = t.main)) ∧
    (MxHead s p 1 c → mxAsrc c.word0 = false → c.seedOk = true →
      (w ≠ 16 → depth % len = 0 ∧ ∀ n < 16, ∀ k < j, swTag (sw n k) = c.tag0 ∧ ScaleGood w (sw n k)) →
      Answers (.mldExec p) s (fun u => MxDone s u p c ∧ (u.tileD p).mx.active = pl ∧ (u.tileD p).mx.shadow.ty = ty ∧
        (u.tileD p).mx.shadow.tag = c.tag0 ∧ (u.tileD p).mx.shadow.len = len ∧
        (w ≠ 16 → ∀ n < 16, ∀ k < j, (u.tileD p).mx.shadow.scales.getD (n * j + k) 0 = BitVec.ofNat 16 (sw n k)) ∧
        ∀ d < depth, ∀ n < 16, packedCode (u.tileD p).mx.shadow.codes w (16 * d + n) = if used d n then
          packedCode ((c.view t).readLocal (c.addr.toNat % 2 ^ 32) 512) w (if mxT c.word0 then depth * n + d else 16 * d + n) else 0)) ∧
    (MxHead s p 1 c → mxAsrc c.word0 = true → w = 16 → Answers (.mldExec p) s (fun u => MxDone s u p c ∧ (u.tileD p).mx.active = pl ∧
      (u.tileD p).mx.shadow.ty = ty ∧ (u.tileD p).mx.shadow.tag = 0 ∧ (u.tileD p).mx.shadow.len = 16 ∧
      ∀ d < 16, ∀ n < 16, packedCode (u.tileD p).mx.shadow.codes 16 (16 * d + n) = if used d n then
        (convert (.flt fmtF32) (.flt (fltFmt ty)) (mxRnd c.word0) (mxSat c.word0) (accAt t i (16 * d + n)).toNat).1 % 2 ^ 16 else 0))

/-- Command c of a tile has failed at its run (R317): it is counted on tl.mx with the planes and accumulators as they were, and its
fault is kept for the context that enqueued it, or halts the forme, which was well, where that context's generation is another. -/
def Sys2Proof.Claims.MxFailed (s u : State) (p : Nat) (c : MxCmd) (code sub : BitVec 8) (tags : Nat × Nat) : Prop :=
  MxDone s u p c ∧ (u.tileD p).mx.active = (s.tileD p).mx.active ∧ (u.tileD p).mx.shadow = (s.tileD p).mx.shadow ∧
  (u.tileD p).mx.acc = (s.tileD p).mx.acc ∧ (u.tileD p).main = (s.tileD p).main ∧
  ∃ e : Exc, e.code = code ∧ e.sub = sub ∧ e.ipc = c.pc ∧ e.info0 = BitVec.ofNat 64 c.num ∧ e.info2 = c.user ∧
    e.info1 = BitVec.ofNat 64 (mxOpc c.word0 * 2 ^ 60 + tags.1 * 16 + tags.2) ∧
    let same := ((s.tileD p).ctxs[c.ctx]).gen.toNat = Word.field c.word0 32 8
    (same → ∃ f : CmdFault, (u.tileD p).mx.faults = (s.tileD p).mx.faults ++ [f] ∧ f.exc = e ∧ f.num = c.num ∧ f.tile = p ∧ f.ctx = c.ctx) ∧
    (¬ same → ∀ g, s.formeAt (s.tileD p).forme = some g → g.fault = none → ∃ h, u.formeAt (s.tileD p).forme = some h ∧
      h.fault = some { e with kind := kForme })

/-- R305, R307, R309 and R317: a memory mld or a product that fails a check at its run has no effect but its deferred
fault, of the first check that fails, in the rules' order. MTAG: SEED (2), DIFF (1) for a scale word, or a product's
RTAG, with another tag, LEN (3). MCMD: WIDTH (3), BLK (4) where the length does not divide the depth of an mld or, under
a tag other than 0, a depth mask splits a block, SCALE (2). It records the tags compared; where the spec names none they
are the model's (log entry 15). -/
def Sys2Proof.Claims.MatrixCommandsFault : Prop :=
  ∀ s p c, (s.tileAt p).isSome = true →
    let t := s.tileD p
    let ty := mxType c.word0
    let w := mxWidth ty
    let depth := mxDepth ty
    let len := lengthOf s p c
    let j := mxWords depth len
    let pl := t.mx.active
    let rtag := mxRtag c.word0
    let sw (m k : Nat) : Nat := stripWord (c.view t) c j m k
    -- of the words of the strip that the lines hold, in ascending order, word k of line m is the first with P
    let First (on : Nat → Prop) (P : Nat → Prop) (m k : Nat) : Prop := m < 16 ∧ on m ∧ k < j ∧ P (sw m k) ∧
      ∀ a < 16, on a → ∀ b < j, (a < m ∨ (a = m ∧ b < k)) → ¬ P (sw a b)
    let All (on : Nat → Prop) (P : Nat → Prop) : Prop := ∀ m < 16, on m → ∀ k < j, P (sw m k)
    (MxHead s p 1 c → mxAsrc c.word0 = false →
      let Fails (code sub : BitVec 8) (tags : Nat × Nat) : Prop := Answers (.mldExec p) s (fun u => MxFailed s u p c code sub tags)
      let on (_ : Nat) : Prop := True
      (c.seedOk = false → Fails 0x71 2 (c.tag0, c.tag0)) ∧
      (c.seedOk = true → w ≠ 16 →
        (∀ m k, First on (fun x => swTag x ≠ c.tag0) m k → Fails 0x71 1 (c.tag0, swTag (sw m k))) ∧
        (All on (fun x => swTag x = c.tag0) →
          (depth % len ≠ 0 → Fails 0x70 4 (0, 0)) ∧
          (depth % len = 0 → ¬ All on (ScaleGood w) → Fails 0x70 2 (0, 0))))) ∧
    (∀ (ev : Instr) (opc : Nat), (ev, opc) ∈ ([(.mmacExec p, 3), (.mmaczExec p, 4)] : List (Instr × Nat)) → MxHead s p opc c →
      s.tokenWait t = false →
      let Fails (code sub : BitVec 8) (tags : Nat × Nat) : Prop := Answers ev s (fun u => MxFailed s u p c code sub tags)
      let on (m : Nat) : Prop := c.mask.getLsbD m = true
      (c.seedOk = false → Fails 0x71 2 (c.tag0, pl.tag)) ∧
      (c.seedOk = true → w ≠ mxWidth pl.ty → Fails 0x70 3 (0, 0)) ∧
      (c.seedOk = true → w = mxWidth pl.ty → rtag ≠ 0 → rtag ≠ pl.tag → Fails 0x71 1 (rtag, pl.tag)) ∧
      (c.seedOk = true → w = mxWidth pl.ty → (rtag = 0 ∨ rtag = pl.tag) →
        (w ≠ 16 → ∀ m k, First on (fun x => swTag x ≠ pl.tag) m k → Fails 0x71 1 (swTag (sw m k), pl.tag)) ∧
        ((w ≠ 16 → All on (fun x => swTag x = pl.tag)) →
          (w ≠ 16 → len ≠ pl.len → Fails 0x71 3 (c.tag0, pl.tag)) ∧
          ((w = 16 ∨ len = pl.len) →
            (w ≠ 16 → ¬ All on (ScaleGood w) → Fails 0x70 2 (0, 0)) ∧
            ((w ≠ 16 → All on (ScaleGood w)) → pl.tag ≠ 0 →
              (∃ d < depth, ∃ e < depth, d / pl.len = e / pl.len ∧ depth % pl.len = 0 ∧ deep c d ≠ deep c e) → Fails 0x70 4 (0, 0))))))

/-- R320 and R428: TOKEN_PASS of a die not throttled moves the one token of a forme to the next of its clusters there,
unless its own bursts, and all of the die where no holder bursts; BURST_END ends a burst after 64
ticks without a product. A product lacking a token stays. -/
def Sys2Proof.Claims.TokensPassAndBurstsEnd : Prop :=
  (∀ s f die k, s.formes = [f] → f.tokens = [(die, k)] → die < 4 → (s.die die).throt = false →
    let cs := s.formeClusters f.id die
    Answers (.tokenPass die) s (fun t => ∃ g, t.formes = [g] ∧ t.tiles = s.tiles ∧
      (s.clusterBursts f.id (cs.getD k 0) = true → g.tokens = [(die, k)]) ∧
      (s.clusterBursts f.id (cs.getD k 0) = false → 0 < cs.length → g.tokens = [(die, (k + 1) % cs.length)]))) ∧
  (∀ s f die, s.formes = [f] → (s.die die).throt = false →
    (∀ k ∈ f.tokens, k.1 = die → s.clusterBursts f.id ((s.formeClusters f.id die).getD k.2 0) = false) →
    Answers (.tokenPass die) s (fun t => ∃ g, t.formes = [g] ∧ t.tiles = s.tiles ∧
      g.tokens = f.tokens.map (fun k => if k.1 = die then (k.1, (k.2 + 1) % max (s.formeClusters f.id die).length 1) else k))) ∧
  (∀ s p, (s.tileAt p).isSome = true → Answers (.burstEnd p) s (fun t =>
    (t.tileD p).mx.bursting = ((s.tileD p).mx.bursting && decide ((s.tileD p).mx.idleTicks < 64)) ∧ (t.tileD p).mx.queue = (s.tileD p).mx.queue)) ∧
  (∀ s p c ev opc, (ev, opc) ∈ ([(.mmacExec p, 3), (.mmaczExec p, 4)] : List (Instr × Nat)) → MxHead s p opc c → s.tokenWait (s.tileD p) = true →
    exec ev s = .next s)

/-- The runs of matrix commands: planes, accumulators, products, stores, their faults, and power tokens:
AccumulatorCommandsRun, ProductsAndPlaneLoadsRun, MatrixCommandsFault and TokensPassAndBurstsEnd together. Derived from
spec/10_matrix.md: The arithmetic of a product; spec/10_matrix.md: Instructions of major MLD; spec/10_matrix.md:
Instructions of major MMAC; spec/10_matrix.md: Instructions of major MACC; spec/10_matrix.md: Checks, ordering and
faults; spec/10_matrix.md: Timing and power tokens. -/
def Obligations.MatrixCommandsRun : Prop := AccumulatorCommandsRun ∧ ProductsAndPlaneLoadsRun ∧ MatrixCommandsFault ∧ TokensPassAndBurstsEnd

/-! ### Copy engines -/

/-- R346: command c of an enode installs its copy in node nd of an engine context, which was free: the node holds it with its
threshold, and where its count has reached that it fires in the same moment: its command runs, the count is lowered and the
node is free again. -/
def Sys2Proof.Claims.Installed (x y : EngCtx) (nd : Nat) (c : EngCmd) : Prop :=
  let thr := Word.field (c.desc.w 6) 16 16
  let cnt := (x.node nd).cnt
  (y.node nd).thr = thr ∧ (∀ k < 16, k ≠ nd → y.node k = x.node k) ∧
  (cnt < thr → (y.node nd).cmd = some c ∧ (y.node nd).cnt = cnt ∧ y.fired = x.fired) ∧
  (thr ≤ cnt → (y.node nd).cmd = none ∧ (y.node nd).cnt = cnt - thr ∧ y.fired = x.fired ++ [c])

/-- R340, R342, R343 and R346: ecpy, ecpy2, estrm and enode of x registers, with a descriptor that stands in local store, names an
engine context of the forme and passes every check, give D the command's number, tainted, and raise ENQ; the command takes
the end of the queue, whose commands are no enodes. An enode that finds the queue empty, its predecessors complete and its
context not frozen is set aside at once: it installs its node, which fires at once where its count has reached the threshold
already, or ends with ENGF NODEBUSY where the node is in use. With 64
commands in the queue they wait. A handle of another forme is ENGF TLID, a bad descriptor ENGF with subcode 2, ranges that
of a copy that overlap ENGF with subcode 3. What else these records hold is free (log entry 15). -/
def Obligations.EngineCommandsEnter : Prop :=
  ∀ (d a b : Nat) (i : Instr) (fn : Nat) (s : State),
    (i, fn) ∈ ([(.ecpy d a b, 1), (.ecpy2 d a b, 2), (.estrm d a b, 3), (.enode d a b, 4)] : List (Instr × Nat)) → Issues i s →
    d < 32 → a < 32 → b < 32 → s.ctx.wins = [] →
    let va := (s.ctx.readX a).1
    let off := va.toNat % 2 ^ 32
    let desc : Desc := Vector.ofFn (fun k => s.tile.localWord (off + 8 * k.val))
    va.toNat % 64 = 0 → isLocal va = true → localOk s.forme off 64 = true → undeclFault s (.loc off) va 64 false = none →
    s.tile.poisoned off 64 = false →
    (s.engOfHandle (s.ctx.readX b).1 = none → Faults i s 0x80 1 (fun _ => True)) ∧
    (∀ x, s.engOfHandle (s.ctx.readX b).1 = some x → s.engAt x.eng x.ctx = some x →
      (desc.bad fn s.forme.count = true → Faults i s 0x80 2 (fun e => e.info2 = desc.w 7)) ∧
      (desc.bad fn s.forme.count = false → desc.overlaps fn = true → Faults i s 0x80 3 (fun e => e.info2 = desc.w 7)) ∧
      (∀ ts td, desc.bad fn s.forme.count = false → desc.overlaps fn = false →
        engRange s (if fn = 3 ∧ desc.sink = true then .write else .read) (desc.srcExt fn) = .ok ts →
        (fn ≠ 3 → engRange s .write (desc.dstExt fn) = .ok td) → s.routine = none → ts.sink = false → td.sink = false →
        (64 ≤ x.queue.length → exec i s = .next (s.stall .engine)) ∧
        (x.queue.length < 64 → (∀ q ∈ x.queue, q.fn ≠ 4) → s.tile.upd = [] → Answers i s (fun t => t.ctx.pc = s.ctx.fallThrough.pc ∧
          t.ctx.readX d = (if d = 0 then (0, false) else (BitVec.ofNat 64 (x.enq + 1), true)) ∧
          ∃ y c, t.engAt x.eng x.ctx = some y ∧ y.enq = x.enq + 1 ∧ y.tl = x.tl ∧ c.num = x.enq + 1 ∧ c.fn = fn ∧ c.desc = desc ∧ c.pos = 0 ∧
            c.tile = s.actor.tile ∧ c.ctx = s.actor.ctx ∧ c.asid = s.forme.asid ∧
            let nd := Word.field (desc.w 6) 0 4
            let aside := fn = 4 ∧ x.queue = [] ∧ x.frozen = false ∧ x.finished.any EngCtx.halts = false
            (¬ aside → y.queue = x.queue ++ [c] ∧ y.nodes = x.nodes ∧ y.finished = x.finished) ∧
            (aside → y.queue = [] ∧
              ((x.node nd).cmd = none → Installed x y nd c ∧ y.finished = x.finished) ∧
              ((x.node nd).cmd ≠ none → y.nodes = x.nodes ∧ ∃ e, y.finished = x.finished ++ [(c, some e)] ∧ e.code = 0x80 ∧ e.sub = 5))))))

/-- Command cmd is the one of a function that engine context x may run now (R340, R346), and nothing that its issuing context
did before it is still on its way (R135, log entry 20). -/
def Sys2Proof.Claims.RunsAlone (s : State) (x : EngCtx) (fn : Nat) (cmd : EngCmd) : Prop :=
  (x.running fn).filter (fun c => !c.held s) = [cmd]

/-- Command cmd of x has come as far as `done`: it goes on so or, where that is all of its work, has finished without a fault. -/
def Sys2Proof.Claims.CommandCame (x y : EngCtx) (cmd done : EngCmd) (total : Nat) : Prop :=
  y.tl = x.tl ∧ y.nodes = x.nodes ∧ done.num = cmd.num ∧
  (done.pos < total → y.finished = x.finished ∧ y.queue = x.queue.map (fun q => if q.num = cmd.num then done else q) ∧
    y.fired = x.fired.map (fun q => if q.num = cmd.num then done else q)) ∧
  (total ≤ done.pos → y.finished = x.finished ++ [(done, none)] ∧ y.queue = x.queue.filter (fun q => q.num ≠ cmd.num) ∧
    y.fired = x.fired.filter (fun q => q.num ≠ cmd.num))

/-- Byte b stands at address a of a range of command cmd, its granule with taint `tnt`: for a local range in main store, else in the
valid line of its home slice. -/
def Sys2Proof.Claims.CopyByte (s : State) (cmd : EngCmd) (h : Option Span) (a : Nat) (b : Byte) (tnt : Bool) : Prop :=
  let t := s.tileD cmd.tile
  match h with
  | none => a % 2 ^ 32 < 0x80000 ∧ t.readLocal (a % 2 ^ 32) 1 = [b] ∧ t.localTaint (a % 2 ^ 32) 1 = tnt
  | some p => ∃ l, s.l2At (homeBySpan s cmd.tile p a) cmd.asid (a / 64) = some l ∧ l.fill = .valid ∧ Line.bytes l.data (a % 64) 1 = [b] ∧
      lineTaint l.taint (a % 64) 1 = tnt

/-- The granule at address a of a range of command cmd holds no poison. -/
def Sys2Proof.Claims.Unpoisoned (s : State) (cmd : EngCmd) (h : Option Span) (a : Nat) : Prop :=
  match h with
  | none => (s.tileD cmd.tile).poisoned (a % 2 ^ 32) 1 = false
  | some p => ∀ l, s.l2At (homeBySpan s cmd.tile p a) cmd.asid (a / 64) = some l → readsPoison l (a % 64) 1 = false

/-- R107, R344: ECPY_EXEC and ECPY2_EXEC of a copy, wherever it has come to, its source local or through a span, with every byte
where its home has it and unpoisoned, and its destination local or through a span, in a valid line there: its next bytes,
which lie in one row and in one aligned word of the destination (log entry 20), stand at the destination and nowhere else; the
command has come that far, or has finished. A tainted byte does not go through a SINK span (this premise) and taints what it
reaches (the destination bytes read so). The memories are in canonical form and no exact sum waits. -/
def Sys2Proof.Claims.CopiesMoveTheirBytes : Prop :=
  ∀ (e c : Nat) (ev : Instr) (fn : Nat) (s : State) (x : EngCtx) (cmd : EngCmd) (pos : Nat),
    (ev, fn) ∈ ([(.ecpyExec e c, 1), (.ecpy2Exec e c, 2)] : List (Instr × Nat)) → s.engAt e c = some x → RunsAlone s x fn cmd →
    cmd.lineLeft.head? = some pos → (s.tileAt cmd.tile).isSome = true → TileCanonical (s.tileD cmd.tile) → s.ofu = [] →
    let rb := cmd.desc.rowBytes cmd.fn
    let row : Int := (pos / rb : Nat)
    let src := (BitVec.ofInt 64 ((cmd.desc.w 1).toNat + cmd.desc.sstr cmd.fn * row)).toNat + pos % rb
    let dst := (BitVec.ofInt 64 ((cmd.desc.w 2).toNat + cmd.desc.dstr cmd.fn * row)).toNat + pos % rb
    let n := min (rb - pos % rb) (4 - dst % 4)
    0 < n → ∀ (b : Nat → Byte) (tnt : Nat → Bool), (∀ k < n, CopyByte s cmd cmd.srcHome (src + k) (b k) (tnt k) ∧ Unpoisoned s cmd cmd.srcHome (src + k)) →
    (cmd.dstHome = none → dst % 2 ^ 32 + n ≤ 0x80000) →
    (∀ p, cmd.dstHome = some p → (∃ l, s.l2At (homeBySpan s cmd.tile p dst) cmd.asid (dst / 64) = some l ∧ l.fill = .valid) ∧
      (p.sink = true → ∀ k < n, tnt k = false)) →
    Answers ev s (fun t =>
      (∀ k < n, ∃ y, CopyByte t cmd cmd.dstHome (dst + k) (b k) y ∧ ((∃ h < n, tnt h = true) → y = true)) ∧
      (∀ q, (cmd.dstHome = none → q < dst % 2 ^ 32 ∨ dst % 2 ^ 32 + n ≤ q) →
        Memory.get (t.tileD cmd.tile).main q = Memory.get (s.tileD cmd.tile).main q) ∧
      (∀ slice asid line l, s.l2At slice asid line = some l → ∃ m, t.l2At slice asid line = some m ∧ m.fill = l.fill ∧
        ∀ k < 64, (∀ p, cmd.dstHome = some p → slice = homeBySpan s cmd.tile p dst → asid = cmd.asid → line * 64 + k < dst ∨ dst + n ≤ line * 64 + k) →
          Line.bytes m.data k 1 = Line.bytes l.data k 1) ∧
      (∀ p, cmd.dstHome = some p → ∀ m, t.l2At (homeBySpan s cmd.tile p dst) cmd.asid (dst / 64) = some m → m.dirty = true) ∧
      (cmd.dstHome = none → t.l2 = s.l2) ∧ t.hbm = s.hbm ∧
      ∃ y z, t.engAt e c = some y ∧ CommandCame x y cmd (cmd.moved pos n z) (cmd.desc.rows cmd.fn * rb) ∧
        (cmd.ahead = [] → pos = cmd.pos ∧ (cmd.moved pos n z).pos = cmd.pos + n))

/-- R338, R339, R345 and R367: ESTRM_EXEC of a stream through a port of the forme that no other stream holds: a source sends the
32 bytes at its place as one flit into the fabric where the port has room, a sink stores the flit that has come. Its range is local
or lies, at this place, in a valid window of the port, through which it reaches device memory with no walk. The stream has come one
flit on, holding its port, or has finished and left it, and the forme's watchdog starts again. With no room, or no flit, it
waits. A tainted flit does not go through a SINK span (this premise). -/
def Sys2Proof.Claims.StreamsMoveFlits : Prop :=
  ∀ (e c : Nat) (s : State) (x : EngCtx) (cmd : EngCmd) (u : Tile), s.engAt e c = some x → RunsAlone s x 3 cmd → cmd.fn = 3 →
    s.tileAt cmd.desc.portTile = some u → u.forme = x.forme → neighbour cmd.desc.portTile cmd.desc.side = none → cmd.desc.side < 4 →
    (s.tileAt cmd.tile).isSome = true → TileCanonical (s.tileD cmd.tile) → Memory.wf s.hbm = true →
    let port := s.portAt cmd.desc.portTile cmd.desc.side
    let own := some (x.eng, x.ctx, cmd.num)
    let va := (BitVec.ofInt 64 ((cmd.desc.w 1).toNat + (cmd.desc.w 4).toInt * (cmd.pos : Nat))).toNat
    let off := va % 2 ^ 32
    let link : LinkEnd := { dir := cmd.desc.side, thru := false }
    let total := (cmd.desc.w 3).toNat
    -- the place in device memory, where the range is no local one
    let Maps (pa : Nat) : Prop := ∃ p w, cmd.srcHome = some p ∧
      port.wins.find? (fun w => w.v && decide (w.vbase * 4096 ≤ va) && decide (va < (w.vbase + w.pages) * 4096)) = some w ∧
      pa = w.pbase * 4096 + (va - w.vbase * 4096)
    -- the flit has moved, and the port carries the stream on, or has been left
    let Moved (t : State) (held : Option (Nat × Nat × Nat)) : Prop := held = (if total ≤ cmd.pos + 1 then none else own) ∧
      (∃ y, t.engAt e c = some y ∧ CommandCame x y cmd { cmd with pos := cmd.pos + 1 } total) ∧
      ∀ g, t.formeAt x.forme = some g → g.wdog = 0
    (cmd.desc.sink = false → (port.src = none ∨ port.src = own) →
      ((u.fifo link).length < 16 →
        (cmd.srcHome = none → (s.tileD cmd.tile).poisoned off 32 = false → Answers (.estrmExec e c) s (fun t =>
          (t.tileD cmd.desc.portTile).fifo link =
            u.fifo link ++ [{ val := BitVec.ofNat 256 (natOfBytes ((s.tileD cmd.tile).readLocal off 32)), taint := (s.tileD cmd.tile).localTaint off 32 }] ∧
          t.hbm = s.hbm ∧ Moved t (t.portAt cmd.desc.portTile cmd.desc.side).src)) ∧
        (∀ pa, Maps pa → TaintSet.has s.hbmPoison (pa / 64) = false → Answers (.estrmExec e c) s (fun t =>
          (t.tileD cmd.desc.portTile).fifo link =
            u.fifo link ++ [{ val := BitVec.ofNat 256 (natOfBytes (Memory.read s.hbm pa 32)), taint := TaintSet.has s.hbmTaint (pa / 64) }] ∧
          t.hbm = s.hbm ∧ Moved t (t.portAt cmd.desc.portTile cmd.desc.side).src))) ∧
      (16 ≤ (u.fifo link).length → Answers (.estrmExec e c) s (fun t => t.tiles = s.tiles ∧ t.engs = s.engs ∧ t.hbm = s.hbm))) ∧
    (cmd.desc.sink = true → (port.snk = none ∨ port.snk = own) →
      (∀ f r, port.out = f :: r →
        (cmd.srcHome = none → off + 32 ≤ 0x80000 → Answers (.estrmExec e c) s (fun t =>
          natOfBytes ((t.tileD cmd.tile).readLocal off 32) = f.val.toNat ∧
          (∀ q, q < off ∨ off + 32 ≤ q → Memory.get (t.tileD cmd.tile).main q = Memory.get (s.tileD cmd.tile).main q) ∧
          (t.portAt cmd.desc.portTile cmd.desc.side).out = r ∧ t.hbm = s.hbm ∧ Moved t (t.portAt cmd.desc.portTile cmd.desc.side).snk)) ∧
        (∀ pa, Maps pa → (∀ p, cmd.srcHome = some p → p.sink = true → f.taint = false) → Answers (.estrmExec e c) s (fun t =>
          natOfBytes (Memory.read t.hbm pa 32) = f.val.toNat ∧ (∀ q, q < pa ∨ pa + 32 ≤ q → Memory.get t.hbm q = Memory.get s.hbm q) ∧
          (f.taint = true → TaintSet.has t.hbmTaint (pa / 64) = true) ∧
          (t.portAt cmd.desc.portTile cmd.desc.side).out = r ∧ t.tiles = s.tiles ∧ Moved t (t.portAt cmd.desc.portTile cmd.desc.side).snk))) ∧
      (port.out = [] → Answers (.estrmExec e c) s (fun t => t.tiles = s.tiles ∧ t.engs = s.engs ∧ t.hbm = s.hbm)))

/-- R162, R340, R346 to R349: NODE_FIRE of an installed node whose count has reached its threshold puts its command among those
that run, frees the node and lowers the count by the threshold, and does nothing below the threshold;
ENGINE_COMMAND_COMPLETE of the command that is next in number raises the counter by one, a faulted one leaves its fault with
the context that issued it, where its generation is the same, and an enode that then heads the queue, with nothing before it
unfinished, is set aside into its free node, which may fire at once. A frozen engine context does neither. -/
def Sys2Proof.Claims.NodesFireAndCommandsComplete : Prop :=
  (∀ e c n s x cmd, s.engAt e c = some x → n < 16 → (x.node n).cmd = some cmd →
    (x.frozen = false → (x.node n).thr ≤ (x.node n).cnt →
      Answers (.nodeFire e c n) s (fun t => ∃ y, t.engAt e c = some y ∧ y.fired = x.fired ++ [cmd] ∧ (y.node n).cmd = none ∧
        (y.node n).cnt = (x.node n).cnt - (x.node n).thr ∧ (∀ k < 16, k ≠ n → y.node k = x.node k) ∧ y.queue = x.queue)) ∧
    (x.frozen = true ∨ (x.node n).cnt < (x.node n).thr → exec (.nodeFire e c n) s = .next s)) ∧
  (∀ e c s x cmd r, s.engAt e c = some x → x.frozen = false → x.finished = (cmd, none) :: r → cmd.num = x.tl + 1 → x.ahead = [] → cmd.desc.nk = 0 →
    (∀ q ∈ x.queue, q.fn ≠ 4) →
    Answers (.engineCommandComplete e c) s (fun t => ∃ y, t.engAt e c = some y ∧ y.tl = x.tl + 1 ∧ y.finished = r ∧ y.faults = x.faults ∧
      y.queue = x.queue)) ∧
  (∀ e c s x cmd q, s.engAt e c = some x → x.frozen = false → x.finished = [(cmd, none)] → cmd.num = x.tl + 1 → x.ahead = [] → cmd.desc.nk = 0 →
    x.queue = [q] → q.fn = 4 →
    let nd := Word.field (q.desc.w 6) 0 4
    (x.node nd).cmd = none → Answers (.engineCommandComplete e c) s (fun t => ∃ y, t.engAt e c = some y ∧ y.tl = x.tl + 1 ∧ y.finished = [] ∧
      y.queue = [] ∧ Installed x y nd q)) ∧
  (∀ e c s x cmd exc r, s.engAt e c = some x → x.frozen = false → x.finished = (cmd, some exc) :: r → cmd.num = x.tl + 1 → x.ahead = [] →
    (∀ q ∈ x.queue, q.fn ≠ 4) → ((s.tileD cmd.tile).ctxs[cmd.ctx]).gen = cmd.gen →
    Answers (.engineCommandComplete e c) s (fun t => ∃ y f, t.engAt e c = some y ∧ y.tl = x.tl + 1 ∧ y.finished = r ∧ y.faults = x.faults ++ [f] ∧
      f.exc = exc ∧ f.num = cmd.num ∧ f.tile = cmd.tile ∧ f.ctx = cmd.ctx)) ∧
  (∀ e c s x, s.engAt e c = some x → x.frozen = true → exec (.engineCommandComplete e c) s = .next s)

/-- Copies, streams, nodes and completions of the copy engines, in local store and through spans: CopiesMoveTheirBytes,
StreamsMoveFlits and NodesFireAndCommandsComplete together. Derived from spec/11_engines.md: Copy engines;
spec/11_engines.md: Stream ports. -/
def Obligations.EngineCommandsRun : Prop := CopiesMoveTheirBytes ∧ StreamsMoveFlits ∧ NodesFireAndCommandsComplete

/-! ### The system instructions and exceptions -/

/-- Table 12-2: where the state of the acting context holds the CSRs that have one number, and the composite ones as their
tables lay them out. -/
def Sys2Proof.Claims.csrTable (s : State) : List (Nat × Word) :=
  let c := s.ctx
  let t := s.tile
  [(0x000, c.status), (0x001, c.tvec), (0x002, c.tfp), (0x003, c.uvec), (0x004, c.ufp),
   (0x005, vget c.udeleg 0 0), (0x006, vget c.udeleg 1 0), (0x007, vget c.udeleg 2 0), (0x008, c.intp),
   (0x009, BitVec.ofNat 64 (t.logical * 2 ^ 16 + s.actor.ctx.val * 2 ^ 14 + c.gen.toNat * 2 ^ 6)),
   (0x00A, BitVec.ofNat 64 s.forme.k), (0x00B, c.tscr), (0x010, c.fpctl), (0x011, c.qctl), (0x012, c.pfxpay), (0x013, c.vbeat),
   (0x014, c.redacc.extractLsb' 0 64), (0x015, c.redacc.extractLsb' 64 64), (0x016, c.redacc.extractLsb' 128 64),
   (0x017, c.redacc.extractLsb' 192 64), (0x018, c.mbstat), (0x020, c.mastr), (0x021, c.msstr), (0x022, c.mascl), (0x023, c.mbscl),
   (0x030, vget c.xmc 0 0), (0x031, vget c.xmc 1 0), (0x032, vget c.xmc 2 0), (0x033, vget c.xmc 3 0), (0x035, c.xmst),
   (0x200, t.tkrep), (0x201, t.dlstat), (0x202, t.mqwin), (0x203, BitVec.ofNat 64 t.mx.enq), (0x204, t.mxstat), (0x205, t.imba),
   (0x206, t.imbb), (0x207, BitVec.ofNat 64 (t.logical * 2 ^ 16 + t.gsMask.toNat * 2 ^ 8 + t.barMask.toNat * 2 ^ 4 + t.dispMask.toNat)),
   (0x208, t.fpxpc), (0x209, t.fpxinf)]

/-- The fields of a CSR that a write changes, RW and then W1C, as the tables that Table 12-2 names give them. In TVEC and UVEC,
which hold addresses that are multiples of 4, bits 1:0 are taken to be reserved (R39; the model's choice, log entry 19). -/
def Sys2Proof.Claims.CsrFields (n : Nat) (rw w1c : Word) : Prop :=
  (n = 0x000 ∧ rw = 0x5C00000000000000#64 ∧ w1c = 0) ∨
  ((n = 0x001 ∨ n = 0x003) ∧ rw = 0xFFFFFFFFFFFFFFFC#64 ∧ w1c = 0) ∨
  ((n = 0x002 ∨ (0x004 ≤ n ∧ n ≤ 0x007) ∨ n = 0x00B ∨ n = 0x031 ∨ n = 0x032 ∨ n = 0x200 ∨ n = 0x201 ∨ n = 0x204) ∧
    rw = 0xFFFFFFFFFFFFFFFF#64 ∧ w1c = 0) ∨
  (n = 0x008 ∧ rw = 0 ∧ w1c = 0xFFFF#64) ∨
  (n = 0x010 ∧ rw = 0x1F1F#64 ∧ w1c = 0) ∨
  (n = 0x011 ∧ rw = 0x7#64 ∧ w1c = 0) ∨
  (n = 0x012 ∧ rw = 0x7FFFF#64 ∧ w1c = 0) ∨
  (n = 0x018 ∧ rw = 0 ∧ w1c = 0xF0#64) ∨
  ((0x020 ≤ n ∧ n ≤ 0x023) ∧ rw = 0xFFFFF#64 ∧ w1c = 0) ∨
  (n = 0x030 ∧ rw = 0xFFFF0000000FFFFF#64 ∧ w1c = 0) ∨
  (n = 0x033 ∧ rw = 0 ∧ w1c = 0) ∨
  ((0x100 ≤ n ∧ n < 0x140) ∧ rw = 0x01FFFFFFFFFFF000#64 ∧ w1c = 0) ∨
  ((0x140 ≤ n ∧ n < 0x160) ∧ rw = 0xFF8000000000FFFF#64 ∧ w1c = 0) ∨
  (n = 0x202 ∧ rw = 0x800000000007FFC0#64 ∧ w1c = 0) ∨
  ((0x210 ≤ n ∧ n < 0x215) ∧ rw = 0xE0F000000007F000#64 ∧ w1c = 0) ∨
  ((0x218 ≤ n ∧ n < 0x21D) ∧ rw = 0xFFFFFFFF#64 ∧ w1c = 0) ∨
  ((0x240 ≤ n ∧ n < 0x280) ∧ rw = 0 ∧ w1c = 0xFFFFFFFFFFFFFFFF#64)

/-- What csrw (1), csrs (2) and csrc (3) leave of an old value, from the operand and the fields that they may write (R355). -/
def Sys2Proof.Claims.csrLeaves (op : Nat) (rw w1c old a : Word) : Word :=
  let v := if op = 1 then a else if op = 2 then old ||| a else old &&& ~~~a
  (old &&& ~~~(rw ||| w1c)) ||| (v &&& rw) ||| (if op = 3 then old &&& w1c else old &&& ~~~a &&& w1c)

/-- R352 to R355. Each number of Table 12-2 is the register that it names. csrr gives a register the value of a CSR, tainted
where its bit is 1 or Table 12-2 marks the read, and 0, untainted, of the write-only one. csrw, csrs and csrc write, set and
clear the RW fields of a CSR and clear its W1C fields, make its taint bit the operand's taint or CTNT, and leave every other
CSR, the registers and memory as they were; of VBEAT, which an instruction's completion clears, nothing is said here. A write
of XMGO issues the command held in XMC0, and is answered FORM where its code is none of Table 11-5; a write of HASHDOM waits
until the change is complete. -/
def Obligations.CsrInstructions : Prop :=
  (∀ s, (∀ p ∈ csrTable s, s.csr p.1 = p.2) ∧
    (∀ k < 32, s.csr (0x100 + k) = (vget s.ctx.spans k {}).b ∧ s.csr (0x120 + k) = (vget s.ctx.spans k {}).l ∧
      s.csr (0x140 + k) = (vget s.ctx.spans k {}).a) ∧
    (∀ k < 5, s.csr (0x210 + k) = (s.tile.galley k).cfg ∧ s.csr (0x218 + k) = (s.tile.galley k).ptr) ∧
    (∀ k < 32, let e := vget s.tile.tasks k {}
      s.csr (0x220 + k) = BitVec.ofNat 64 ((if e.arm then 2 ^ 63 else 0) + (if e.rearm then 2 ^ 62 else 0) + (if e.pend then 2 ^ 61 else 0) +
        e.routine % 2 ^ 6 * 2 ^ 48 + e.thr % 2 ^ 16 * 2 ^ 32 + e.cnt % 2 ^ 16)) ∧
    (∀ k < 64, s.csr (0x240 + k) = vget s.tile.fpxpend k 0) ∧ (∀ k < 16, s.csr (0x290 + k) = vget s.hashdom k 0) ∧
    (∀ k, 1 ≤ k → k < 16 → s.csr (0x280 + k) = ((s.forme.img.seeds.find? (fun e => e.1 == k)).map (·.2.1)).getD 0)) ∧
  (∀ d n s, Issues (.csrr d n) s → exec (.csrr d n) s = .next (followed (.csrr d n) s
    (s.writeXd d (if n = 0x034 then 0 else s.csr n) (n != 0x034 && (s.csrBit n || csrTainted n))))) ∧
  (∀ n, csrTainted n = true ↔ n = 0x018 ∨ n = 0x200 ∨ n = 0x201 ∨ (0x203 ≤ n ∧ n ≤ 0x206) ∨ n = 0x208 ∨ n = 0x209 ∨
    (0x218 ≤ n ∧ n < 0x280)) ∧
  (∀ a n op i s rw w1c, (i, op) ∈ ([(.csrw a n, 1), (.csrs a n, 2), (.csrc a n, 3)] : List (Instr × Nat)) → Issues i s → a < 32 →
    CsrFields n rw w1c → Answers i s (fun t => t.ctx.pc = s.ctx.fallThrough.pc ∧ t.csr n = csrLeaves op rw w1c (s.csr n) (s.ctx.readX a).1 ∧
      t.csrBit n = ((s.ctx.readX a).2 || s.ctx.ctnt) ∧
      (∀ m, m ≠ n → m ≠ 0x013 → t.csr m = s.csr m ∧ t.csrBit m = s.csrBit m) ∧ t.hbm = s.hbm ∧ t.tile.main = s.tile.main ∧
      (s.ctx.wins = [] → t.ctx.x = s.ctx.x ∧ t.ctx.v = s.ctx.v ∧ t.ctx.taint = s.ctx.taint))) ∧
  (∀ a i s, i ∈ ([.csrw a 0x034, .csrs a 0x034, .csrc a 0x034] : List Instr) → Issues i s → a < 32 →
    let code := Word.field (vget s.ctx.xmc 0 0) 56 8
    (1 ≤ code → code ≤ 8 → Answers i s (fun t => t.ctx.wait = .mapping ∧ t.ctx.pc = s.ctx.pc ∧
      t.csrBit 0x034 = ((s.ctx.readX a).2 || s.ctx.ctnt) ∧
      t.mapq = s.mapq ++ [{ xmc := s.ctx.xmc, tile := s.actor.tile, ctx := s.actor.ctx }])) ∧
    (code = 0 ∨ 8 < code → Answers i s (fun t => t.ctx.xmst = BitVec.ofNat 64 (2 ^ 63 + 1) ∧ t.ctx.pc = s.ctx.fallThrough.pc ∧
      t.ctx.xmc = s.ctx.xmc ∧ t.mapq = s.mapq))) ∧
  (∀ a k i op s, (i, op) ∈ ([(.csrw a (0x290 + k), 1), (.csrs a (0x290 + k), 2), (.csrc a (0x290 + k), 3)] : List (Instr × Nat)) → k < 16 → a < 32 →
    Issues i s →
    (s.domBusy = true → Answers i s (fun t => t.ctx.stall = some .mem ∧ t.ctx.wait = s.ctx.wait ∧ t.ctx.pc = s.ctx.pc ∧ t.hashdom = s.hashdom)) ∧
    (s.domBusy = false → Answers i s (fun t =>
      t.ctx.wait = .hashdom k (csrLeaves op 0x0FFFF1FF000000FF#64 0 (vget s.hashdom k 0) (s.ctx.readX a).1) ∧
      t.csrBit (0x290 + k) = ((s.ctx.readX a).2 || s.ctx.ctnt) ∧ t.ctx.pc = s.ctx.pc ∧ t.hashdom = s.hashdom)))

/-- R50, R62, R166 and R355: in user mode tret, wfi, halt and frz, tnt.clr where TCLRU = 0, and an access to a CSR that Table
12-2 denies, have no effect and raise PRIV with the word in TVAL, and the CSR's number in INFO0. In privileged mode only a
write of XMST is denied among the CSRs of the table that are not read-only. A word with an unassigned CSR number, or one that
writes a CSR that both modes may only read, is no instruction: it is ILLOP (StepRunsTheInstruction), whatever the mode. -/
def Obligations.PrivilegeIsChecked : Prop :=
  let assigned (n : Nat) : Prop := n ≤ 0x00B ∨ (0x010 ≤ n ∧ n ≤ 0x018) ∨ (0x020 ≤ n ∧ n ≤ 0x023) ∨ (0x030 ≤ n ∧ n ≤ 0x035) ∨
    (0x100 ≤ n ∧ n ≤ 0x15F) ∨ (0x200 ≤ n ∧ n ≤ 0x209) ∨ (0x210 ≤ n ∧ n ≤ 0x214) ∨ (0x218 ≤ n ∧ n ≤ 0x21C) ∨ (0x220 ≤ n ∧ n ≤ 0x29F)
  let readOnly (n : Nat) : Prop := n = 0x009 ∨ n = 0x00A ∨ (0x013 ≤ n ∧ n ≤ 0x017) ∨ n = 0x203 ∨ (0x205 ≤ n ∧ n ≤ 0x209) ∨
    (0x220 ≤ n ∧ n ≤ 0x23F) ∨ (0x280 ≤ n ∧ n ≤ 0x28F)
  let noRead (n : Nat) : Prop := n = 0x001 ∨ n = 0x002 ∨ n = 0x008 ∨ n = 0x00B ∨ (0x030 ≤ n ∧ n ≤ 0x035)
  let userWrite (n : Nat) : Prop := n = 0x003 ∨ n = 0x004 ∨ n = 0x010 ∨ n = 0x011 ∨ n = 0x018 ∨ (0x020 ≤ n ∧ n ≤ 0x023) ∨
    n = 0x200 ∨ n = 0x201 ∨ n = 0x202 ∨ n = 0x204
  (∀ i a s, i ∈ ([.tret, .wfi, .halt, .frz a] : List Instr) → gate s = .go → s.ctx.stat stPM = false → Faults i s 0x03 0 (fun e => e.tval = instrWord i)) ∧
  (∀ a sel s, gate s = .go → s.ctx.stat stPM = false → s.ctx.stat stTCLRU = false →
    Faults (.tntClr a sel) s 0x03 0 (fun e => e.tval = instrWord (.tntClr a sel))) ∧
  (∀ d n s, gate s = .go → assigned n → s.ctx.stat stPM = false → noRead n → Faults (.csrr d n) s 0x03 0
    (fun e => e.tval = instrWord (.csrr d n) ∧ e.info0 = BitVec.ofNat 64 n)) ∧
  (∀ i a n s, i ∈ ([.csrw a n, .csrs a n, .csrc a n] : List Instr) → gate s = .go → assigned n → ¬ readOnly n →
    (s.ctx.stat stPM = false ∧ ¬ userWrite n ∨ n = 0x035) → Faults i s 0x03 0 (fun e => e.tval = instrWord i ∧ e.info0 = BitVec.ofNat 64 n)) ∧
  (∀ d n c, assigned n → (c.stat stPM = true ∨ ¬ noRead n) → privFault (.csrr d n) c = none) ∧
  (∀ i a n c, i ∈ ([.csrw a n, .csrs a n, .csrc a n] : List Instr) → assigned n → ¬ readOnly n → n ≠ 0x035 →
    (c.stat stPM = true ∨ userWrite n) → privFault i c = none) ∧
  (∀ r a n, r < 64 → a < 64 → n < 1024 → ¬ assigned n → Illegal (word4 0x35 r 0 n) ∧
    ∀ op, 1 ≤ op → op ≤ 3 → Illegal (word4 0x35 0 a (op * 2 ^ 12 + n))) ∧
  (∀ a n op, a < 64 → readOnly n → 1 ≤ op → op ≤ 3 → Illegal (word4 0x35 0 a (op * 2 ^ 12 + n)))

/-- R44, R48, R50 and R56. The classes of Table 2-4 admit the numbers that it gives. Wherever an instruction's fields,
checked in the order of its word, hold a number that their class does not admit, it is ILLREG with the first such number
in INFO0; with admitted numbers, an o-register as the destination of more than one beat, an o-register or lr named by a
vector load or store of more than one beat, and a mask on an instruction that takes none are VLEN; TVAL is the word.
Each instruction's operand form, `instrShape`, is stated in OperandFormsAreThoseOfTheTables. -/
def Sys2Proof.Claims.OperandFieldsAreCheckedByClass : Prop :=
  (∀ n, (OpClass.admits .xs n = true ↔ n < 32 ∨ (41 ≤ n ∧ n ≤ 44) ∨ (49 ≤ n ∧ n ≤ 52)) ∧
    (OpClass.admits .xd n = true ↔ n < 32 ∨ (45 ≤ n ∧ n ≤ 48)) ∧
    (OpClass.admits .xmS n = true ↔ n < 32) ∧ (OpClass.admits .xmD n = true ↔ n < 32) ∧
    (OpClass.admits .vs n = true ↔ n ≤ 44) ∧ (OpClass.admits .vd n = true ↔ n < 40 ∨ (45 ≤ n ∧ n ≤ 48)) ∧
    (OpClass.admits .vmS n = true ↔ n < 40) ∧ (OpClass.admits .vmD n = true ↔ n < 40) ∧
    (OpClass.admits .mkS n = true ↔ n < 8) ∧ (OpClass.admits .mkD n = true ↔ n < 8) ∧
    (OpClass.admits .acS n = true ↔ n < 8) ∧ (OpClass.admits .acD n = true ↔ n < 8)) ∧
  (∀ i s p q o, (instrShape i).ops = p ++ o :: q → (∀ r ∈ p, r.1.admits r.2 = true) → o.1.admits o.2 = false →
    gate s = .go → privFault i s.ctx = none → s.ctx.stat stPFXP = false →
    Faults i s 0x02 0 (fun e => e.tval = instrWord i ∧ e.info0 = BitVec.ofNat 64 o.2)) ∧
  (∀ i s n o, (∀ r ∈ (instrShape i).ops, r.1.admits r.2 = true) → gate s = .go → privFault i s.ctx = none → s.ctx.stat stPFXP = false →
    ((o ∈ (instrShape i).ops ∧ (instrShape i).fold = some n ∧ n ≠ 0 ∧
        ((o.1 = .vd ∨ o.1 = .vmD) ∧ 32 ≤ o.2 ∧ o.2 < 40 ∨
          (instrShape i).memV = true ∧ (o.1 = .vs ∨ o.1 = .vmS) ∧ 32 ≤ o.2 ∧ o.2 ≤ 40)) ∨
      ((instrShape i).noMask = true ∧ (instrShape i).msk ≠ 0)) →
    Faults i s 0x51 0 (fun e => e.tval = instrWord i ∧ e.info0 = 0))

/-- R44, with the tables of each chapter: the class of every register field of every Gomas instruction, in the order of
its word (D, then A, then B; a store's data register stands in D's place), its FOLD, whether it takes a mask, and
whether it has format VL or VS. -/
def Sys2Proof.Claims.OperandFormsAreThoseOfTheTables : Prop :=
  (∀ d a b, ∀ i ∈ ([.add d a b, .sub d a b, .and d a b, .or d a b, .xor d a b, .andn d a b, .orn d a b, .sll d a b, .srl d a b, 
      .sra d a b, .slt d a b, .sltn d a b, .min d a b, .max d a b, .minn d a b, .maxn d a b, .addw d a b, 
      .subw d a b, .sllw d a b, .srlw d a b, .sraw d a b, .czero d a b] : List Instr),
    (instrShape i).ops = [(.xd, d), (.xs, a), (.xs, b)] ∧ (instrShape i).fold = none ∧ (instrShape i).noMask = false ∧ (instrShape i).memV = false) ∧
  (∀ d a e1, ∀ i ∈ ([.clz d a, .ctz d a, .popc d a, .bswap d a, .addi d a e1, .andi d a e1, .ori d a e1, .xori d a e1, .slti d a e1, 
      .sltni d a e1, .addiw d a e1, .slli d a e1, .srli d a e1, .srai d a e1] : List Instr),
    (instrShape i).ops = [(.xd, d), (.xs, a)] ∧ (instrShape i).fold = none ∧ (instrShape i).noMask = false ∧ (instrShape i).memV = false) ∧
  (∀ d e1, ∀ i ∈ ([.lui d e1, .adpc d e1, .lctx d e1, .tkrd d e1] : List Instr),
    (instrShape i).ops = [(.xd, d)] ∧ (instrShape i).fold = none ∧ (instrShape i).noMask = false ∧ (instrShape i).memV = false) ∧
  (∀ d a b e1, ∀ i ∈ ([.mul d a b e1, .mulh d a b e1, .mulhn d a b e1, .mulhsn d a b e1, .div d a b e1, .divn d a b e1, .rem d a b e1, 
      .remn d a b e1, .mulw d a b e1, .divw d a b e1, .divnw d a b e1] : List Instr),
    (instrShape i).ops = [(.xmD, d), (.xs, a), (.xs, b)] ∧ (instrShape i).fold = none ∧ (instrShape i).noMask = false ∧ (instrShape i).memV = false) ∧
  (∀ a b e1, ∀ i ∈ ([.beq a b e1, .bne a b e1, .blt a b e1, .bge a b e1, .bltn a b e1, .bgen a b e1] : List Instr),
    (instrShape i).ops = [(.xs, a), (.xs, b)] ∧ (instrShape i).fold = none ∧ (instrShape i).noMask = false ∧ (instrShape i).memV = false) ∧
  (∀ d e1, ∀ i ∈ ([.jal d e1, .recv d e1, .rpoll d e1, .csrr d e1] : List Instr),
    (instrShape i).ops = [(.xmD, d)] ∧ (instrShape i).fold = none ∧ (instrShape i).noMask = false ∧ (instrShape i).memV = false) ∧
  (∀ d a e1 e2 e3, ∀ i ∈ ([.jalr d a e1, .ld d a e1 e2 e3, .sbstat d a e1, .tlrd d a, .tntRd d a e1] : List Instr),
    (instrShape i).ops = [(.xmD, d), (.xmS, a)] ∧ (instrShape i).fold = none ∧ (instrShape i).noMask = false ∧ (instrShape i).memV = false) ∧
  (∀ a e1 e2, ∀ i ∈ ([.loopC e1 a e2, .loopM e1 a e2, .lbrk a, .sbreplay a, .sbdrop a, .csrw a e1, .csrs a e1, .csrc a e1, .frz a] : List Instr),
    (instrShape i).ops = [(.xmS, a)] ∧ (instrShape i).fold = none ∧ (instrShape i).noMask = false ∧ (instrShape i).memV = false) ∧
  (∀ d a b e1 e2 e3, ∀ i ∈ ([.ldx d a b e1 e2 e3, .ecpy d a b, .ecpy2 d a b, .estrm d a b, .enode d a b] : List Instr),
    (instrShape i).ops = [(.xmD, d), (.xmS, a), (.xmS, b)] ∧ (instrShape i).fold = none ∧ (instrShape i).noMask = false ∧ (instrShape i).memV = false) ∧
  (∀ s a e1 e2, ∀ i ∈ ([.st s a e1 e2] : List Instr),
    (instrShape i).ops = [(.xs, s), (.xmS, a)] ∧ (instrShape i).fold = none ∧ (instrShape i).noMask = false ∧ (instrShape i).memV = false) ∧
  (∀ s a b e1 e2, ∀ i ∈ ([.stx s a b e1 e2] : List Instr),
    (instrShape i).ops = [(.xs, s), (.xmS, a), (.xmS, b)] ∧ (instrShape i).fold = none ∧ (instrShape i).noMask = false ∧ (instrShape i).memV = false) ∧
  (∀ a b e1, ∀ i ∈ ([.wbR e1 a b, .invR e1 a b, .wbinvR e1 a b, .iinvR e1 a b, .pfr e1 a b, .send a b, .sendw a b, .tpost a b] : List Instr),
    (instrShape i).ops = [(.xmS, a), (.xmS, b)] ∧ (instrShape i).fold = none ∧ (instrShape i).noMask = false ∧ (instrShape i).memV = false) ∧
  (∀ e1 e2 e3 e4 e5 e6, ∀ i ∈ ([.fetchb, .updFlush, .fence e1 e2, .radv e1, .sync, .gsync, .rdone, .pfx e1 e2 e3 e4 e5 e6, .mswap, .trap e1 e2, 
      .tret, .uret, .wfi, .halt, .brk e1 e2] : List Instr),
    (instrShape i).ops = [] ∧ (instrShape i).fold = none ∧ (instrShape i).noMask = false ∧ (instrShape i).memV = false) ∧
  (∀ d a b e1 e2, ∀ i ∈ ([.amoWSwap d a b e1 e2, .amoWAdd d a b e1 e2, .amoWAnd d a b e1 e2, .amoWOr d a b e1 e2, .amoWXor d a b e1 e2, 
      .amoWMin d a b e1 e2, .amoWMax d a b e1 e2, .amoWMinn d a b e1 e2, .amoWMaxn d a b e1 e2, .amoWCas d a b e1 e2, 
      .amoDSwap d a b e1 e2, .amoDAdd d a b e1 e2, .amoDAnd d a b e1 e2, .amoDOr d a b e1 e2, .amoDXor d a b e1 e2, 
      .amoDMin d a b e1 e2, .amoDMax d a b e1 e2, .amoDMinn d a b e1 e2, .amoDMaxn d a b e1 e2, .amoDCas d a b e1 e2, 
      .tlwait d a b e1] : List Instr),
    (instrShape i).ops = [(.xmD, d), (.xmS, a), (.xs, b)] ∧ (instrShape i).fold = none ∧ (instrShape i).noMask = false ∧ (instrShape i).memV = false) ∧
  (∀ a b e1, ∀ i ∈ ([.updAdd e1 a b, .updAnd e1 a b, .updOr e1 a b, .updXor e1 a b, .updMin e1 a b, .updMax e1 a b, .updFadd a b, 
      .updFmin a b, .updFmax a b, .dep a b, .tinc a b] : List Instr),
    (instrShape i).ops = [(.xmS, a), (.xs, b)] ∧ (instrShape i).fold = none ∧ (instrShape i).noMask = false ∧ (instrShape i).memV = false) ∧
  (∀ a e1, ∀ i ∈ ([.tntSet a e1, .tntClr a e1, .tntChk a e1, .mark a e1] : List Instr),
    (instrShape i).ops = [(.xs, a)] ∧ (instrShape i).fold = none ∧ (instrShape i).noMask = false ∧ (instrShape i).memV = false) ∧
  (∀ d a, ∀ i ∈ ([.tkal d a] : List Instr),
    (instrShape i).ops = [(.xmD, d), (.xs, a)] ∧ (instrShape i).fold = none ∧ (instrShape i).noMask = false ∧ (instrShape i).memV = false) ∧
  (∀ d a b n m, ∀ i ∈ ([.vfadd d a b n m, .vfsub d a b n m, .vfmul d a b n m, .vfmin d a b n m, .vfmax d a b n m, .vfcsgn d a b n m, 
      .vfdiv d a b n m, .vadd d a b n m, .vsub d a b n m, .vmul d a b n m, .vmulh d a b n m, .vmin d a b n m, 
      .vmax d a b n m, .vminn d a b n m, .vmaxn d a b n m, .vand d a b n m, .vor d a b n m, .vxor d a b n m, 
      .vsll d a b n m, .vsrl d a b n m, .vsra d a b n m, .vsel d a b n m, .vpack d a b n m] : List Instr),
    (instrShape i).ops = [(.vd, d), (.vs, a), (.vs, b)] ∧ (instrShape i).fold = some n ∧ (instrShape i).noMask = false ∧ (instrShape i).memV = false ∧ (instrShape i).msk = m) ∧
  (∀ d a n m e1, ∀ i ∈ ([.vfabs d a n m, .vfneg d a n m, .vfsqrt d a n m, .vfclass d a n m, .vabs d a n m, .vrcp d a n m, .vrsq d a n m, 
      .vex2 d a n m, .vlg2 d a n m, .vtanh d a n m, .vcvt d a n m, .vunpk d a e1 n m] : List Instr),
    (instrShape i).ops = [(.vd, d), (.vs, a)] ∧ (instrShape i).fold = some n ∧ (instrShape i).noMask = false ∧ (instrShape i).memV = false ∧ (instrShape i).msk = m) ∧
  (∀ d a b n m, ∀ i ∈ ([.vfma d a b n m, .vfms d a b n m, .vfnma d a b n m, .vfnms d a b n m] : List Instr),
    (instrShape i).ops = [(.vmD, d), (.vs, a), (.vs, b)] ∧ (instrShape i).fold = some n ∧ (instrShape i).noMask = false ∧ (instrShape i).memV = false ∧ (instrShape i).msk = m) ∧
  (∀ d a b n m, ∀ i ∈ ([.vfeq d a b n m, .vflt d a b n m, .vfle d a b n m, .vfun d a b n m, .veq d a b n m, .vlt d a b n m, 
      .vltn d a b n m, .vle d a b n m] : List Instr),
    (instrShape i).ops = [(.mkD, d), (.vs, a), (.vs, b)] ∧ (instrShape i).fold = some n ∧ (instrShape i).noMask = false ∧ (instrShape i).memV = false ∧ (instrShape i).msk = m) ∧
  (∀ d a b n m, ∀ i ∈ ([.mand d a b n m, .mor d a b n m, .mxor d a b n m] : List Instr),
    (instrShape i).ops = [(.mkD, d), (.mkS, a), (.mkS, b)] ∧ (instrShape i).fold = some n ∧ (instrShape i).noMask = true ∧ (instrShape i).memV = false ∧ (instrShape i).msk = m) ∧
  (∀ d a n m, ∀ i ∈ ([.mnot d a n m, .mmovMm d a n m] : List Instr),
    (instrShape i).ops = [(.mkD, d), (.mkS, a)] ∧ (instrShape i).fold = some n ∧ (instrShape i).noMask = true ∧ (instrShape i).memV = false ∧ (instrShape i).msk = m) ∧
  (∀ d a n m, ∀ i ∈ ([.mpop d a n m, .mfirst d a n m, .mmovMx d a n m] : List Instr),
    (instrShape i).ops = [(.xd, d), (.mkS, a)] ∧ (instrShape i).fold = some n ∧ (instrShape i).noMask = true ∧ (instrShape i).memV = false ∧ (instrShape i).msk = m) ∧
  (∀ d a n m, ∀ i ∈ ([.msetl d a n m, .mmovXm d a n m] : List Instr),
    (instrShape i).ops = [(.mkD, d), (.xs, a)] ∧ (instrShape i).fold = some n ∧ (instrShape i).noMask = true ∧ (instrShape i).memV = false ∧ (instrShape i).msk = m) ∧
  (∀ d a n m, ∀ i ∈ ([.vfsum d a n m, .vfrmax d a n m, .vfrmin d a n m, .vrsum d a n m, .vrmax d a n m, .vrmin d a n m, 
      .vrand d a n m, .vror d a n m] : List Instr),
    (instrShape i).ops = [(.xd, d), (.vs, a)] ∧ (instrShape i).fold = some n ∧ (instrShape i).noMask = false ∧ (instrShape i).memV = false ∧ (instrShape i).msk = m) ∧
  (∀ d a n m, ∀ i ∈ ([.vsplat d a n m] : List Instr),
    (instrShape i).ops = [(.vd, d), (.xs, a)] ∧ (instrShape i).fold = some n ∧ (instrShape i).noMask = false ∧ (instrShape i).memV = false ∧ (instrShape i).msk = m) ∧
  (∀ d a b n m, ∀ i ∈ ([.vslu d a b n m, .vsld d a b n m] : List Instr),
    (instrShape i).ops = [(.vmD, d), (.vmS, a), (.xmS, b)] ∧ (instrShape i).fold = some n ∧ (instrShape i).noMask = false ∧ (instrShape i).memV = false ∧ (instrShape i).msk = m) ∧
  (∀ d a b n m, ∀ i ∈ ([.vperm d a b n m, .vzip d a b n m, .vunzip d a b n m] : List Instr),
    (instrShape i).ops = [(.vmD, d), (.vmS, a), (.vmS, b)] ∧ (instrShape i).fold = some n ∧ (instrShape i).noMask = false ∧ (instrShape i).memV = false ∧ (instrShape i).msk = m) ∧
  (∀ d a b n m, ∀ i ∈ ([.vext d a b n m] : List Instr),
    (instrShape i).ops = [(.xd, d), (.vmS, a), (.xmS, b)] ∧ (instrShape i).fold = some n ∧ (instrShape i).noMask = true ∧ (instrShape i).memV = false ∧ (instrShape i).msk = m) ∧
  (∀ d a b n m, ∀ i ∈ ([.vins d a b n m] : List Instr),
    (instrShape i).ops = [(.vmD, d), (.xs, a), (.xmS, b)] ∧ (instrShape i).fold = some n ∧ (instrShape i).noMask = false ∧ (instrShape i).memV = false ∧ (instrShape i).msk = m) ∧
  (∀ d a b n e1 e2, ∀ i ∈ ([.vld d a b e1 n e2] : List Instr),
    (instrShape i).ops = [(.vmD, d), (.xmS, a), (.xmS, b)] ∧ (instrShape i).fold = some n ∧ (instrShape i).noMask = false ∧ (instrShape i).memV = true) ∧
  (∀ s a b n m e1, ∀ i ∈ ([.vst s a b n m e1] : List Instr),
    (instrShape i).ops = [(.vs, s), (.xmS, a), (.xmS, b)] ∧ (instrShape i).fold = some n ∧ (instrShape i).noMask = false ∧ (instrShape i).memV = true ∧ (instrShape i).msk = m) ∧
  (∀ d a b n e1, ∀ i ∈ ([.vgather d a b e1 n] : List Instr),
    (instrShape i).ops = [(.vmD, d), (.xmS, a), (.vmS, b)] ∧ (instrShape i).fold = some n ∧ (instrShape i).noMask = false ∧ (instrShape i).memV = true) ∧
  (∀ s a b n, ∀ i ∈ ([.vscatter s a b n] : List Instr),
    (instrShape i).ops = [(.vmS, s), (.xmS, a), (.vmS, b)] ∧ (instrShape i).fold = some n ∧ (instrShape i).noMask = false ∧ (instrShape i).memV = true) ∧
  (∀ d a b n m, ∀ i ∈ ([.vqnt d a b n m, .vdqt d a b n m] : List Instr),
    (instrShape i).ops = [(.vmD, d), (.vmS, a), (.vmS, b)] ∧ (instrShape i).fold = some n ∧ (instrShape i).noMask = true ∧ (instrShape i).memV = false ∧ (instrShape i).msk = m) ∧
  (∀ d a n m, ∀ i ∈ ([.vrotFwd d a n m, .vrotInv d a n m, .vscl d a n m] : List Instr),
    (instrShape i).ops = [(.vmD, d), (.vmS, a)] ∧ (instrShape i).fold = some n ∧ (instrShape i).noMask = true ∧ (instrShape i).memV = false ∧ (instrShape i).msk = m) ∧
  (∀ d a b, ∀ i ∈ ([.mld d a b, .mldT d a b, .mst d a b] : List Instr),
    (instrShape i).ops = [(.acS, d), (.xmS, a), (.xmS, b)] ∧ (instrShape i).fold = none ∧ (instrShape i).noMask = false ∧ (instrShape i).memV = false) ∧
  (∀ d a b, ∀ i ∈ ([.mmac d a b, .mmacz d a b, .mwr d a b] : List Instr),
    (instrShape i).ops = [(.acD, d), (.xmS, a), (.xmS, b)] ∧ (instrShape i).fold = none ∧ (instrShape i).noMask = false ∧ (instrShape i).memV = false) ∧
  (∀ d a b e1, ∀ i ∈ ([.mrd d a b e1] : List Instr),
    (instrShape i).ops = [(.vmD, d), (.acS, a), (.xmS, b)] ∧ (instrShape i).fold = some 7 ∧ (instrShape i).noMask = false ∧ (instrShape i).memV = false) ∧
  (∀ d b, ∀ i ∈ ([.mzero d b] : List Instr),
    (instrShape i).ops = [(.acD, d), (.xmS, b)] ∧ (instrShape i).fold = none ∧ (instrShape i).noMask = false ∧ (instrShape i).memV = false)

/-- The instructions that take a prefix, with what each reads of it (Tables 8-6, 9-11 and 10-7, R264): the codes beside 0 of TD,
TA and TB, whether the nonzero ones must agree, whether RTAG and RND are read, and the codes of TD with which SAT is. -/
def Sys2Proof.Claims.prefixTable (d a b n m h : Nat) : List (List Instr × (List Nat × List Nat × List Nat) × Bool × Bool × Bool × List Nat) :=
  let any := List.range 16
  let fs := [1, 2, 3]
  let is := [7, 8, 9, 10, 11, 12]
  let codes := [4, 5, 6, 9]
  let mx := [2, 3, 4, 5, 6, 9]
  let cvt := [1, 2, 3, 7, 8, 10, 11]
  [([.vfadd d a b n m, .vfsub d a b n m, .vfmul d a b n m, .vfmin d a b n m, .vfmax d a b n m, .vfcsgn d a b n m, .vfabs d a n m, .vfneg d a n m,
     .vfma d a b n m, .vfms d a b n m, .vfnma d a b n m, .vfnms d a b n m, .vfdiv d a b n m, .vfsqrt d a n m], (fs, fs, fs), true, false, true, []),
   ([.vfclass d a n m], ([], [1], []), false, false, false, []),
   ([.vadd d a b n m, .vsub d a b n m, .vmul d a b n m, .vmulh d a b n m, .vmin d a b n m, .vmax d a b n m, .vminn d a b n m, .vmaxn d a b n m,
     .vand d a b n m, .vor d a b n m, .vxor d a b n m, .vsll d a b n m, .vsrl d a b n m, .vsra d a b n m, .vabs d a n m, .vsel d a b n m],
    (is, is, is), true, false, false, any),
   ([.vfeq d a b n m, .vflt d a b n m, .vfle d a b n m, .vfun d a b n m, .veq d a b n m, .vlt d a b n m, .vltn d a b n m, .vle d a b n m,
     .vsplat d a n m, .vslu d a b n m, .vsld d a b n m, .vperm d a b n m, .vext d a b n m, .vins d a b n m, .vzip d a b n m, .vunzip d a b n m, .mswap],
    ([], [], []), false, false, false, []),
   ([.vrcp d a n m, .vrsq d a n m, .vex2 d a n m, .vlg2 d a n m, .vtanh d a n m], ([1], [1], []), true, false, false, []),
   ([.vfsum d a n m], ([], [1], []), false, false, true, []),
   ([.vfrmax d a n m, .vfrmin d a n m], ([], [1], []), false, false, false, []),
   ([.vrsum d a n m, .vrmax d a n m, .vrmin d a n m, .vrand d a n m, .vror d a n m], ([], [7], []), false, false, false, []),
   ([.vcvt d a n m], (cvt, cvt, []), false, false, true, any), ([.vpack d a b n m], ([2, 3, 8, 11], cvt, []), false, false, true, any),
   ([.vunpk d a h n m], ([1, 7, 10], [2, 3, 8, 11], []), false, false, true, any),
   ([.vscl d a n m], (codes, [1], []), false, true, false, []), ([.vqnt d a b n m], (codes, [1], []), false, true, false, [0, 4, 5]),
   ([.vdqt d a b n m], ([1], codes, []), false, true, false, []), ([.vrotFwd d a n m, .vrotInv d a n m], ([1], [1], []), false, true, false, []),
   ([.mld d (a + 1) b, .mldT d (a + 1) b], (mx, [], []), false, true, false, []), ([.mld d 0 b, .mldT d 0 b], ([2, 3], [], []), false, false, true, any),
   ([.mmac d a b, .mmacz d a b], ([], mx, []), false, true, false, [])]

/-- R58, R59, R91, R252, R286 and R314. With a prefix pending, an instruction of no major that takes one, one that stands at another
address than the word after the pfx, and one of a modulo loop before which a slot was passed over raise PFXSEQ. An instruction
that may take it raises FMTF where the payload names a type code that it does not accept, types that must agree and do not, or
a value in a field that it does not read, and for nothing else. Both are precise, at the instruction's own PC, with its word
in TVAL, and FMTF names RTAG; nothing takes effect, and the frame keeps PFXP (FaultsEnterTheirHandler). -/
def Sys2Proof.Claims.PrefixesMustFit : Prop :=
  (∀ i x s, decode x = .ok i → gate s = .go → privFault i s.ctx = none → s.ctx.stat stPFXP = true →
    ((∀ d a b n m h, ∀ row ∈ prefixTable d a b n m h, i ∉ row.1) ∨ (∃ w, s.ctx.pfxNext = some w ∧ w ≠ s.ctx.pc) ∨ s.ctx.pfxLost = true) →
    Faults i s 0x06 0 (fun e => e.tval = instrWord i)) ∧
  (∀ d a b n m h, ∀ row ∈ prefixTable d a b n m h, ∀ i ∈ row.1, ∀ s, gate s = .go → s.ctx.stat stPFXP = true →
    (s.ctx.pfxNext = none ∨ s.ctx.pfxNext = some s.ctx.pc) → s.ctx.pfxLost = false →
    (∀ r ∈ (instrShape i).ops, r.1.admits r.2 = true) → vlenBad (instrShape i) = false →
    let p := s.ctx.pfxpay
    let td := Word.field p 15 4
    let ta := Word.field p 11 4
    let tb := Word.field p 7 4
    let fits := (td = 0 ∨ td ∈ row.2.1.1) ∧ (ta = 0 ∨ ta ∈ row.2.1.2.1) ∧ (tb = 0 ∨ tb ∈ row.2.1.2.2) ∧
      (row.2.2.1 = true → ∀ x ∈ [td, ta, tb], ∀ y ∈ [td, ta, tb], x ≠ 0 → y ≠ 0 → x = y) ∧ (Word.field p 3 4 = 0 ∨ row.2.2.2.1 = true) ∧
      (Word.field p 1 2 = 0 ∨ row.2.2.2.2.1 = true) ∧ (p.getLsbD 0 = false ∨ td ∈ row.2.2.2.2.2)
    (¬ fits → Faults i s 0x61 0 (fun e => e.tval = instrWord i ∧ e.info0 = BitVec.ofNat 64 (Word.field p 3 4))) ∧
    (fits → decodeFault i s = none))

/-- The operand names the destination of window y: a general register but x0, or a v- or o-register. -/
def Sys2Proof.Claims.NamesWindow (r : OpClass × Nat) (y : Window) : Prop :=
  y.dst = r.2 ∧ ((y.vec = false ∧ r.1 ∈ ([.xs, .xd, .xmS, .xmD] : List OpClass) ∧ 0 < r.2 ∧ r.2 < 32) ∨
    (y.vec = true ∧ r.1 ∈ ([.vs, .vd, .vmS, .vmD] : List OpClass) ∧ r.2 < 40))

/-- R52 and R220: an instruction whose operands, in the order of its word, name the destination of an open window that was opened under
WINCHK = 1 raises WINDOW for the first such operand, precisely, with the PC of the window's instruction in TVAL and the register's
number in INFO0. No window opened under WINCHK = 0 does so, and neither does B of a sendw of no bytes, which is not read. -/
def Sys2Proof.Claims.WindowsAreGuarded : Prop :=
  (∀ i s p q o w, (instrShape i).ops = p ++ o :: q → (∀ a b, i = .sendw a b → Word.field (s.ctx.readX a).1 20 5 ≠ 0 ∨ p = []) →
    gate s = .go → decodeFault i s = none →
    (∀ r ∈ p, ∀ y ∈ s.ctx.wins, y.chk = true → ¬ NamesWindow r y) → NamesWindow o w →
    (s.ctx.wins.filter Window.chk).find? (fun y => y.vec == w.vec && y.dst == w.dst) = some w →
    Faults i s 0x04 0 (fun e => e.tval = w.ipc ∧ e.info0 = BitVec.ofNat 64 o.2)) ∧
  (∀ i s, (∀ r ∈ (instrShape i).ops, ∀ y ∈ s.ctx.wins, y.chk = true → ¬ NamesWindow r y) → windowFault i s = none) ∧
  (∀ a b s, Word.field (s.ctx.readX a).1 20 5 = 0 → (∀ y ∈ s.ctx.wins, y.chk = true → ¬ NamesWindow (.xmS, a) y) →
    windowFault (.sendw a b) s = none)

/-- Operands, prefixes and open windows: where an instruction raises ILLREG, VLEN, PFXSEQ, FMTF and WINDOW:
OperandFieldsAreCheckedByClass, OperandFormsAreThoseOfTheTables, PrefixesMustFit and WindowsAreGuarded together. Derived
from spec/02_encoding.md: Register numbers and operand classes; spec/02_encoding.md: Spare bits and reserved values;
spec/02_encoding.md: Fold and mask fields; spec/02_encoding.md: Lookahead windows; spec/02_encoding.md: Prefixes. -/
def Obligations.OperandFieldsAreChecked : Prop := OperandFieldsAreCheckedByClass ∧ OperandFormsAreThoseOfTheTables ∧ PrefixesMustFit ∧ WindowsAreGuarded

/-- The frame that a fault of the acting context writes at offset `off` of main store, as Table 12-5 lays out its first
words: PC, STATUS, CAUSE, TVAL, IPC, STEP, INFO0, INFO1, each with the taint of its value (R360), and at 0x48 to 0x58 PFXPAY,
VBEAT and NWIN. -/
def Sys2Proof.Claims.FrameAt (s t : State) (off : Nat) (e : Exc) : Prop :=
  t.tile.localWord off = s.ctx.pc ∧ t.tile.localWord (off + 8) = s.ctx.status ∧ t.tile.localWord (off + 16) = e.cause ∧
  t.tile.localWord (off + 24) = e.tval ∧ t.tile.localWord (off + 32) = e.ipc ∧ t.tile.localWord (off + 40) = e.step ∧
  t.tile.localWord (off + 48) = e.info0 ∧ t.tile.localWord (off + 56) = e.info1 ∧ t.tile.localWord (off + 64) = e.info2 ∧
  t.tile.localWord (off + 72) = s.ctx.pfxpay ∧ t.tile.localWord (off + 80) = s.ctx.vbeat ∧
  t.tile.localWord (off + 88) = BitVec.ofNat 64 s.ctx.wins.length ∧
  t.tile.localTaint off 8 = false ∧ t.tile.localTaint (off + 8) 8 = s.csrBit 0x000 ∧ t.tile.localTaint (off + 16) 8 = false ∧
  t.tile.localTaint (off + 24) 8 = e.tnt ∧ (∀ k < 3, t.tile.localTaint (off + 48 + 8 * k) 8 = e.infoT.getLsbD k) ∧
  t.tile.localTaint (off + 32) 16 = false ∧ t.tile.localTaint (off + 72) 8 = s.csrBit 0x012 ∧
  ∀ q, q < off ∨ off + 1792 ≤ q → Memory.get t.tile.main q = Memory.get s.tile.main q

/-- CAUSE (Table 12-5): CODE in bits 63:56, SUB in 55:48, KIND in 47:45, the rest 0. -/
def Sys2Proof.Claims.CauseIs (e : Exc) : Prop :=
  Word.field e.cause 56 8 = e.code.toNat ∧ Word.field e.cause 48 8 = e.sub.toNat ∧ Word.field e.cause 45 3 = e.kind.toNat ∧
  Word.field e.cause 0 45 = 0

/-- R359 to R364: a fault delivered to a context. PAGEF, DSTORE and PAGEREQ, and each code whose bit of UDELEG is 1, but never
PRIV, go in user mode with UEXL = 0 and UVEC ≠ 0 to UVEC, the frame at UFP and UEXL set; any other fault with EXL = 0 and TVEC ≠ 0
goes to TVEC, the frame at TFP, PM and EXL set; else the core freezes, as it does where the frame address does not meet R360.
The handler begins with no window, no loop, no prefix, no vector progress and no control taint; general registers keep value
and taint. Codes above 0x8F, which a forme raises, and interrupts apart. Main store is in canonical form. -/
def Obligations.FaultsEnterTheirHandler : Prop :=
  ∀ s e, Acts s → TileCanonical s.tile → e.kind ≠ kInterrupt → e.code.toNat < 0x90 →
    let clear (t : State) : Prop := t.ctx.wins = [] ∧ t.ctx.loops = [] ∧ t.ctx.stat stPFXP = false ∧ t.ctx.stat stCTNT = false ∧ t.ctx.vbeat = 0 ∧
      t.ctx.x = s.ctx.x ∧ t.ctx.v = s.ctx.v ∧ t.ctx.o = s.ctx.o ∧ t.ctx.m = s.ctx.m ∧ t.ctx.lr = s.ctx.lr ∧ t.ctx.taint = s.ctx.taint
    let mayUp : Prop := (e.code = 0x11 ∨ e.code = 0x12 ∨ e.code = 0x82 ∨
        (vget s.ctx.udeleg (e.code.toNat / 64) 0).getLsbD (e.code.toNat % 64) = true) ∧ e.code ≠ 0x03
    let up : Prop := mayUp ∧ s.ctx.stat stPM = false ∧ s.ctx.stat stUEXL = false ∧ s.ctx.uvec ≠ 0
    let u := s.takeFault e
    CauseIs e ∧
    (up → frameOk s.forme s.ctx.ufp = true → u.ctx.pc = s.ctx.uvec ∧ u.ctx.stat stUEXL = true ∧ u.ctx.stat stPM = s.ctx.stat stPM ∧
      u.ctx.stat stEXL = s.ctx.stat stEXL ∧ u.ctx.stat stIE = s.ctx.stat stIE ∧ clear u ∧ FrameAt s u (s.ctx.ufp.toNat % 2 ^ 32) e ∧
      u.tile.frozen = s.tile.frozen) ∧
    (¬ up → s.ctx.stat stEXL = false → s.ctx.tvec ≠ 0 → frameOk s.forme s.ctx.tfp = true →
      u.ctx.pc = s.ctx.tvec ∧ u.ctx.stat stPM = true ∧ u.ctx.stat stEXL = true ∧ u.ctx.stat stUEXL = s.ctx.stat stUEXL ∧
      u.ctx.stat stIE = s.ctx.stat stIE ∧ clear u ∧ FrameAt s u (s.ctx.tfp.toNat % 2 ^ 32) e ∧ u.tile.frozen = s.tile.frozen) ∧
    ((¬ up ∧ (s.ctx.stat stEXL = true ∨ s.ctx.tvec = 0)) ∨ (up ∧ frameOk s.forme s.ctx.ufp = false) ∨
      (¬ up ∧ s.ctx.stat stEXL = false ∧ s.ctx.tvec ≠ 0 ∧ frameOk s.forme s.ctx.tfp = false) →
      u.tile.frozen = true ∧ u.ctx = s.ctx ∧
      u.tile.main = s.tile.main) ∧
    (∀ a, frameOk s.forme a = true ↔ a.toNat / 2 ^ 32 = 0x1FFFFFF ∧ a.toNat % 64 = 0 ∧
      a.toNat % 2 ^ 32 + 2048 ≤ (if s.forme.img.modes.getLsbD 54 then 0x50000 else 0x40000))

/-- R356 and R365: trap completes and raises UTRAP, kind after, with its immediate in TVAL, its frame's PC that of the next
instruction; with no window open it goes to its handler at once. brk raises BRKPT, precise, where a handler takes it, and
otherwise asks its forme to stop, reason 1, naming tile, context, PC and code, and execution continues. mark writes its
record, with the value of A, and passes on. -/
def Sys2Proof.Claims.TrapsAndBreakpoints : Prop :=
  (∀ h l s, Issues (.trap h l) s → s.ctx.wins = [] →
    exec (.trap h l) s = .next ((followed (.trap h l) s s).takeFault { s.exc 0x08 (BitVec.ofNat 64 (64 * h + l)) with kind := 2 }) ∧
    (s.ctx.stat stPM = true → s.ctx.stat stEXL = false → s.ctx.tvec ≠ 0 → frameOk s.forme s.ctx.tfp = true → TileCanonical s.tile →
      Answers (.trap h l) s (fun t => t.ctx.pc = s.ctx.tvec ∧ t.ctx.stat stPM = true ∧ t.ctx.stat stEXL = true ∧
        t.tile.localWord (s.ctx.tfp.toNat % 2 ^ 32) = s.ctx.fallThrough.pc ∧
        t.tile.localWord (s.ctx.tfp.toNat % 2 ^ 32 + 24) = BitVec.ofNat 64 (64 * h + l)))) ∧
  (∀ h l s, Issues (.brk h l) s →
    (s.ctx.route 0x07 ≠ .freeze → Faults (.brk h l) s 0x07 0 (fun e => e.tval = BitVec.ofNat 64 (64 * h + l))) ∧
    (s.ctx.route 0x07 = .freeze → Answers (.brk h l) s (fun t => t.ctx.pc = s.ctx.fallThrough.pc ∧ t.tile.main = s.tile.main ∧
      (s.ctx.wins = [] → t.ctx.x = s.ctx.x) ∧
      ∀ f, s.formeAt s.tile.forme = some f → ∃ r, (t.formeAt s.tile.forme).map Forme.stops = some (f.stops ++ [r]) ∧ r.reason = 1 ∧
        r.tile = s.tile.logical ∧ r.ctx = s.actor.ctx.val ∧ r.code = 64 * h + l ∧ r.pc = s.ctx.pc))) ∧
  (∀ a c s, Issues (.mark a c) s → let v := s.readXs a
    Answers (.mark a c) s (fun t => t.ctx.pc = s.ctx.fallThrough.pc ∧ t.tile.main = s.tile.main ∧ t.tile.fab = v.2.2.tile.fab ∧
      (s.ctx.wins = [] → t.ctx.x = s.ctx.x) ∧ t.ctx.mbstat = v.2.2.ctx.mbstat ∧
      (6, s.actor.ctx.val, BitVec.ofNat 8 (s.actor.ctx.val * 64 + c) :: bytesOf 8 v.1) ∈ t.tile.trace.cur))

/-- R356, R358 and R376: wfi passes on where a line of INTP is set, and else waits for WFI_WAKE; halt stops the context; frz
freezes the core of the tile it names, or an engine context of the forme. -/
def Sys2Proof.Claims.WaitHaltAndFreeze : Prop :=
  (∀ s, Issues .wfi s → (s.ctx.intp.toNat % 65536 ≠ 0 → exec .wfi s = .next (followed .wfi s s)) ∧
    (s.ctx.intp.toNat % 65536 = 0 → Answers .wfi s (fun t => t.ctx.wait = .wfi ∧ t.ctx.pc = s.ctx.pc))) ∧
  (∀ s p c, Acts (s.as p c) → (s.as p c).ctx.wait = .wfi → (s.as p c).ctx.intp.toNat % 65536 ≠ 0 → Answers (.wfiWake p c.val) s (fun t =>
    t.ctx.wait = .nothing ∧ t.ctx.pc = (s.as p c).ctx.fallThrough.pc)) ∧
  (∀ s, Issues .halt s → Answers .halt s (fun t => t.ctx.st = .halted ∧ (s.ctx.wins = [] → t.ctx.x = s.ctx.x) ∧ t.tile.frozen = s.tile.frozen)) ∧
  (∀ a s u, Issues (.frz a) s → a < 32 → (s.ctx.readX a).1.toNat < 4096 → (s.ctx.readX a).1.toNat < s.forme.count →
    s.logicalTile s.tile.forme (s.ctx.readX a).1.toNat = some u → s.tileAt u.phys = some u →
    Answers (.frz a) s (fun t => (t.tileD u.phys).frozen = true ∧ t.ctx.pc = s.ctx.fallThrough.pc)) ∧
  (∀ a s x, Issues (.frz a) s → a < 32 → x ∈ s.engs → x.forme = s.tile.forme → x.eng < 48 → x.ctx < 8 →
    (s.ctx.readX a).1 = BitVec.ofNat 64 (2 ^ 62 + x.eng * 8 + x.ctx) →
    Answers (.frz a) s (fun t => (∀ y ∈ t.engs, y.eng = x.eng → y.ctx = x.ctx → y.frozen = true) ∧ t.ctx.pc = s.ctx.fallThrough.pc))

/-- trap, brk, mark, wfi, halt and frz: TrapsAndBreakpoints and WaitHaltAndFreeze together. Derived from spec/12_system.md:
Trap instructions; spec/14_trace.md: Stops and breakpoints. -/
def Obligations.TrapsBreakpointsWaitsAndHalts : Prop := TrapsAndBreakpoints ∧ WaitHaltAndFreeze

/-- R360 and R362: tret and uret of a frame that holds no window, no outer loop, and no inner loop or a counted one, its PC a
multiple of 4: control passes to the frame's PC; tret takes the frame's STATUS, uret its PFXP and CTNT and clears UEXL; the loop,
REDACC, the prefix payload and the vector progress are the frame's. A record of a landed scalar result reopens its window with REM instructions left and its own taint bit. A PC that is no multiple of 4 is ALIGN; a
frame address that breaks R360, NWIN above 16, a reserved ST and a DST outside its class are ILLOP, and so are tret outside a
trap handler in privileged mode and uret outside an upcall. A poisoned granule among the frame's 1,792 bytes freezes the core (R430). -/
def Obligations.ReturnsRestoreTheirFrame : Prop :=
  ∀ (i : Instr) (priv : Bool) (s : State), (i, priv) ∈ ([(.tret, true), (.uret, false)] : List (Instr × Bool)) →
    let fp := if priv then s.ctx.tfp else s.ctx.ufp
    let w (k : Nat) : Word := s.tile.localWord (fp.toNat % 2 ^ 32 + 8 * k)
    let statusIs (t : State) : Prop := (priv = true → t.ctx.status = w 1 &&& 0xFF00000000000000#64) ∧
      (priv = false → t.ctx.stat stUEXL = false ∧ t.ctx.stat stPM = s.ctx.stat stPM ∧ t.ctx.stat stEXL = s.ctx.stat stEXL ∧
        t.ctx.stat stIE = s.ctx.stat stIE ∧ t.ctx.stat stWINCHK = s.ctx.stat stWINCHK ∧ t.ctx.stat stTCLRU = s.ctx.stat stTCLRU ∧
        t.ctx.stat stCTNT = (w 1).getLsbD 56 ∧ t.ctx.stat stPFXP = (w 1).getLsbD 57)
    let clean := s.tile.poisoned (fp.toNat % 2 ^ 32) 1792 = false
    (Issues i s → frameOk s.forme fp = true → ¬ clean → exec i s = .next (sent (s.freezeCore s.actor.tile 3 s.ctx.pc))) ∧
    (Issues i s → frameOk s.forme fp = false → Faults i s 0x01 0 (fun e => e.tval = instrWord i)) ∧
    (Issues i s → frameOk s.forme fp = true → clean → (w 0).toNat % 4 ≠ 0 → Faults i s 0x05 0 (fun e => e.tval = w 0)) ∧
    (Issues i s → frameOk s.forme fp = true → clean → (w 0).toNat % 4 = 0 → 16 < (w 11).toNat % 32 → Faults i s 0x01 0 (fun e => e.tval = instrWord i)) ∧
    (∀ k, Issues i s → frameOk s.forme fp = true → clean → (w 0).toNat % 4 = 0 → k < (w 11).toNat % 32 → (w (32 + 4 * k)).getLsbD 63 = true →
      (Word.field (w (32 + 4 * k)) 61 2 = 3 ∨ (if (w (32 + 4 * k)).getLsbD 50 then 40 else 32) ≤ Word.field (w (32 + 4 * k)) 51 6) →
      Faults i s 0x01 0 (fun e => e.tval = instrWord i)) ∧
    (Issues i s → frameOk s.forme fp = true → clean → s.ctx.wins = [] → (w 0).toNat % 4 = 0 → (w 11).toNat % 32 = 0 → (w 17).getLsbD 63 = false →
      ((w 21).getLsbD 63 = false ∨ (w 21).getLsbD 62 = false) → Answers i s (fun t => t.ctx.pc = w 0 ∧ t.ctx.wins = [] ∧ statusIs t ∧
        t.ctx.x = s.ctx.x ∧ t.ctx.v = s.ctx.v ∧ t.ctx.m = s.ctx.m ∧ t.ctx.taint = s.ctx.taint ∧ t.tile.main = s.tile.main ∧
        ((w 21).getLsbD 63 = false → t.ctx.loops = []) ∧
        ((w 21).getLsbD 63 = true → ∃ l, t.ctx.loops = [l] ∧ l.modulo = false ∧ l.beg.toNat = Word.field (w 21) 8 48 * 4 ∧
          l.len = Word.field (w 20) 60 4 + Word.field (w 21) 0 8 * 16 ∧ l.cnt.toNat = Word.field (w 20) 0 32 ∧ l.n.toNat = Word.field (w 22) 0 32) ∧
        t.ctx.vbeat = w 10 &&& 0x1FFFFFFFFF#64 ∧
        t.ctx.pfxpay.toNat = (w 9).toNat % 2 ^ 19 ∧
        (∀ k < 4, t.ctx.redacc.extractLsb' (64 * k) 64 = w (12 + k)))) ∧
    (Issues i s → frameOk s.forme fp = true → clean → s.ctx.wins = [] → (w 0).toNat % 4 = 0 → (w 11).toNat % 32 = 1 → (w 17).getLsbD 63 = false →
      (w 21).getLsbD 63 = false → (w 32).getLsbD 63 = true → Word.field (w 32) 61 2 = 0 → (w 32).getLsbD 50 = false → Word.field (w 32) 51 6 < 32 →
      Word.field (w 32) 57 4 ≠ 0 → Answers i s (fun t => t.ctx.pc = w 0 ∧ statusIs t ∧ t.ctx.x = s.ctx.x ∧ ∃ r, t.ctx.wins = [r] ∧
        r.rem = Word.field (w 32) 57 4 ∧ r.dst = Word.field (w 32) 51 6 ∧ r.vec = false ∧ r.ipc = w 33 ∧
        r.st = .landed (w 34) ((w 32).getLsbD 47))) ∧
    (priv = true → gate s = .go → s.ctx.stat stPM = true → s.ctx.stat stPFXP = false → s.ctx.stat stEXL = false → Faults i s 0x01 0 (fun e => e.tval = instrWord i)) ∧
    (priv = false → gate s = .go → s.ctx.stat stPFXP = false → (s.ctx.stat stPM = true ∨ s.ctx.stat stUEXL = false) →
      Faults i s 0x01 0 (fun e => e.tval = instrWord i))

/-- R358, R364 and R365: with a line of INTP set, IE = 1 and EXL = 0, no exception awaiting its FPX report and no restored DSTORE due at the PC (R115), an instruction
that raises nothing is not issued; INTERRUPT_TAKE of a context whose instruction waits for a port, a message, an engine, the
multiplier, a window or the matrix queue, or that a window with no instruction left holds, takes it as well. The interrupt
goes to TVEC with kind interrupt, code 0, TVAL = INTP and the PC of the instruction not yet issued; nothing of that
instruction has taken effect. With IE = 0 or EXL = 1 none is taken. -/
def Sys2Proof.Claims.InterruptsAreTaken : Prop :=
  let due (u : State) : Prop := u.ctx.intp.toNat % 65536 ≠ 0 ∧ u.ctx.stat stIE = true ∧ u.ctx.stat stEXL = false ∧ u.ctx.fpx = none ∧
    u.ctx.dstoreAt ≠ some u.ctx.pc
  let waits (u : State) : Prop := (∃ k, gate u = .closed k) ∨
    gate u = .go ∧ ∃ k ∈ ([.port, .msg, .engine, .muldiv, .near, .matrix] : List Stall), u.ctx.stall = some k
  let taken (u t : State) : Prop := t.ctx.pc = u.ctx.tvec ∧ t.ctx.stat stPM = true ∧ t.ctx.stat stEXL = true ∧
    t.ctx.x = u.ctx.x ∧ t.ctx.v = u.ctx.v ∧ t.ctx.intp = u.ctx.intp ∧
    t.tile.localWord (u.ctx.tfp.toNat % 2 ^ 32) = u.ctx.pc ∧ t.tile.localWord (u.ctx.tfp.toNat % 2 ^ 32 + 24) = u.ctx.intp ∧
    t.tile.localTaint (u.ctx.tfp.toNat % 2 ^ 32 + 24) 8 = u.csrBit 0x008 ∧
    Word.field (t.tile.localWord (u.ctx.tfp.toNat % 2 ^ 32 + 16)) 45 3 = 4 ∧ Word.field (t.tile.localWord (u.ctx.tfp.toNat % 2 ^ 32 + 16)) 56 8 = 0
  let ready (u : State) : Prop := u.ctx.tvec ≠ 0 ∧ frameOk u.forme u.ctx.tfp = true ∧ TileCanonical u.tile
  (∀ s p c, let u := s.as p c
    due u → waits u → u.ctx.settled = true → ready u → Answers (.interruptTake p c.val) s (taken u)) ∧
  (∀ s p c, ((s.as p c).ctx.stat stIE = false ∨ (s.as p c).ctx.stat stEXL = true) → exec (.interruptTake p c.val) s = .next s) ∧
  (∀ i d a b k z s, i ∈ ([.add d a b, .sub d a b, .and d a b, .or d a b, .xor d a b, .andn d a b, .orn d a b, .sll d a b, .srl d a b,
      .sra d a b, .slt d a b, .sltn d a b, .min d a b, .max d a b, .minn d a b, .maxn d a b, .clz d a, .ctz d a, .popc d a, .bswap d a,
      .addw d a b, .subw d a b, .sllw d a b, .srlw d a b, .sraw d a b, .czero d a b, .addi d a k, .andi d a k, .ori d a k, .xori d a k,
      .slti d a k, .sltni d a k, .addiw d a k, .slli d a k, .srli d a k, .srai d a k, .lui d k, .adpc d k, .mul d a b z, .mulh d a b z,
      .mulhn d a b z, .mulhsn d a b z, .div d a b z, .divn d a b z, .rem d a b z, .remn d a b z, .mulw d a b z, .divw d a b z, .divnw d a b z,
      .beq a b k, .bne a b k, .blt a b k, .bge a b k, .bltn a b k, .bgen a b k, .jal d k, .lbrk a, .lctx d k, .fetchb, .tkrd d k, .tntRd d a k,
      .tntSet a k, .tntClr a k, .csrr d k, .csrw a k, .csrs a k, .csrc a k, .wfi, .halt, .mark a k] : List Instr) →
    gate s = .go → due s → decodeFault i s = none → windowFault i s = none →
    exec i s = .next s.interrupt ∧ (s.ctx.settled = true → ready s → taken s s.interrupt))

/-- R114 and R365: COMMIT_POINT of a context that waits at one. While an entry of its own stands pending nothing changes; with
faulted entries and no open window it takes DSTORE, kind commit, for the one of lowest SEQ, with the address of that entry's
first byte in TVAL (that this, not the address of its 32-byte chunk, is the rule's "VA of the entry" is the model's choice, log
entry 39), its SEQ in INFO0, and in INFO1 its index and cause; every faulted entry of the context is reported; with nothing
owed it proceeds. -/
def Sys2Proof.Claims.CommitPointsDeliver : Prop :=
  ∀ s p c, let u := s.as p c
    u.ctx.stall = some .commit → u.ctx.st = .running → u.tile.frozen = false → u.forme.phase.runs = true →
    ((∃ e ∈ u.tile.sb, e.ctx = c ∧ e.st = .pending) → exec (.commitPoint p c.val) s = .next s) ∧
    ((∀ e ∈ u.tile.sb, e.ctx = c → e.st ≠ .pending ∧ e.isFaulted = false) → u.ctx.deferred = [] → u.tile.mx.faults = [] →
      (∀ x ∈ s.engs, x.faults = []) → Answers (.commitPoint p c.val) s (fun t => t.ctx.stall = none ∧ t.ctx.pc = u.ctx.pc ∧ t.tile.sb = u.tile.sb)) ∧
    (∀ e code, (∀ x ∈ u.tile.sb, x.ctx = c → x.st ≠ .pending) → e ∈ u.tile.sb → e.ctx = c → e.st = .faulted code →
      (∀ x ∈ u.tile.sb, x.ctx = c → x.isFaulted = true → x = e ∨ e.seq.toNat < x.seq.toNat) → u.ctx.wins = [] →
      ∃ r m, exec (.commitPoint p c.val) s = .next (m.takeFault r) ∧
        m = u.onTile (fun t => { t with sb := t.sb.map (fun x => if x.ctx == c && x.isFaulted then { x with reported := true } else x) }) ∧
        r.code = 0x12 ∧ r.sub = 0 ∧ r.kind = 3 ∧ r.ipc = e.pc ∧ r.step = e.step ∧ r.info0.toNat = e.seq.toNat ∧
        r.info1 = BitVec.ofNat 64 (e.idx * 256 + code.toNat) ∧
        ∀ k < 32, e.mask.getLsbD k = true → (∀ j < k, e.mask.getLsbD j = false) → r.tval = e.va + BitVec.ofNat 64 k)

/-- When an interrupt and when a deferred store fault is delivered: InterruptsAreTaken and CommitPointsDeliver together.
Derived from spec/12_system.md: Causes and routes; spec/04_memory.md: The late-fault store buffer. -/
def Obligations.InterruptsAndCommitPoints : Prop := InterruptsAreTaken ∧ CommitPointsDeliver

/-! ### The switches and the static network -/

/-- The acting tile's switch runs: a forme holds the tile, and the switch has neither halted nor been stopped with it, nor fired
in this tick already. -/
def Sys2Proof.Claims.SwitchRuns (s : State) : Prop :=
  Acts s ∧ s.tile.sw.halted = false ∧ s.netStopped s.tile = false ∧ s.tile.swFired = false

/-- The switch word i takes the switch from its state to w, its firing of this tick, and no FIFO, queue, wire, stream port or register changes. -/
def Sys2Proof.Claims.SwitchGives (i : Instr) (s : State) (w : Switch) : Prop :=
  Answers i s (fun t => t.tile.sw = w ∧ t.tile.swFired = true ∧ t.tile.fab = s.tile.fab ∧ t.tile.ctxs = s.tile.ctxs ∧ t.edge = s.edge ∧ t.holds = s.holds ∧
    t.streams = s.streams ∧ t.dies = s.dies ∧ t.hbm = s.hbm ∧ t.l2 = s.l2 ∧
    ∀ q, q ≠ s.actor.tile → t.tileD q = s.tileD q)

/-- R175, R178 to R182 and R184: ring makes its rows current from row F on for P passes, jmp and a taken bnz set SPC, bnz lowers a
counter that is not 0 and else falls through, setc sets a counter, tkwt falls through once L (B = 0) or P (B = 1) of its
die modulo 65,536 is its value and until then changes nothing, halt stops the switch, nop falls through. A switch that has fired in a tick does nothing more in it, whatever its word. The words of jmp,
bnz and setc carry their fields where R179 to R181 place them, and a word with a bit of Z set encodes nothing. -/
def Obligations.SwitchControlResults : Prop :=
  (∀ c z a, c < 4 → a < 2 ^ 11 →
    decodeRoute (4 * 2 ^ 28 + a) = .ok (.jmp a) ∧ decodeRoute (5 * 2 ^ 28 + c * 2 ^ 26 + a) = .ok (.bnz c a) ∧
    (0 < z → z < 2 ^ 17 → ∃ x, decodeRoute (4 * 2 ^ 28 + z * 2 ^ 11 + a) = .error x) ∧
    (0 < z → z < 2 ^ 15 → ∃ x, decodeRoute (5 * 2 ^ 28 + c * 2 ^ 26 + z * 2 ^ 11 + a) = .error x)) ∧
  (∀ c z v, c < 4 → v < 2 ^ 16 → decodeRoute (6 * 2 ^ 28 + c * 2 ^ 26 + v) = .ok (.setc c v) ∧
    (0 < z → z < 2 ^ 10 → ∃ x, decodeRoute (6 * 2 ^ 28 + c * 2 ^ 26 + z * 2 ^ 16 + v) = .error x)) ∧
  (∀ s i, s.tile.swFired = true → ((∃ f m p, i = .ring f m p) ∨ (∃ a, i = .jmp a) ∨ (∃ c a, i = .bnz c a) ∨ (∃ c v, i = .setc c v) ∨
      (∃ b v, i = .tkwt b v) ∨ i = .switchHalt ∨ i = .nop ∨ (∃ n e u w c l b q d, i = .route n e u w c l b q d) ∨
      (∃ n e u w c k, i = .rep n e u w c k) ∨ ∃ b q r k, i = .bus b q r k) → exec i s = .next s) ∧
  ∀ s, SwitchRuns s →
    (∀ f i p, SwitchGives (.ring f i p) s { s.tile.sw with inRing := some (f, i + 1), rrow := f, rpass := p }) ∧
    (∀ a, SwitchGives (.jmp a) s { s.tile.sw with spc := a }) ∧
    (∀ c a, (vget s.tile.sw.c c 0 ≠ 0 → SwitchGives (.bnz c a) s { s.tile.sw with c := vset s.tile.sw.c c (vget s.tile.sw.c c 0 - 1), spc := a }) ∧
      (vget s.tile.sw.c c 0 = 0 → SwitchGives (.bnz c a) s { s.tile.sw with spc := s.tile.sw.spc + 1 })) ∧
    (∀ c v, SwitchGives (.setc c v) s { s.tile.sw with c := vset s.tile.sw.c c (BitVec.ofNat 16 v), spc := s.tile.sw.spc + 1 }) ∧
    (∀ b v, let d := s.die (physDie s.actor.tile)
      ((if b = 0 then d.l else d.p).toNat % 65536 = v → SwitchGives (.tkwt b v) s { s.tile.sw with spc := s.tile.sw.spc + 1 }) ∧
      ((if b = 0 then d.l else d.p).toNat % 65536 ≠ v → exec (.tkwt b v) s = .next s)) ∧
    SwitchGives .switchHalt s { s.tile.sw with halted := true } ∧
    SwitchGives .nop s { s.tile.sw with spc := s.tile.sw.spc + 1 }

/-- The source has lost its head flit. -/
def Sys2Proof.Claims.Popped (x : SwSrc) (s t : Tile) : Prop :=
  match x with
  | .link d => ∀ e, vget s.fab.inMap d none = some e → t.fifo e = (s.fifo e).drop 1
  | .core d => t.outQ d = (s.outQ d).drop 1
  | .latch => t.sw.latch = none

/-- Where a switch stands after its current word has fired for the last time, outside a ring and in one (R176, R178). -/
def Sys2Proof.Claims.nextWord (w : Switch) : Switch :=
  match w.inRing with
  | none => { w with spc := w.spc + 1, rem := 0 }
  | some (first, rows) =>
    if w.rrow + 1 < first + rows then { w with rrow := w.rrow + 1, rem := 0 }
    else if w.rpass = 1 then { w with inRing := none, rrow := first, rpass := 0, rem := 0, spc := w.spc + rows + 1 }
    else { w with rrow := first, rpass := w.rpass - 1, rem := 0 }

/-- The route and rep words, with what a firing does to the place of the switch (R176, R177). -/
def Sys2Proof.Claims.FireForm (i : Instr) (n e s w c : Nat) (w0 w1 : Switch) : Prop :=
  (∃ b q t, i = .route n e s w c 0 b q t ∧ w1 = nextWord w0) ∨
  (∃ k, i = .rep n e s w c k ∧ w1 = (if (if w0.rem = 0 then k + 1 else w0.rem) = 1 then nextWord w0
    else { w0 with rem := (if w0.rem = 0 then k + 1 else w0.rem) - 1 }))

/-- A lane out of tile p has room: the neighbour's FIFO, on the same die, holds fewer than 4 flits; a die edge is not held; a
stream port holds fewer than 16 (R168, R170, R189, R338). -/
def Sys2Proof.Claims.LaneRoom (s : State) (p : Nat) (g : LinkEnd) : Prop :=
  match neighbour p g.dir with
  | none => (s.portAt p g.dir).out.length < 16
  | some q => if crossesEdge p g.dir then (s.tileD p).fab.holdSeen.getLsbD g.bit = false
      else ((s.tileD q).fifo { g with dir := opposite g.dir }).length < 4

/-- Flit f has left tile p on a lane: it stands last in the neighbour's FIFO of the opposite side and the same lane, or on the
wire of a die edge, behind those that stood there, or last in the stream port. -/
def Sys2Proof.Claims.Left (s t : State) (p : Nat) (g : LinkEnd) (f : Flit) : Prop :=
  match neighbour p g.dir with
  | none => (t.portAt p g.dir).out = (s.portAt p g.dir).out ++ [f]
  | some q => if crossesEdge p g.dir then ∃ new, t.edge = s.edge ++ new ∧ { tile := q, dir := opposite g.dir, thru := g.thru, flit := f } ∈ new
      else (t.tileD q).fifo { g with dir := opposite g.dir } = (s.tileD q).fifo { g with dir := opposite g.dir } ++ [f]

/-- R168, R170, R175, R176, R177, R187 and R199: the firing of a route or rep word with any number of link outputs and deliveries
to the core. All of it fires where every source holds a flit, every output has room and every in-queue too: each source loses
its head flit, once though several outputs name it, which leaves by every output that names it and enters the in-queues of
its side; the switch passes on and has fired in this tick. Otherwise none of it fires: no flit moves. So where an output crosses
a die edge more than 131,072 ticks after the tile's last alignment, which is TKSLIP. A route that listens is fired by its
bus's driver alone (R183). The port map gives different names different ends. -/
def Obligations.RouteWordsMoveFlits : Prop :=
  (∀ i n e u w c w1 s, FireForm i n e u w c s.tile.sw w1 → SwitchRuns s →
    let ms := swMoves n e u w
    let cs := swCins c
    let src (x : SwSrc) : Prop := (∃ m ∈ ms, m.2 = x) ∨ ∃ d ∈ cs, x = .link d
    let out (m : Nat × SwSrc) : Option LinkEnd := vget s.tile.fab.outMap m.1 none
    let late := 131072 < s.tile.alignCtr ∧ ∃ m ∈ ms, ∃ g, out m = some g ∧ crossesEdge s.actor.tile g.dir = true
    let ready := (∀ x, src x → (s.tile.srcHead x).isSome = true) ∧
      (∀ m ∈ ms, ∃ g, out m = some g ∧ LaneRoom s s.actor.tile g) ∧ ∀ d ∈ cs, (s.tile.inQ d).length < 4
    (∀ d d', src (.link d) → src (.link d') → vget s.tile.fab.inMap d none = vget s.tile.fab.inMap d' none → d = d') →
    (∀ m ∈ ms, ∀ m' ∈ ms, ∀ g g', out m = some g → out m' = some g' → m ≠ m' → g ≠ g' ∧ (neighbour s.actor.tile g.dir = none → g.dir ≠ g'.dir)) →
    (∀ m ∈ ms, ∀ g q, out m = some g → neighbour s.actor.tile g.dir = some q → q ≠ s.actor.tile ∧ (s.tileAt q).isSome = true) →
    (ready → ¬ late → Answers i s (fun t => (∀ x, src x → Popped x s.tile t.tile) ∧
      (∀ m ∈ ms, ∀ g f, out m = some g → s.tile.srcHead m.2 = some f → Left s t s.actor.tile g f) ∧
      (∀ d < 4, t.tile.inQ d = s.tile.inQ d ++ (if d ∈ cs then (s.tile.srcHead (.link d)).toList else [])) ∧
      { t.tile.sw with latch := none } = { w1 with latch := none } ∧ t.tile.swFired = true ∧ t.tile.ctxs = s.tile.ctxs)) ∧
    (ready → late → Answers i s (fun t => t.tile.fab = s.tile.fab ∧ t.edge = s.edge ∧ t.streams = s.streams ∧
      (∀ q, q ≠ s.actor.tile → t.tileD q = s.tileD q) ∧
      ∀ g, s.formeAt s.tile.forme = some g → g.fault = none → ∃ h z, t.formeAt s.tile.forme = some h ∧ h.fault = some z ∧ z.code = cTKSLIP ∧
        z.info0 = BitVec.ofNat 64 s.tile.logical ∧ z.info1 = BitVec.ofNat 64 s.tile.sw.spc)) ∧
    (¬ ready → Answers i s (fun t => t.tile.fab = s.tile.fab ∧ t.tile.swFired = false ∧ t.edge = s.edge ∧ t.streams = s.streams ∧ t.formes = s.formes ∧
      (∀ q, q ≠ s.actor.tile → t.tileD q = s.tileD q) ∧ { t.tile.sw with rem := 0 } = { s.tile.sw with rem := 0 } ∧
      ((∃ b q d, i = .route n e u w c 0 b q d) → t = s)))) ∧
  (∀ n e u w c b q t s, exec (.route n e u w c 1 b q t) s = .next s)

/-- R175, R183 and R185: bus, in the tick of its slot, with a flit at its source and no firing of its switch in this tick yet. Where no other switch of the segment and
no word of its own program listens to the slot, the flit is taken from its source and goes nowhere; where the program of
one other switch does, whose current word is a listen without further moves and has room, that switch receives it in its
latch or in-queue and passes on in the same step. In any other tick, and where the listener has fired in this tick already, no
flit moves. -/
def Sys2Proof.Claims.BusesDrive : Prop :=
  ∀ b sl r k s f, SwitchRuns s → 1 ≤ r → r ≤ 9 → s.tile.srcHead (busSrc r) = some f →
    let rem := if s.tile.sw.rem = 0 then k + 1 else s.tile.sw.rem
    let w1 := if rem = 1 then nextWord s.tile.sw else { s.tile.sw with rem := rem - 1 }
    let others := (s.segment s.tile b).filter (fun u => u.phys != s.tile.phys && (u.sw.listenOf b sl).isSome)
    let drives (t : State) : Prop := Popped (busSrc r) s.tile t.tile ∧ { t.tile.sw with latch := none } = { w1 with latch := none }
    ((s.die (physDie s.actor.tile)).l.toNat % 32 = sl → s.tile.sw.listenOf b sl = none → others = [] →
      Answers (.bus b sl r k) s drives) ∧
    (∀ u d, u.swFired = false → (s.die (physDie s.actor.tile)).l.toNat % 32 = sl → s.tile.sw.listenOf b sl = none → others = [u] → s.tileAt u.phys = some u →
      u.sw.word = some (.route 0 0 0 0 0 1 b sl d) → (d = 0 → u.sw.latch = none) → (1 ≤ d → d ≤ 4 ∧ (u.inQ (d - 1)).length < 4) →
      Answers (.bus b sl r k) s (fun t => drives t ∧
        (d = 0 → (t.tileD u.phys).sw = { nextWord u.sw with latch := some f }) ∧
        (1 ≤ d → (t.tileD u.phys).inQ (d - 1) = u.inQ (d - 1) ++ [f] ∧ (t.tileD u.phys).sw = nextWord u.sw))) ∧
    (((s.die (physDie s.actor.tile)).l.toNat % 32 ≠ sl ∨ ∃ u ∈ others, u.swFired = true) →
      Answers (.bus b sl r k) s (fun t => t.tile.fab = s.tile.fab ∧ t.tile.sw = { s.tile.sw with rem := rem }))

/-- R187 to R190, R195 and R207: THROUGH_LANE_FORWARD moves the head flit of its connection's input onto the outgoing
through lane; EDGE_FLIT_ARRIVE puts the oldest flit of a lane's wire last into its edge buffer, or discards it and raises
EDGEOVR where the buffer holds 64 flits and HOLD is not enabled; HOLD_ARRIVE sets the sender's view of HOLD. -/
def Sys2Proof.Claims.FlitsArrive : Prop :=
  (∀ s p k c q, let src : LinkEnd := { dir := c.inDir, thru := c.inThru }
    (s.tileAt p).isSome = true → (s.tileAt q).isSome = true → q ≠ p → (s.tileD p).fab.conns[k]? = some c → (s.tileD p).fifo src ≠ [] →
    s.netStopped (s.tileD p) = false → neighbour p c.outDir = some q → crossesEdge p c.outDir = false →
    ((s.tileD q).fifo { dir := opposite c.outDir, thru := true }).length < 4 →
    Answers (.throughLaneForward p k) s (fun t => (t.tileD p).fifo src = ((s.tileD p).fifo src).drop 1 ∧
      (t.tileD q).fifo { dir := opposite c.outDir, thru := true } =
        (s.tileD q).fifo { dir := opposite c.outDir, thru := true } ++ ((s.tileD p).fifo src).take 1)) ∧
  (∀ s k x, let e : LinkEnd := { dir := x.dir, thru := x.thru }
    s.edge[k]? = some x → (s.edge.take k).any (fun y => y.tile == x.tile && y.dir == x.dir && y.thru == x.thru) = false →
    (s.tileAt x.tile).isSome = true → x.dir < 4 →
    (((s.tileD x.tile).fifo e).length < 64 → Answers (.edgeFlitArrive k) s (fun t =>
      (t.tileD x.tile).fifo e = (s.tileD x.tile).fifo e ++ [x.flit] ∧ t.edge = s.edge.eraseIdx k)) ∧
    (64 ≤ ((s.tileD x.tile).fifo e).length → s.holdEnAt (s.tileD x.tile) = false → Answers (.edgeFlitArrive k) s (fun t =>
      (t.tileD x.tile).fifo e = (s.tileD x.tile).fifo e ∧ t.edge = s.edge.eraseIdx k ∧
      ∀ g ∈ s.formes, g.id = (s.tileD x.tile).forme → g.fault = none → ∃ h ∈ t.formes, h.id = g.id ∧ ∃ z, h.fault = some z ∧ z.code = cEDGEOVR))) ∧
  (∀ s k m, s.holds[k]? = some m → (s.holds.take k).any (fun y => y.tile == m.tile && y.dir == m.dir && y.thru == m.thru) = false →
    (s.tileAt m.tile).isSome = true → m.dir < 4 → Answers (.holdArrive k) s (fun t => t.holds = s.holds.eraseIdx k ∧
      (t.tileD m.tile).fab.holdSeen.getLsbD (LinkEnd.bit { dir := m.dir, thru := m.thru }) = m.on))

/-- Broadcast buses drive and listen; flits and HOLD cross die edges: BusesDrive and FlitsArrive together. Derived from
spec/06_fabric.md: Broadcast buses; spec/06_fabric.md: Die edges. -/
def Obligations.BusesAndEdges : Prop := BusesDrive ∧ FlitsArrive

/-! ### The home slices, the mapping controllers, migration -/

/-- Byte b of a line. -/
def Sys2Proof.Claims.lineByte (l : Line) (b : Nat) : Byte := l.extractLsb' (8 * b) 8

/-- A vector is signalled to the host: it is sent, or, its entry of the MSI-X table masked, left pending (R380; the table's
layout is the family's, log entry 35). -/
def Sys2Proof.Claims.Signals (s t : State) (v : Nat) : Prop :=
  if (s.msixEnt v).mask then t.host.msix = s.host.msix ∧ (v < 64 → t.host.msixPend.getLsbD v = true)
  else t.host.msix = s.host.msix ++ [v]

/-- R108 and R152: UPDATE_MERGE of a push that nothing of its tile on the line holds back, at a slice that holds the
line: every valid word is combined into the line, the others stay, and the push is gone. One held back stays. One of
another generation of its domain is answered REHOME: its tile takes the record, and it goes to the home that it gives
(the old one under an empty record: log entry 34, the model's choice). -/
def Sys2Proof.Claims.PushesMerge : Prop :=
  ∀ s k p, s.pushes[k]? = some p →
    (mergeHeld s k p = true → exec (.updateMerge k) s = .next s) ∧
    (∀ d g, mergeHeld s k p = false → p.dom = some (d, g) → d = p.upd.dom → d < 16 → domGen (vget s.hashdom d 0) ≠ g → (s.tileAt p.tile).isSome = true →
      let rec_ := vget s.hashdom d 0
      Answers (.updateMerge k) s (fun t => t.l2 = s.l2 ∧ vget (t.tileD p.tile).doms d 0 = rec_ ∧ t.pushes = s.pushes.set k
        { p with upd := { p.upd with home := if domEmpty rec_ then p.upd.home else hashHome rec_ (p.upd.line * 64) }, dom := some (d, domGen rec_) })) ∧
    (∀ l, mergeHeld s k p = false → (∀ d g, p.dom = some (d, g) → domGen (vget s.hashdom d 0) = g) → p.ofu = false → s.ofu = [] → (p.upd.wide = true → p.upd.valid.toNat < 256) →
      s.l2At p.upd.home p.upd.asid p.upd.line = some l → l.fill = .valid →
      Answers (.updateMerge k) s (fun t => t.pushes = s.pushes.eraseIdx k ∧ t.hbm = s.hbm ∧
        ∃ m, t.l2At p.upd.home p.upd.asid p.upd.line = some m ∧
          let n := if p.upd.wide then 8 else 4
          ∀ j < 64 / n, natOfBytes (Line.bytes m.data (n * j) n) =
            if p.upd.valid.getLsbD j then
              updValue p.upd.fn (8 * n) (natOfBytes (Line.bytes l.data (n * j) n)) (p.upd.vals.getD j 0).toNat % 2 ^ (8 * n)
            else natOfBytes (Line.bytes l.data (n * j) n)))

/-- Updates on local store, held in update-only lines, flushed, merged at home, and summed exactly in ordered mode:
UpdatesOnLocalStore, UpdatesAreHeldAndFlushed, OrderedUpdatesSumExactly and PushesMerge together. Derived from
spec/05_ordering.md: Updates: upd; spec/05_ordering.md: Update-only lines. -/
def Obligations.UpdateOperations : Prop := UpdatesOnLocalStore ∧ UpdatesAreHeldAndFlushed ∧ OrderedUpdatesSumExactly ∧ PushesMerge

/-- R107, R108, R112, R113, R114 and R120: STORE_CONFIRM sends an entry once it is the earliest pending one of its context on its
line, no older load of the line is outstanding and nothing that L1D has shown of the line comes before it; it goes to the
home that the tile's record of its domain gives, or that its span names, and at a slice that holds the line, under the
present generation, its masked bytes stand in the line, every other byte as before; the entry is confirmed, and freed by
the next STORE_CONFIRM, and no other. An entry that waits its turn changes nothing. STORE_ENTRY_FAULT: the entry is faulted
with the code of the failure, every later pending entry of its context on the line with it, the L1D copy of the line goes,
and every other entry stays. -/
def Sys2Proof.Claims.BufferedStoresReachTheirLine : Prop :=
  ∀ s p n e, (s.tileAt p).isSome = true → (s.tileD p).sb.find? (fun x => x.idx == n) = some e →
    let rec_ := vget (s.tileD p).doms e.dom 0
    let home := if e.hash = true ∧ domEmpty rec_ = false then hashHome rec_ e.va.toNat else e.home
    (e.st = .pending → s.entryReq p n = none → (firstPending (s.tileD p).sb e && !shownAhead s (s.tileD p) e && !olderLoad s p e) = false →
      exec (.storeConfirm p n) s = .next s) ∧
    (∀ l, e.st = .pending → s.entryReq p n = none → firstPending (s.tileD p).sb e = true → olderLoad s p e = false →
      shownAhead s (s.tileD p) e = false → s.pushes = [] → (∀ r ∈ s.reqs, r.id ≠ s.nextReq) → e.va.toNat % 32 = 0 →
      (e.hash = true → domGen rec_ = domGen (vget s.hashdom e.dom 0)) →
      s.l2At home e.asid (e.va.toNat / 64) = some l → l.fill = .valid →
      Answers (.storeConfirm p n) s (fun t => t.hbm = s.hbm ∧
        (t.tileD p).sb = (s.tileD p).sb.map (fun y => if y.idx = n then { y with home := home, st := .confirmed } else y) ∧
        (t.tileD p).ctxs[e.ctx].touched.getLsbD (clusterOf home) = true ∧
        (∃ r ∈ t.reqs, r.tile = p ∧ r.kind = .store n ∧ r.st = .done 0 false) ∧
        ∃ m, t.l2At home e.asid (e.va.toNat / 64) = some m ∧ ∀ b < 64, lineByte m.data b =
          (if e.va.toNat % 64 ≤ b ∧ b < e.va.toNat % 64 + 32 ∧ e.mask.getLsbD (b - e.va.toNat % 64) = true
            then e.data.extractLsb' (8 * (b - e.va.toNat % 64)) 8 else lineByte l.data b))) ∧
    (e.st = .confirmed → Answers (.storeConfirm p n) s (fun t =>
      (t.tileD p).sb = (s.tileD p).sb.filter (fun y => y.idx != n) ∧ t.l2 = s.l2 ∧
      ∀ r, s.entryReq p n = some r → t.reqs = s.reqs.filter (fun q => q.id != r.id))) ∧
    (∀ r x, e.st = .pending → s.entryReq p n = some r → r.st = .failed x → Answers (.storeEntryFault p n) s (fun t =>
      t.reqs = s.reqs.filter (fun q => q.id != r.id) ∧ l1Find t (t.tileD p) e.asid e.va.toNat = none ∧
      (∀ y ∈ (s.tileD p).sb, y.ctx = e.ctx → y.asid = e.asid → y.va.toNat / 64 = e.va.toNat / 64 → y.st = .pending → 0 ≤ (y.seq - e.seq).toInt →
        { y with st := .faulted x.code, reported := false } ∈ (t.tileD p).sb) ∧
      (∀ y ∈ (s.tileD p).sb, (y.ctx ≠ e.ctx ∨ y.asid ≠ e.asid ∨ y.va.toNat / 64 ≠ e.va.toNat / 64 ∨ y.st ≠ .pending) → y ∈ (t.tileD p).sb) ∧
      (t.tileD p).sb.length = (s.tileD p).sb.length))

/-- R145: RACE_CHECK_REPLY. A store through a CHECKED span whose check has passed issues again and is not checked again; one
whose check found another tile's record raises RACE precisely once its windows have settled. -/
def Sys2Proof.Claims.RaceChecksAnswer : Prop :=
  ∀ s p (c : Fin 4) r, (s.tileAt p).isSome = true → (s.tileD p).ctxs[c].wait = .race r.id → s.reqAt r.id = some r →
    (∀ v x, r.st = .done v x → Answers (.raceCheckReply p c.val) s (fun t => (t.tileD p).ctxs[c].wait = .raceOk ∧
      (t.tileD p).ctxs[c].pc = (s.tileD p).ctxs[c].pc ∧ (t.tileD p).ctxs[c].x = (s.tileD p).ctxs[c].x ∧ t.reqs = s.reqs.filter (fun q => q.id != r.id))) ∧
    (∀ e, r.st = .failed e → e.code = 0x20 → (s.tileD p).ctxs[c].settled = true → exec (.raceCheckReply p c.val) s =
      .next ((((s.as p c).dropReq r.id).onCtx (fun x => { x with wait := .nothing })).takeFault e))

/-- sbdrop, sbreplay, sbstat; confirmation and faults of entries; answers of race checks: StoreBufferInstructions,
BufferedStoresReachTheirLine and RaceChecksAnswer together. Derived from spec/04_memory.md: The late-fault store buffer;
spec/04_memory.md: Store-buffer instructions; spec/05_ordering.md: Race detection. -/
def Obligations.StoreBufferWork : Prop := StoreBufferInstructions ∧ BufferedStoresReachTheirLine ∧ RaceChecksAnswer

/-- R108, R109, R329 and R331: WALK finds the line of a page that a NORMAL leaf maps, in the frame, the host memory or the other
package that the leaf names, and fails the waiter of a line without a leaf with PAGEF and drops the line; L2_FILL takes the
64 bytes at the place found, keeps the line where its page is cached and answers a waiting load with its bytes;
RETRY_REISSUE sends a request that was answered RETRY again; REHOME_REPLY installs the record that the reply carries and
sends the request to the home that it computes (to its old one under an empty record; the model's choice, log entry 34). -/
def Sys2Proof.Claims.LinesAreFoundAndFilled : Prop :=
  (∀ s k l f, s.l2[k]? = some l → l.fill = .walking → (s.ctl (colour (l.line * 64))).roots.contains l.asid = true →
    (s.ctl (colour (l.line * 64))).leaf l.asid (l.line * 64) = some f → leafST f.entry = 0 → leafKIND f.entry < 3 → f.used = true →
    (s.ctl (colour (l.line * 64))).migs = [] →
    let pa := leafPN f.entry * 4096 + (l.line * 64 - f.va)
    Answers (.walk k) s (fun t => t.l2At l.slice l.asid l.line =
      some { l with
        fill := .found (if leafKIND f.entry = 0 then .hbm pa else if leafKIND f.entry = 1 then .host pa else .remote (leafPKG f.entry) pa)
          (leafUC f.entry) } ∧ t.hbm = s.hbm)) ∧
  (∀ s k l r, s.l2[k]? = some l → l.fill = .walking → (s.ctl (colour (l.line * 64))).leaf l.asid (l.line * 64) = none →
    waitersOf s l.slice l.asid l.line = [r] →
    Answers (.walk k) s (fun t => t.l2At l.slice l.asid l.line = none ∧
      ∃ q ∈ t.reqs, q.id = r.id ∧ ∃ e, q.st = .failed e ∧ e.code = cPAGEF ∧ e.tval = r.va)) ∧
  (∀ s k l pa, s.l2[k]? = some l → l.fill = .found (.hbm pa) false → pa % 64 = 0 → Answers (.l2Fill k) s (fun t => t.hbm = s.hbm ∧
    (waitersOf s l.slice l.asid l.line = [] → ∃ m, t.l2At l.slice l.asid l.line = some m ∧ m.fill = .valid ∧ m.dirty = l.dirty ∧
      Line.bytes m.data 0 64 = Memory.read s.hbm pa 64) ∧
    (∀ r w, waitersOf s l.slice l.asid l.line = [r] → r.kind = .load w → r.chk = false → r.va.toNat % 64 + r.size ≤ 64 → r.size ≤ 8 →
      forwards (s.tileD r.tile) r = [] → shownOn s (s.tileD r.tile) r.asid r.line = [] → s.ofu = [] → TaintSet.has s.hbmPoison (Loc.hbm pa).key = false →
      ∃ q ∈ t.reqs, q.id = r.id ∧ ∃ x, q.st = .done (wordOf (Memory.read s.hbm (pa + r.va.toNat % 64) r.size)) x))) ∧
  (∀ s k l pa, s.l2[k]? = some l → l.fill = .found (.hbm pa) true → l.dirty = false → waitersOf s l.slice l.asid l.line = [] →
    Answers (.l2Fill k) s (fun t => t.l2At l.slice l.asid l.line = none ∧ t.hbm = s.hbm)) ∧
  (∀ s k r, s.reqs[k]? = some r → r.st = .retry → Answers (.retryReissue k) s (fun t => t.reqs[k]? = some { r with st := .sent } ∧
    t.l2 = s.l2 ∧ t.tiles = s.tiles)) ∧
  (∀ s k r rec, s.reqs[k]? = some r → r.st = .rehome rec → r.domIdx < 16 → (s.tileAt r.tile).isSome = true →
    Answers (.rehomeReply k) s (fun t => vget (t.tileD r.tile).doms r.domIdx 0 = rec ∧
      t.reqs[k]? = some { r with st := .sent, home := (if domEmpty rec then r.home else hashHome rec r.va.toNat), dom := some (r.domIdx, domGen rec) }))

/-- R108: HASHDOM_WRITE, of a context that waits for its write and with no other write under way: the package's record and
every tile's copy take the value written with GEN one higher, modulo 16. HASHDOM_WRITE_COMPLETE: once no request of the
old generation is unanswered and no push of it is to be merged, the write is over and the context passes on. -/
def Sys2Proof.Claims.DomainRecordsChange : Prop :=
  (∀ s d v p c, d < 16 → s.domWrites = [] → s.domWaiter (fun e w => e == d && w == v) = some (p, c) →
    let rec_ := Word.setField v 60 4 (domGen (vget s.hashdom d 0) + 1)
    Answers (.hashdomWrite d v) s (fun t => vget t.hashdom d 0 = rec_ ∧ (∀ e, e ≠ d → vget t.hashdom e 0 = vget s.hashdom e 0) ∧
      t.domWrites = [(d, domGen (vget s.hashdom d 0))] ∧ ∀ u ∈ t.tiles, vget u.doms d 0 = rec_)) ∧
  (∀ s d v w p c, s.domWrites.find? (fun x => x.1 == d) = some w → s.reqs.any (fun r => r.dom == some w && !r.isDone) = false →
    s.pushes.any (fun q => q.dom == some w) = false → s.domWaiter (fun e _ => e == d) = some (p, c) → (s.tileAt p).isSome = true → (s.as p c).ctx.wait = .hashdom d v →
    Answers (.hashdomWriteComplete d) s (fun t => t.domWrites = s.domWrites.filter (fun x => x != w) ∧
      (t.as p c).ctx.wait = .nothing ∧ (t.as p c).ctx.pc = (s.as p c).ctx.fallThrough.pc)) ∧
  (∀ s d w, s.domWrites.find? (fun x => x.1 == d) = some w →
    (s.reqs.any (fun r => r.dom == some w && !r.isDone) = true ∨ s.pushes.any (fun q => q.dom == some w) = true) →
    exec (.hashdomWriteComplete d) s = .next s)

/-- Walks, fills, RETRY and REHOME; writes of domain records: LinesAreFoundAndFilled and DomainRecordsChange together.
Derived from spec/04_memory.md: Interleave domains; spec/04_memory.md: Misses; spec/11_engines.md: Walks;
spec/11_engines.md: Host, remote and uncached pages. -/
def Obligations.LinesAndDomains : Prop := LinesAreFoundAndFilled ∧ DomainRecordsChange

/-- The oldest command on its way to the controllers is m, of command code `code`; its context waits for it. -/
def Sys2Proof.Claims.MapOldest (s : State) (m : MapCmd) (code : Nat) : Prop :=
  s.mapq.head? = some m ∧ xmCmd (vget m.xmc 0 0) = code ∧ (s.as m.tile m.ctx).ctx.wait = .mapping

/-- The command m is done: its context passes on with the status code in XMST and XMC2 as given. -/
def Sys2Proof.Claims.MapEnded (s t : State) (m : MapCmd) (status : Nat) (x2 : Word) : Prop :=
  t.mapq = s.mapq.drop 1 ∧ (t.as m.tile m.ctx).ctx.xmst = BitVec.ofNat 64 (2 ^ 63 + status) ∧ vget (t.as m.tile m.ctx).ctx.xmc 2 0 = x2 ∧
  (t.as m.tile m.ctx).ctx.wait = .nothing ∧ (t.as m.tile m.ctx).ctx.pc = (s.as m.tile m.ctx).ctx.fallThrough.pc

/-- R323 to R328, R335, R336, Tables 11-4 to 11-6: each mapping command is applied when it is the oldest on its way, and its
context then passes on with the status in XMST. ASIDON and ASIDOFF give and take an ASID's root at every controller; MAP
and MAPREQ write a leaf at every controller that the page concerns; UNMAP takes the leaf of the page away; MIGRATE claims the
new frame and makes the page MIGRATING; QUERY returns the leaf entry in XMC2, 0 where there is none; PRESP frees the
request's slot. Each refuses with its code: an ASID without a root NOASID, a form Table 11-5 does not allow FORM, a page
that overlaps a leaf EXISTS, an absent page ABSENT, a page in migration BUSY, a command for whose tables a controller's
region has no room NOSPACE, with nothing written (that nothing is, and how much a table takes, is the model's choice, log
entry 21). That a MAP or MAPREQ of a form that is not allowed ends FORM where there is no root either, and that XMC2 holds the
frame's address, so that its number is XMC2 / 4096, are the model's reading too (log entry 21). -/
def Sys2Proof.Claims.MappingCommandsApply : Prop :=
  ∀ (s : State) (m : MapCmd),
    let asid := xmASID (vget m.xmc 0 0)
    let va := (vget m.xmc 1 0).toNat
    let pa := (vget m.xmc 2 0).toNat
    let sz := xmSZ (vget m.xmc 0 0)
    let kind := xmKIND (vget m.xmc 0 0)
    let rooted := (s.ctl 0).roots.contains asid
    let room (c n : Nat) : Prop := (s.ctl c).tableBytes + n ≤ (s.ctl c).region
    let ends (i : Instr) (st : Nat) (P : State → Prop) := Answers i s (fun t => MapEnded s t m st (vget m.xmc 2 0) ∧ P t)
    (MapOldest s m 1 → (rooted = false → (∃ c, c < 12 ∧ ¬ room c (2 ^ 21)) → ends .asidon 6 (fun t => t.ctls = s.ctls)) ∧
      (rooted = false → (∀ c < 12, room c (2 ^ 21)) → ends .asidon 0 (fun t => ∀ c < 12, asid ∈ (t.ctl c).roots)) ∧
      (rooted = true → ends .asidon 3 (fun t => t.ctls = s.ctls))) ∧
    (MapOldest s m 2 → (rooted = false → ends .asidoff 3 (fun t => t.ctls = s.ctls)) ∧
      (rooted = true → (∃ c, c < 12 ∧ ∃ l ∈ (s.ctl c).leaves, l.asid = asid) → ends .asidoff 4 (fun t => t.ctls = s.ctls)) ∧
      (rooted = true → (∀ c < 12, ∀ l ∈ (s.ctl c).leaves, l.asid ≠ asid) → ends .asidoff 0 (fun t => ∀ c < 12, asid ∉ (t.ctl c).roots))) ∧
    (∀ i isMap, (i, isMap) ∈ ([(.map, true), (.mapreq, false)] : List (Instr × Bool)) → MapOldest s m (if isMap then 3 else 4) →
      ((va % pageBytes sz ≠ 0 ∨ 2 ^ 57 ≤ va ∨ (isMap = true ∧ (kind = 3 ∨ pa % pageBytes sz ≠ 0 ∨ 2 ^ 52 ≤ pa))) → ends i 1 (fun t => t.ctls = s.ctls)) ∧
      (va % pageBytes sz = 0 → va < 2 ^ 57 → (isMap = true → kind ≠ 3 ∧ pa % pageBytes sz = 0 ∧ pa < 2 ^ 52) →
        (rooted = false → ends i 3 (fun t => t.ctls = s.ctls)) ∧
        (rooted = true → s.overlapsLeaf asid va sz isMap = true → ends i 4 (fun t => t.ctls = s.ctls)) ∧
        (rooted = true → s.overlapsLeaf asid va sz isMap = false → s.roomFor asid va sz = false → ends i 6 (fun t => t.ctls = s.ctls)) ∧
        (rooted = true → s.overlapsLeaf asid va sz isMap = false → s.roomFor asid va sz = true → ends i 0 (fun t =>
          ∀ c < 12, (sz ≠ 0 ∨ c = colour va) → ∃ l ∈ (t.ctl c).leaves, l.asid = asid ∧ l.va = va ∧ leafSZ l.entry = sz ∧
            leafST l.entry = (if isMap then 0 else 1) ∧
            (isMap = true → leafKIND l.entry = kind ∧ leafUC l.entry = xmUC (vget m.xmc 0 0) ∧ leafPN l.entry = pa / 4096 ∧ leafPKG l.entry = xmPKG (vget m.xmc 0 0)))))) ∧
    (MapOldest s m 5 → (rooted = false → ends .unmap 3 (fun t => t.ctls = s.ctls)) ∧
      (rooted = true → s.leafAt asid va = none → ends .unmap 5 (fun t => t.ctls = s.ctls)) ∧
      (∀ l, rooted = true → s.leafAt asid va = some l →
        (leafST l.entry = 3 → ends .unmap 2 (fun t => t.ctls = s.ctls)) ∧
        (leafST l.entry ≠ 3 → ends .unmap 0 (fun t => ∀ c < 12, (leafSZ l.entry ≠ 0 ∨ c = colour l.va) →
          ∀ y ∈ (t.ctl c).leaves, ¬ (y.asid = asid ∧ y.va = l.va))))) ∧
    (∀ l, MapOldest s m 6 → rooted = true → s.leafAt asid va = some l → colour l.va = colour va →
      (leafST l.entry = 3 → ends .migrate 2 (fun t => t.ctls = s.ctls)) ∧
      (leafST l.entry = 0 → leafKIND l.entry = 0 → leafSZ l.entry = 0 → (s.ctl (colour va)).migs.length < 4 → pa % 4096 = 0 → colour pa = colour va →
        frameExists (pa / 4096) = true → (∀ f ∈ (s.ctl (colour va)).frames, ¬ (f.1 ≤ pa / 4096 ∧ pa / 4096 < f.1 + f.2.1)) →
        ends .migrate 0 (fun t =>
          (t.ctl (colour va)).migs = (s.ctl (colour va)).migs ++ [{ asid, va := l.va, old := leafPN l.entry, new := pa / 4096, next := 0 }] ∧
          ∃ y ∈ (t.ctl (colour va)).leaves, y.asid = l.asid ∧ y.va = l.va ∧ leafST y.entry = 3 ∧ leafPN y.entry = leafPN l.entry))) ∧
    (MapOldest s m 7 → (rooted = false → ends .query 3 (fun t => t.ctls = s.ctls)) ∧
      (rooted = true → Answers .query s (fun t => MapEnded s t m 0 (((s.leafAt asid va).map Leaf.entry).getD 0) ∧ t.ctls = s.ctls))) ∧
    (MapOldest s m 8 → (1 < xmRSP (vget m.xmc 0 0) → ends .presp 1 (fun t => t.ctls = s.ctls)) ∧
      (xmRSP (vget m.xmc 0 0) ≤ 1 → (∀ y ∈ (s.ctl (va / 64)).slots, y.slot ≠ va % 64) → ends .presp 5 (fun t => t.ctls = s.ctls)) ∧
      (∀ y, xmRSP (vget m.xmc 0 0) ≤ 1 → (s.ctl (va / 64)).slots.find? (fun z => z.slot == va % 64) = some y → y.waiters = [] →
        ends .presp 0 (fun t => ∀ z ∈ (t.ctl (va / 64)).slots, z.slot ≠ va % 64)))

/-- R335, Table 11-6: the answer to a page request deposits its word in mb3 of a context that waits for it: bit 63, the
request's ID, and 0x82 where the page is still not there. -/
def Sys2Proof.Claims.PageAnswersAreDeposited : Prop :=
  ∀ s m y u (c : Fin 4), MapOldest s m 8 → xmRSP (vget m.xmc 0 0) ≤ 1 →
    let id := (vget m.xmc 1 0).toNat
    (s.ctl (id / 64)).slots.find? (fun z => z.slot == id % 64) = some y → y.waiters = [(u.phys, c.val, u.ctxs[c].gen.toNat)] →
    s.tileAt u.phys = some u → s.savedCtx u = false → s.leafAt y.asid y.va = none →
    Answers .presp s (fun t => vget (t.as u.phys c).ctx.mb 3 0 = BitVec.ofNat 64 (2 ^ 63 + 0x82 * 2 ^ 48 + id * 2 ^ 32) ∧
      (t.as u.phys c).ctx.mbstat.getLsbD 3 = true)

/-- The mapping commands, their status codes, and the answers to page requests: MappingCommandsApply and
PageAnswersAreDeposited together. Derived from spec/11_engines.md: Mapping commands; spec/11_engines.md: Page tables;
spec/11_engines.md: Page requests. -/
def Obligations.MappingCommands : Prop := MappingCommandsApply ∧ PageAnswersAreDeposited

/-- R336, R337 and R388: MIGRATION_COPY_LINE copies the next 64 bytes of a page of 4 KiB to the new frame, with no other byte of device
memory changed (no fill of that line is under way: one that is ends first, log entry 34); after the last the page is NORMAL in the new frame; an error that cannot be corrected leaves it BROKEN.
PAGE_REQUEST_RECORD_WRITE writes the record of an open request at the tail of its ring, raises the tail and signals the
ring's vector; of a full ring nothing is written. Device and host memory are in canonical form. -/
def Obligations.PagesMoveAndAreAskedFor : Prop :=
  (∀ s c k m l, Memory.wf s.hbm = true → (s.ctl c).migs[k]? = some m → (s.ctl c).leaf m.asid m.va = some l → colour m.va = c →
    l.va = m.va → leafSZ l.entry = 0 → (∀ x ∈ s.l2, x.asid = m.asid → x.line = m.va / 64 + m.next → ∀ loc uc, x.fill ≠ .found loc uc) →
    let copied (t : State) := Memory.read t.hbm (m.new * 4096 + 64 * m.next) 64 = Memory.read s.hbm (m.old * 4096 + 64 * m.next) 64 ∧
      ∀ a, a < m.new * 4096 + 64 * m.next ∨ m.new * 4096 + 64 * m.next + 64 ≤ a → Memory.get t.hbm a = Memory.get s.hbm a
    (m.next < 63 → Answers (.migrationCopyLine c k false) s (fun t => copied t ∧ (t.ctl c).migs[k]? = some { m with next := m.next + 1 } ∧
      (t.ctl c).leaf m.asid m.va = some l)) ∧
    (m.next = 63 → Answers (.migrationCopyLine c k false) s (fun t => copied t ∧ (t.ctl c).migs = (s.ctl c).migs.eraseIdx k ∧
      ∃ y, (t.ctl c).leaf m.asid m.va = some y ∧ leafST y.entry = 0 ∧ leafPN y.entry = m.new % 2 ^ 40)) ∧
    Answers (.migrationCopyLine c k true) s (fun t => t.hbm = s.hbm ∧ (t.ctl c).migs = (s.ctl c).migs.eraseIdx k ∧
      ∃ y, (t.ctl c).leaf m.asid m.va = some y ∧ leafST y.entry = 4)) ∧
  (∀ s c n x, Memory.wf s.hostMem = true → c < 12 → (s.ctl c).slots.find? (fun y => y.slot == n) = some x → x.recorded = false →
    (s.host.pr.room = false → exec (.pageRequestRecordWrite c n) s = .next s) ∧
    (s.host.pr.room = true → Answers (.pageRequestRecordWrite c n) s (fun t =>
      let a := s.host.pr.base.toNat + 32 * (s.host.pr.tail.toNat % 2 ^ s.host.pr.log2n)
      Memory.read t.hostMem a 8 = bytesOfNat 8 (x.asid % 2 ^ 16 * 2 ^ 48 + x.access % 4 * 2 ^ 46 + x.size % 4 * 2 ^ 44 + 64 * c + n) ∧
      Memory.read t.hostMem (a + 8) 8 = bytesOfNat 8 x.va ∧ t.host.pr.tail = s.host.pr.tail + 1 ∧ Signals s t s.host.pr.vec ∧
      ∀ y ∈ (t.ctl c).slots, y.slot = n → y.recorded = true)))

/-! ### Supersteps -/

/-- R26, R27, R233, R237 and R240: FIRST_BARRIER_COMPLETE. Where every tile of a forme in its compute phase meets its condition and no
ordered add of the forme is on its way or pending in an exact sum, the exchange phase begins: every tile holds the earliest arrival of all in IMBA, the
exchange engine of a tile whose cell is valid stands at its first entry, and of any other tile nowhere. Else nothing
changes. -/
def Sys2Proof.Claims.ExchangesBegin : Prop :=
  ∀ s fid f, s.formeAt fid = some f →
    ((f.phase ≠ .compute ∨ (∃ u ∈ s.tilesOf fid, Tile.firstCond u = false) ∨ s.ofuArrived fid = false) → exec (.firstBarrierComplete fid) s = .next s) ∧
    (f.phase = .compute → (∀ u ∈ s.tilesOf fid, Tile.firstCond u = true) → s.ofuArrived fid = true → (∀ o ∈ s.ofu, fid ∉ o.formes) →
      Answers (.firstBarrierComplete fid) s (fun t =>
        (t.formeAt fid).map Forme.phase = some .exchange ∧ (t.formeAt fid).map Forme.k = some f.k ∧ (t.formeAt fid).map Forme.wdog = some 0 ∧
        ∀ (k : Nat) (u : Tile), s.tiles[k]? = some u → u.forme = fid → ∃ v : Tile, t.tiles[k]? = some v ∧
          (∀ w ∈ s.tilesOf fid, v.imba.toNat ≤ (w.arrival.getD (s.die (physDie w.phys)).p).toNat) ∧
          (s.tilesOf fid ≠ [] → ∃ w ∈ s.tilesOf fid, v.imba = w.arrival.getD (s.die (physDie w.phys)).p) ∧
          v.xch.list = u.xch.list ∧
          (f.v.getLsbD u.stage = true → v.xch.pos = (if u.xch.list = [] then none else some 0) ∧ v.xch.walks = u.xch.walks + 1) ∧
          (f.v.getLsbD u.stage = false → v.xch = u.xch)))

/-- R236, R237 and R145: EXCHANGE_ENTRY_SEND, an entry within one 64-byte stretch of the receiver's window: a packet with the entry's
bytes of the sender's store sets out to the entry's tile, and the engine stands at the next entry. The engine may have read words of the
entry before (`seen`): of such a word it sends what it read then, of every other byte what stands there now. EXCHANGE_WRITE_LAND, in
its order: the bytes stand in the receiver's shadow bank and its active bank is as before; a word that another tile has
written in the same superstep refuses the whole write, and its sender is told of RACE. -/
def Sys2Proof.Claims.ExchangeWritesLand : Prop :=
  (∀ s p n e, (s.tileAt p).isSome = true → (s.tileD p).xch.pos = some n → (s.tileD p).xch.list[n]? = some e →
    (s.formeOf (s.tileD p)).phaseNow = .exchange → (s.tileD p).poisoned e.src e.len = false → 0 < e.len → e.dst % 64 + e.len ≤ 64 →
    Answers (.exchangeEntrySend p) s (fun t => (t.tileD p).unacked = (s.tileD p).unacked + 1 ∧
      (t.tileD p).xch.pos = (if n + 1 < (s.tileD p).xch.list.length then some (n + 1) else none) ∧
      ∃ k, t.net = s.net ++ [k] ∧ k.src = p ∧ k.srcLog = (s.tileD p).logical ∧
        (∀ u, s.logicalTile (s.tileD p).forme e.tile = some u → k.dst = u.phys) ∧
        ∃ num, k.kind = .xchg e.dst (((s.tileD p).withSeen (s.tileD p).xch.seen).readLocal e.src e.len) num n)) ∧
  (∀ (t : Tile) (seen : List (Nat × List Byte × Bool)), TileCanonical t → (∀ x ∈ seen, x.1 % 4 = 0 ∧ x.1 + 4 ≤ 0x80000 ∧ x.2.1.length = 4) →
    (seen.map (fun x => x.1)).Nodup →
    ∀ a < 0x80000, ((∀ x ∈ seen, a < x.1 ∨ x.1 + 4 ≤ a) → (t.withSeen seen).readLocal a 1 = t.readLocal a 1) ∧
      ∀ x ∈ seen, x.1 ≤ a → a < x.1 + 4 → (t.withSeen seen).readLocal a 1 = (x.2.1.drop (a - x.1)).take 1) ∧
  (∀ s p n e, (s.tileD p).xch.pos = some n → (s.tileD p).xch.list[n]? = some e → (s.formeOf (s.tileD p)).phaseNow ≠ .exchange →
    exec (.exchangeEntrySend p) s = .next s) ∧
  (∀ s k x off bs num entry, s.net[k]? = some x → x.kind = .xchg off bs num entry → s.inOrder k x = true → (s.tileAt x.dst).isSome = true →
    TileCanonical (s.tileD x.dst) → bs ≠ [] →
    ((s.tileD x.dst).shadowRace off bs.length x.srcLog (s.phaseOf x.dst) = none → Answers (.exchangeWriteLand k) s (fun t =>
      t.net = s.net.eraseIdx k ∧ t.acks.length = s.acks.length + 1 ∧ Memory.read (t.tileD x.dst).shadowBank off bs.length = bs ∧
      (∀ a, a < off ∨ off + bs.length ≤ a → Memory.get (t.tileD x.dst).shadowBank a = Memory.get (s.tileD x.dst).shadowBank a) ∧
      (t.tileD x.dst).main = (s.tileD x.dst).main ∧ (t.tileD x.dst).activeBank = (s.tileD x.dst).activeBank ∧ t.hbm = s.hbm)) ∧
    (∀ o, (s.tileD x.dst).shadowRace off bs.length x.srcLog (s.phaseOf x.dst) = some o → Answers (.exchangeWriteLand k) s (fun t =>
      t.net = s.net.eraseIdx k ∧ t.tiles = s.tiles ∧ ∃ a f, t.acks = s.acks ++ [a] ∧ a.dst = x.src ∧ a.fault = some f ∧ f.code = cRACE ∧
        f.info0 = BitVec.ofNat 64 o ∧ f.info1 = BitVec.ofNat 64 entry)))

/-- The first barrier begins the exchange; its entries are sent and land: ExchangesBegin and ExchangeWritesLand together.
Derived from spec/07_supersteps.md: Barriers and the bank swap; spec/07_supersteps.md: The imbalance record. -/
def Obligations.Exchanges : Prop := ExchangesBegin ∧ ExchangeWritesLand

/-- R26, R135, R238: SECOND_BARRIER_COMPLETE makes every tile of a forme whose exchange has ended swap its banks; BANK_SWAP exchanges the
banks of a tile, whose L1D keeps no copy from before the barrier, nor its fused cluster's, and with the last of them the superstep number rises by one and the validity word shifts, its new bit set
while the number is below B; after superstep B + S − 1, the forme is ended instead: its tiles stay until its queues have run
dry and its LAUNCH completes (LaunchedFormesEnd; the model's choice, log entry 24), and a stop that was asked for in time halts
the forme at the boundary, its next superstep to come. Where the condition of a barrier is not met, nothing changes. -/
def Obligations.BanksSwap : Prop :=
  (∀ s fid f, s.formeAt fid = some f →
    ((f.phase ≠ .exchange ∨ ∃ u ∈ s.tilesOf fid, u.secondCond = false) → exec (.secondBarrierComplete fid) s = .next s) ∧
    (f.phase = .exchange → (∀ u ∈ s.tilesOf fid, u.secondCond = true ∧ u.xch.faults = []) → Answers (.secondBarrierComplete fid) s (fun t =>
      (t.formeAt fid).map Forme.phase = some .swapping ∧ (t.formeAt fid).map Forme.k = some f.k ∧
      ∀ u ∈ t.tiles, u.forme = fid → u.swapDue = true))) ∧
  (∀ s p u f, s.tileAt p = some u → s.formeAt u.forme = some f →
    ((f.phase ≠ .swapping ∨ u.swapDue = false) → exec (.bankSwap p) s = .next s) ∧
    (f.phase = .swapping → u.swapDue = true → (∃ v ∈ s.tiles, v.forme = f.id ∧ v.phys ≠ p ∧ v.swapDue = true) →
      Answers (.bankSwap p) s (fun t => (t.tileD p).activeA = !u.activeA ∧ (t.tileD p).swapDue = false ∧ (t.tileD p).bankA = u.bankA ∧
        (t.tileD p).bankB = u.bankB ∧ (t.tileD p).main = u.main ∧ (t.tileD p).shadow = [] ∧ (t.tileD p).synced = 0 ∧
        (s.fusedTile u = false → (t.tileD p).l1d = []) ∧ (s.fusedTile u = true → ∀ v ∈ t.tiles, clusterOf v.phys = clusterOf p → v.l1d = []) ∧
        (t.formeAt f.id).map Forme.k = some f.k ∧ (t.formeAt f.id).map Forme.phase = some .swapping ∧
        ∀ q, q ≠ p → (t.tileD q).activeA = (s.tileD q).activeA)) ∧
    (f.phase = .swapping → u.swapDue = true → (∀ v ∈ s.tiles, v.forme = f.id → v.phys ≠ p → v.swapDue = false) → f.stopDue = false →
      (f.k + 1 < f.supersteps → Answers (.bankSwap p) s (fun t => (t.tileD p).activeA = !u.activeA ∧
        ∃ g, t.formeAt f.id = some g ∧ g.k = f.k + 1 ∧ g.phase = .compute ∧ g.v.getLsbD 0 = decide (f.k + 1 < f.b) ∧
          ∀ j, j < 63 → g.v.getLsbD (j + 1) = f.v.getLsbD j)) ∧
      (f.supersteps ≤ f.k + 1 → Answers (.bankSwap p) s (fun t => (t.tileD p).activeA = !u.activeA ∧ (t.tileD p).bankA = u.bankA ∧
        (t.tileD p).bankB = u.bankB ∧ ∃ g, t.formeAt f.id = some g ∧ g.k = f.k + 1 ∧ g.phase = .ended))) ∧
    (f.phase = .swapping → u.swapDue = true → (∀ v ∈ s.tiles, v.forme = f.id → v.phys ≠ p → v.swapDue = false) → f.stopDue = true →
      Answers (.bankSwap p) s (fun t => (t.tileD p).activeA = !u.activeA ∧ ∃ g, t.formeAt f.id = some g ∧ g.k = f.k + 1 ∧ g.phase = .halted ∧
        g.stopping = true ∧ g.saved = false ∧ g.resumeTo = (if f.supersteps ≤ f.k + 1 then .ended else .compute))))

/-- R239: GROUP_BARRIER_COMPLETE. Once every context of GSMASK of every tile of the block waits in gsync, each of them passes on; before
that, and where no context of the block waits, nothing changes. -/
def Sys2Proof.Claims.GroupBarriersRelease : Prop :=
  ∀ s fid b f, s.formeAt fid = some f → f.phase.runs = true →
    ((∃ u ∈ s.tiles, u.forme = fid ∧ u.block = some b ∧ u.gsMask &&& ~~~u.gsynced ≠ 0) → exec (.groupBarrierComplete fid b) s = .next s) ∧
    ((∀ u ∈ s.tiles, u.forme = fid → u.block = some b → u.gsynced = 0) → exec (.groupBarrierComplete fid b) s = .next s) ∧
    (∀ p u (c : Fin 4), (∀ v ∈ s.tiles, v.forme = fid → v.block = some b → v.gsMask &&& ~~~v.gsynced = 0) →
      (∃ v ∈ s.tiles, v.forme = fid ∧ v.block = some b ∧ v.gsynced ≠ 0) → s.tileAt p = some u → u.forme = fid →
      u.block = some b → u.ctxs[c].wait = .gsync → Answers (.groupBarrierComplete fid b) s (fun t => (t.tileD p).ctxs[c].wait = .nothing ∧
        (t.tileD p).ctxs[c].pc = u.ctxs[c].fallThrough.pc ∧ (t.tileD p).gsynced = 0 ∧ t.actor = s.actor ∧ ∀ g, t.formeAt fid = some g → g.wdog = 0))

/-- sync and gsync join their barriers; a complete group barrier releases its contexts: BarriersAreJoined and
GroupBarriersRelease together. Derived from spec/06_fabric.md: The TICK major; spec/07_supersteps.md: Barriers and the
bank swap. -/
def Obligations.BarriersOfContexts : Prop := BarriersAreJoined ∧ GroupBarriersRelease

/-! ### Floating-point exceptions, watchdog, saving -/

/-- R372 to R374: FPX_COLLECTION. Once the window has ended on every die of the forme and the context that raised in it, one alone, has
settled, every tile of the forme names it in FPXPC with no other tile in FPXPEND, and FPX goes to the context's trap
handler, kind after; before that nothing changes. -/
def Sys2Proof.Claims.FloatExceptionsAreCollected : Prop :=
  ∀ s fid w u (c : Fin 4) x, s.fpxOf fid w = [(u, c, x)] → s.tileAt u.phys = some u → u.forme = fid →
    ((∃ v ∈ s.tilesOf fid, (s.die (physDie v.phys)).p.toNat / 64 ≤ w.toNat) → exec (.fpxCollection fid w) s = .next s) ∧
    ((∀ v ∈ s.tilesOf fid, w.toNat < (s.die (physDie v.phys)).p.toNat / 64) → u.ctxs[c].wins = [] → u.ctxs[c].route cFPX = .trap →
      frameOk (s.as u.phys c).forme u.ctxs[c].tfp = true → TileCanonical u →
      Answers (.fpxCollection fid w) s (fun t => (∀ v ∈ t.tiles, v.forme = fid → v.fpxpc = x.pc ∧ ∀ j, vget v.fpxpend j 0 = 0) ∧
        (t.tileD u.phys).ctxs[c].fpx = none ∧ (t.tileD u.phys).ctxs[c].pc = u.ctxs[c].tvec ∧ (t.tileD u.phys).ctxs[c].stat stPM = true ∧
        Word.field ((t.tileD u.phys).localWord (u.ctxs[c].tfp.toNat % 2 ^ 32 + 16)) 45 3 = 2 ∧ t.actor = s.actor))

/-- The watchdog period in ticks: the milliseconds that MODES gives, 10 for 0, at 1.6 million ticks each. -/
def Sys2Proof.Claims.wdogPeriod (f : Forme) : Nat :=
  (if Word.field f.img.modes 32 16 = 0 then 10 else Word.field f.img.modes 32 16) * 1600000

/-- R367, R368, R369 and R370: WDOG halts a running forme whose period has passed without progress, with WDOG as its fault, and the
host may resume it; before that nothing changes. CONTEXT_SAVE of a halted forme waits while a window, an access of its own
completion or a buffered store of a context is outstanding; once the records stand in memory the forme is saved, and its faulted entries are
freed. -/
def Sys2Proof.Claims.FormesHaltAndAreSaved : Prop :=
  (∀ s fid f, s.formeAt fid = some f → f.phase.runs = true →
    (f.wdog < wdogPeriod f → exec (.wdog fid) s = .next s) ∧
    (wdogPeriod f ≤ f.wdog → f.fault = none → Answers (.wdog fid) s (fun t =>
      ∃ g, t.formeAt fid = some g ∧ g.phase = .halted ∧ g.resumeTo = f.phase ∧ g.resumable = true ∧ g.reported = false ∧
        (∃ e, g.fault = some e ∧ e.code = 0x90 ∧ e.kind = kForme ∧ e.step = BitVec.ofNat 64 f.k) ∧ t.tiles = s.tiles))) ∧
  (∀ s fid f, s.formeAt fid = some f → f.phase.runs = true → exec (.contextSave fid) s = .next s) ∧
  (∀ s fid f, s.formeAt fid = some f → f.phase = .halted → f.saved = false → f.saveFailed = false →
    ((∃ u ∈ s.tiles, u.forme = f.id ∧ ∃ c : Fin 4, u.ctxs[c].settled = false ∨ (∃ e ∈ u.sb, e.ctx = c ∧ e.st = .pending)) →
      exec (.contextSave fid) s = .next s) ∧
    (∀ s1, s1 = (s.ctxsOf fid).foldl (fun s x => s.abandon x.1.phys x.2) s →
      s.canSave f = true → f.stopping = false → f.fault = none → (writeRecords f (s1.ctxsOf fid) s1).1 = .ok () →
      Answers (.contextSave fid) s (fun t => (∃ g, t.formeAt fid = some g ∧ g.saved = true ∧ g.phase = .halted ∧ g.resumeTo = f.resumeTo) ∧
        ∀ u ∈ t.tiles, u.forme = fid → ∀ e ∈ u.sb, e.isFaulted = false)))

/-- FPX is collected; the watchdog halts a forme; a halted forme is saved: FloatExceptionsAreCollected and
FormesHaltAndAreSaved together. Derived from spec/12_system.md: Floating-point exception collection; spec/12_system.md:
Pre-emption. -/
def Obligations.FormesHaltAndReport : Prop := FloatExceptionsAreCollected ∧ FormesHaltAndAreSaved

/-! ### Ticks -/

/-- R192 and R193: both counts start at 0; LOCAL_TICK raises L by 1, makes the estimate of a neighbour P_e + 24 where an update
with P_e has arrived for this tick, and else raises it by 1, and then raises P by 1 where it lies below L and every
estimate. TICK_UPDATE_SEND, every 64 ticks, sends L and P to every neighbouring die; TICK_UPDATE_ARRIVE, 24 ticks of the
sender later, brings the update to the receiver's next tick. Before package reset is released a die does not tick; that it
ticks only once its own updates are sent and have arrived is the model's order of these moves (log entry 3). -/
def Sys2Proof.Claims.TimeAdvances : Prop :=
  (∀ d < 4, (State.reset.die d).p = 0 ∧ (State.reset.die d).l = 0) ∧
  (∀ s d, d < 4 →
    ((s.released = false ∨ s.sendDue d = true) → exec (.localTick d) s = .next s) ∧
    (s.released = true → s.sendDue d = false → (∀ u ∈ s.ticks, u.src = d → (s.die d).l.toNat < u.l.toNat + 24) →
      let est := (s.die d).est.map (fun e => (e.1, match (s.die d).updates.find? (fun u => u.1 == e.1) with
        | some u => u.2 + 24
        | none => e.2 + 1))
      Answers (.localTick d) s (fun t => (t.die d).l = (s.die d).l + 1 ∧ (t.die d).est = est ∧ (t.die d).updates = [] ∧
        (((s.die d).p.toNat < ((s.die d).l + 1).toNat ∧ ∀ e ∈ est, (s.die d).p.toNat < e.2.toNat) → (t.die d).p = (s.die d).p + 1) ∧
        ((((s.die d).l + 1).toNat ≤ (s.die d).p.toNat ∨ ∃ e ∈ est, e.2.toNat ≤ (s.die d).p.toNat) → (t.die d).p = (s.die d).p) ∧
        (∀ e, e ≠ d → t.die e = s.die e) ∧ t.hbm = s.hbm))) ∧
  (∀ s d, d < 4 → (s.sendDue d = false → exec (.tickUpdateSend d) s = .next s) ∧
    (s.sendDue d = true → Answers (.tickUpdateSend d) s (fun t => (t.die d).lastSend = (s.die d).l ∧ (t.die d).l = (s.die d).l ∧ (t.die d).p = (s.die d).p ∧
      t.ticks = s.ticks ++ (s.die d).est.map (fun e => { src := d, dst := e.1, l := (s.die d).l, p := (s.die d).p })))) ∧
  (∀ s k u, s.ticks[k]? = some u → u.dst < 4 →
    ((s.die u.src).l.toNat < u.l.toNat + 24 → exec (.tickUpdateArrive k) s = .next s) ∧
    (u.l.toNat + 24 ≤ (s.die u.src).l.toNat → Answers (.tickUpdateArrive k) s (fun t => t.ticks = s.ticks.eraseIdx k ∧
      (t.die u.dst).l = (s.die u.dst).l ∧ (t.die u.dst).p = (s.die u.dst).p ∧ (t.die u.dst).est = (s.die u.dst).est ∧
      (t.die u.dst).updates = (u.src, u.p) :: (s.die u.dst).updates.filter (fun e => e.1 != u.src))))

/-- tkrd and tkal; the local tick counts, the updates between dies and package-aligned time: TicksAndAlignment and
TimeAdvances together. Derived from spec/06_fabric.md: Ticks and package-aligned time; spec/06_fabric.md: The TICK
major. -/
def Obligations.TicksAndTime : Prop := TicksAndAlignment ∧ TimeAdvances

/-! ### Submission queues, records and the host -/

/-- r is the one accepted record of queue q, of its present start: of kind opc, neither in effect nor complete, and, where it is a
LAUNCH or a RESUME, the package is not FATAL (R377). -/
def Sys2Proof.Claims.Pends (s : State) (q opc : Nat) (r : HRec) : Prop :=
  q < 64 ∧ (s.queue q).accepted = [r] ∧ r.effect = false ∧ r.complete = false ∧ r.opc = opc ∧ (s.queue q).closing = false ∧
  (s.queue q).owns r = true ∧ (opc = 3 ∨ opc = 6 → s.fatal = none)

/-- The record r has completed with a status: it has left queue q, its value is published and the queue's vector sent, or
pending while the vector is masked; a status other than OK stands in HQERR with the record's index. -/
def Sys2Proof.Claims.Completed (s t : State) (q : Nat) (r : HRec) (status : Nat) : Prop :=
  (t.queue q).accepted = [] ∧ (t.queue q).done = r.w 1 ∧
  ((s.msixEnt (s.queue q).vec).mask = false → (s.queue q).vec ∈ t.host.msix) ∧
  ((s.msixEnt (s.queue q).vec).mask = true → (s.queue q).vec < 64 → t.host.msixPend.getLsbD (s.queue q).vec = true) ∧
  (status = 0 → (t.queue q).err = (s.queue q).err) ∧
  (status ≠ 0 → (t.queue q).err = BitVec.ofNat 64 (status * 2 ^ 56 + r.index % 2 ^ 32))

/-- The event record ws is the next that the control complex holds for the event ring, where the ring is enabled and cannot take
it at once. -/
def Sys2Proof.Claims.Reports (s t : State) (ws : List Word) : Prop :=
  s.fatal = none → s.host.ev.en = true → (s.host.held ≠ [] ∨ s.host.ev.room = false) → s.host.held.length < 256 →
  ∃ l, t.host.held = s.host.held ++ ws :: l

/-- R381, R384 and R386: HQTAIL_WRITE sets the tail of a queue in host memory; TAILWORD_POLL takes the tail of a queue in HBM from its
tail word. RECORD_FETCH takes the record at HEAD that Table 13-2 allows, breaks the queue with BADTAIL where more records
are announced than the ring holds, and with the record's own status where it is rejected. RECORD_ACCEPT accepts the
fetched record of the first queue in turn that can accept one, with the generation that the context of an INTR then holds. A
record is known by its index and by the start of its queue (the model's own, log entry 29). -/
def Sys2Proof.Claims.RecordsEnterTheirQueue : Prop :=
  (∀ s q v, q < 64 → (s.queue q).loc = false → Answers (.hqtailWrite q v) s (fun t =>
    (t.queue q).tail = v.setWidth 32 ∧ (t.queue q).head = (s.queue q).head ∧ ∀ p, p ≠ q → t.queue p = s.queue p)) ∧
  (∀ s q ws, q < 64 → s.serves = true → (s.queue q).en = true → (s.queue q).st = 1 → (s.queue q).loc = true →
    (ccWords s (s.queue q).asid (s.queue q).tailva.toNat 1).1 = .ok ws → Answers (.tailwordPoll q) s (fun t =>
      (t.queue q).tail = ((ws.headD (0, false)).1).setWidth 32 ∧ (t.queue q).head = (s.queue q).head)) ∧
  (∀ s q, q < 64 → let x := s.queue q
    let n := (x.tail - x.head).toNat
    let a := x.base.toNat + 256 * (x.head.toNat % 2 ^ x.log2n)
    let bs := Memory.read s.hostMem a 256
    let r := recOf bs (x.starts * 2 ^ 32 + x.head.toNat)
    ((s.serves = false ∨ x.en = false ∨ x.st ≠ 1 ∨ x.fetched.isSome = true ∨ n = 0) → exec (.recordFetch q) s = .next s) ∧
    (s.serves = true → x.en = true → x.st = 1 → x.fetched = none → x.loc = false → n ≠ 0 →
      (2 ^ x.log2n < n → Answers (.recordFetch q) s (fun t => (t.queue q).st = 2 ∧ (t.queue q).err = BitVec.ofNat 64 (4 * 2 ^ 56 + x.head.toNat))) ∧
      (n ≤ 2 ^ x.log2n → s.hostBad a 256 = true → Answers (.recordFetch q) s (fun t =>
        (t.queue q).st = 2 ∧ (t.queue q).err = BitVec.ofNat 64 (5 * 2 ^ 56 + x.head.toNat))) ∧
      (n ≤ 2 ^ x.log2n → s.hostBad a 256 = false →
        (recordBad q x bs r = none → Answers (.recordFetch q) s (fun t =>
          (t.queue q).fetched = some r ∧ (t.queue q).head = x.head)) ∧
        (∀ st, recordBad q x bs r = some st → Answers (.recordFetch q) s (fun t =>
          (t.queue q).st = 2 ∧ (t.queue q).fetched = none ∧ (t.queue q).err = BitVec.ofNat 64 (st * 2 ^ 56 + x.head.toNat)))))) ∧
  (∀ s q r, q < 64 → (s.queue q).fetched = some r →
    (s.acceptable q = false → exec (.recordAccept q) s = .next s) ∧
    (s.acceptable q = true → (∀ i < 64, (s.host.turn + i) % 64 ≠ q → (∀ j ≤ i, (s.host.turn + j) % 64 ≠ q) → s.acceptable ((s.host.turn + i) % 64) = false) →
      Answers (.recordAccept q) s (fun t => (t.queue q).accepted = (s.queue q).accepted ++ [{ r with gen := s.intrGen r }] ∧
        (t.queue q).head = (s.queue q).head + 1 ∧ (t.queue q).lastVal = r.w 1 ∧ (t.queue q).fetched = none ∧ t.host.turn = (q + 1) % 64)))

/-- R381 and R385: QUEUE_ENABLE of a queue whose EN is 0 takes the fields of HQCFG and, with EN, starts the queue: active, HEAD, TAIL and DONE
0; what an earlier start accepted runs on. QUEUE_DESTROY of an enabled one clears EN and ST and drops a record that is not accepted, while
every accepted one that is not complete runs on; with nothing accepted left to run it reads as all ones in DONE. That a record fetched and not
accepted is dropped is the model's choice (log entry 29). Each leaves every other queue's configuration. -/
def Sys2Proof.Claims.QueuesStartAndEnd : Prop :=
  (∀ s q v, q < 64 →
    ((s.queue q).en = true → exec (.queueEnable q v) s = .next s) ∧
    ((s.queue q).en = false → Answers (.queueEnable q v) s (fun t => let x := t.queue q
      x.loc = v.getLsbD 62 ∧ x.log2n = Word.field v 40 8 ∧ x.vec = Word.field v 32 6 ∧ x.asid = Word.field v 0 16 ∧ x.base = (s.queue q).base ∧
      (v.getLsbD 63 = true → x.en = true ∧ x.st = 1 ∧ x.head = 0 ∧ x.tail = 0 ∧ x.done = 0 ∧ x.fetched = none ∧ x.lastVal = 0 ∧
        x.accepted = (s.queue q).accepted.filter (fun r => !r.complete)) ∧
      (v.getLsbD 63 = false → x.en = false) ∧ ∀ p, p ≠ q → t.queue p = s.queue p))) ∧
  (∀ s q, q < 64 →
    ((s.queue q).en = false → exec (.queueDestroy q) s = .next s) ∧
    ((s.queue q).en = true → Answers (.queueDestroy q) s (fun t => (t.queue q).en = false ∧ (t.queue q).st = 0 ∧ (t.queue q).fetched = none ∧
      (∀ r ∈ (s.queue q).accepted, r.complete = false → r ∈ (t.queue q).accepted) ∧
      ((s.queue q).accepted = [] → (t.queue q).done = BitVec.allOnes 64) ∧
      ∀ p, p ≠ q → (t.queue p).en = (s.queue p).en)))

/-- Submission queues: enable, fetch, accept, break and destroy: RecordsEnterTheirQueue and QueuesStartAndEnd together.
Derived from spec/13_host.md: Submission queues. -/
def Obligations.QueuesTakeRecords : Prop := RecordsEnterTheirQueue ∧ QueuesStartAndEnd

/-- R383 and R394: REGISTER of bytes in host memory that make an image of the package registers it under its handle, a handle in use is EXISTS, and
an image that a check or its model run refuses is not registered, and its event names the cause with the tiles, word
indices and tick (R173, R204; their places in the record are the model's choice, log entry 15); UNREGISTER forgets an image, an unknown handle is NOHANDLE; NOP completes
with OK and changes nothing else of the machine. -/
def Sys2Proof.Claims.ImagesAreRegistered : Prop :=
  (∀ s q r, Pends s q 1 r → let h := Word.field (r.w 10) 0 8
    let bs := Memory.read s.hostMem (r.w 11).toNat (r.w 12).toNat
    ((s.imageAt h).isSome = true → Answers (.register q) s (fun t => Completed s t q r 7 ∧ t.images = s.images)) ∧
    let ok := s.imageAt h = none ∧ (r.w 10).getLsbD 8 = false ∧ ((r.w 12).toNat = 0 ∨ s.hostBad (r.w 11).toNat (r.w 12).toNat = false)
    let refused (e : ImgFail) : Prop := Answers (.register q) s (fun t => Completed s t q r e.status ∧ t.images = s.images ∧
      (e.status ≠ 0 → Reports s t (eventWords evRecerr e.status r.forme q r.index
        { code := e.code, sub := e.sub, tval := BitVec.ofNat 64 e.tick, info0 := packNums e.tiles, info1 := packNums e.words } r.user)))
    (s.imageAt h = none → (r.w 10).getLsbD 8 = false → (r.w 12).toNat ≠ 0 → s.hostBad (r.w 11).toNat (r.w 12).toNat = true →
      Answers (.register q) s (fun t => Completed s t q r 13 ∧ t.images = s.images)) ∧
    (∀ img, ok → parseImage bs s.host.featmask = .ok img →
      (modelRun { img, x0 := 0, y0 := 0, b := none } = none →
        Answers (.register q) s (fun t => Completed s t q r 0 ∧ t.images = s.images ++ [(h, img)])) ∧
      (∀ e, modelRun { img, x0 := 0, y0 := 0, b := none } = some e →
        refused { status := 9, code := cROUTEBAL, sub := e.sub, tiles := e.tiles, words := e.words, tick := e.tick })) ∧
    (∀ e, ok → parseImage bs s.host.featmask = .error e → refused e)) ∧
  (∀ s q r, Pends s q 2 r → let h := Word.field (r.w 10) 0 8
    (s.imageAt h = none → Answers (.unregister q) s (fun t => Completed s t q r 6 ∧ t.images = s.images)) ∧
    ((s.imageAt h).isSome = true → Answers (.unregister q) s (fun t => Completed s t q r 0 ∧ t.images = s.images.filter (fun x => x.1 != h) ∧
      t.formes = s.formes))) ∧
  (∀ s q r, Pends s q 10 r → Answers (.nopRecord q) s (fun t => Completed s t q r 0 ∧ t.tiles = s.tiles ∧ t.formes = s.formes ∧ t.hbm = s.hbm ∧
    t.hostMem = s.hostMem ∧ t.l2 = s.l2 ∧ t.images = s.images))

/-- R29, R392, R395 and R397: LAUNCH. An unknown handle is NOHANDLE, B = 0 RANGE, a forme ID in use EXISTS, sizes that LMAIN and LEXCH exceed COLOPHON, a place that is taken OVERLAP, a
port that is on no outer edge IMAGE, an engine context or port of another forme BUSY, a failed model run IMAGE; where every check of
R395 passes, the forme joins the formes of the package with the record's fields, to be made ready, after its code is copied where the
record asks for it.
MAKE_READY of a forme whose generations are free and whose stream windows hold starts its superstep 0: phase compute, cell
0 of the validity word set, every context at its reset (the values of log entry 1 where the spec gives none) but for a generation one higher, its spans and its CTXINIT words. After
FATAL none is made ready, launched or resumed (R377). -/
def Sys2Proof.Claims.FormesAreLaunched : Prop :=
  (∀ s q r, Pends s q 3 r → s.unchecked q r = true → s.launchEnds q = none → let img? := s.imageAt (Word.field (r.w 10) 0 8)
    (img? = none → Answers (.launch q) s (fun t => Completed s t q r 6 ∧ t.formes = s.formes)) ∧
    (∀ img, img? = some img → let f := launchForme q r img
      (f.b = 0 → Answers (.launch q) s (fun t => Completed s t q r 15 ∧ t.formes = s.formes)) ∧
      (f.b ≠ 0 → (s.formeAt f.id).isSome = true → Answers (.launch q) s (fun t => Completed s t q r 7 ∧ t.formes = s.formes)) ∧
      (f.b ≠ 0 → s.formeAt f.id = none → f.sizesMet = false → Answers (.launch q) s (fun t => Completed s t q r 8 ∧ t.formes = s.formes)) ∧
      (f.b ≠ 0 → s.formeAt f.id = none → f.sizesMet = true → s.placeFree f = false → Answers (.launch q) s (fun t => Completed s t q r 10 ∧ t.formes = s.formes)) ∧
      (f.b ≠ 0 → s.formeAt f.id = none → f.sizesMet = true → s.placeFree f = true → f.portsOuter = false →
        Answers (.launch q) s (fun t => Completed s t q r 9 ∧ t.formes = s.formes)) ∧
      (f.b ≠ 0 → s.formeAt f.id = none → f.sizesMet = true → s.placeFree f = true → f.portsOuter = true → s.boundElsewhere f = true →
        Answers (.launch q) s (fun t => Completed s t q r 11 ∧ t.formes = s.formes)) ∧
      (f.b ≠ 0 → s.formeAt f.id = none → f.sizesMet = true → s.placeFree f = true → f.portsOuter = true → s.boundElsewhere f = false →
        ((modelRun { img, x0 := f.x0, y0 := f.y0, b := some f.b }).isSome = true →
          Answers (.launch q) s (fun t => Completed s t q r 9 ∧ t.formes = s.formes)) ∧
        (modelRun { img, x0 := f.x0, y0 := f.y0, b := some f.b } = none → f.phase = .making ∧
          ((r.w 10).getLsbD 63 = false → Answers (.launch q) s (fun t => t.formes = s.formes ++ [f] ∧ (t.queue q).accepted = [r] ∧
            (∀ n < f.count, ∃ u ∈ t.tiles, u.forme = f.id ∧ u.logical = n ∧ u.phys = physOf img f.x0 f.y0 n))) ∧
          ((r.w 10).getLsbD 63 = true → ∀ c, (loadCode f.asid f.codeCopies s).2 = c →
            ((loadCode f.asid f.codeCopies s).1 = .ok () → Answers (.launch q) s (fun t => t.formes = c.formes ++ [f] ∧ t.hbm = c.hbm ∧ t.l2 = c.l2)) ∧
            (∀ e, (loadCode f.asid f.codeCopies s).1 = .error e → Answers (.launch q) s (fun t => t.formes = c.formes ∧ t.tiles = c.tiles))))))) ∧
  (∀ s fid, s.fatal.isSome = true → exec (.makeReady fid) s = .next s) ∧
  (∀ s fid f, s.fatal = none → s.formeAt fid = some f → f.phase = .making →
    (∀ u ∈ s.tiles, u.forme = fid → ∀ c : Fin 4, s.genFree u.phys c (s.genOf u.phys c + 1) = true) →
    (∀ e ∈ f.img.streams, ∀ w ∈ e.wins, s.windowOk f.asid w = true) →
    Answers (.makeReady fid) s (fun t => (∃ g, t.formeAt fid = some g ∧ g.phase = .compute ∧ g.k = 0 ∧ g.v = (if 0 < f.b then 1 else 0) ∧ g.img = f.img) ∧
      ∀ (k : Nat) (u : Tile), s.tiles[k]? = some u → u.forme = fid → ∃ v : Tile, t.tiles[k]? = some v ∧ ∀ c : Fin 4,
        v.ctxs[c].gen = s.genOf u.phys c + 1 ∧ v.ctxs[c].st = .noThread ∧ (∀ n, v.ctxs[c].readX n = (0, false)) ∧
        v.ctxs[c].tvec = (f.img.ctxinit.getD (4 * u.logical + c.val) []).getD 0 0 ∧
        ∀ n < 32, vget v.ctxs[c].spans n {} = f.img.spans.getD n {}))

/-- R26, R349, R384 and R425: where the forme of a queue's LAUNCH has run its last superstep and its queued commands have run out,
the move of that LAUNCH ends it: a FORMEEND event names it, the forme is gone, each of its tiles is idle with its local store
kept, and the record completes with OK. While commands are still to run it stays (the model's choice of the moment, log entry
24). -/
def Sys2Proof.Claims.LaunchedFormesEnd : Prop :=
  (∀ s q f, q < 64 → s.launchEnds q = some f → Answers (.launch q) s (fun t =>
    t.formeAt f.id = none ∧ (∀ u ∈ t.tiles, u.forme ≠ f.id) ∧ (∀ x ∈ t.engs, x.forme ≠ f.id) ∧ t.images = s.images ∧
    (∀ u ∈ s.tiles, u.forme = f.id → ∃ v ∈ t.idle, v.phys = u.phys ∧ v.main = u.main ∧ v.bankA = u.bankA ∧ v.bankB = u.bankB ∧
      v.mainTaint = u.mainTaint ∧ v.poison = u.poison) ∧
    Reports s t (eventWords evFormeend 0 f.id f.queue f.hrec { code := 0 } (s.launchUser f)) ∧
    (∀ r, (s.queue q).accepted = [r] → r.index = f.hrec → r.complete = false → (s.queue q).owns r = true → (s.queue q).closing = false →
      Completed s t q r 0))) ∧
  (∀ (s : State) q, s.fatal.isSome = true → s.pendingRec q 3 = none ∧ s.pendingRec q 6 = none) ∧
  (∀ s q, q < 64 → s.pendingRec q 3 = none → (∀ f ∈ s.formes, f.queue = q → f.phase = .ended → s.drained f = false) →
    exec (.launch q) s = .next s)

/-- REGISTER, UNREGISTER, NOP, LAUNCH, make-ready and the end of a forme: ImagesAreRegistered, FormesAreLaunched and
LaunchedFormesEnd together. Derived from spec/13_host.md: Submission queues; spec/13_host.md: The configuration image;
spec/13_host.md: Make-ready; spec/13_host.md: Code patches and launches. -/
def Obligations.ImagesAndFormes : Prop := ImagesAreRegistered ∧ FormesAreLaunched ∧ LaunchedFormesEnd

/-- R369, R371, R383, R413, R414 and R419: STOP asks a running forme to stop at its next boundary and completes with OK for one that stands
stopped, and for one halted within a superstep, whose request stays; PREEMPT halts a running forme and completes with OK for one that is halted and
saved, and has records that could not be written tried again; RESUME restarts a forme whose records are read and pass their checks, sets one that stood
stopped after its last superstep to end (R26), and completes with
NOFORME for one that does not stand halted; KILL takes a forme
away with its tiles. Each of a forme that does not exist is NOFORME. The moments of these effects, and what becomes of records that could not be written, are the
model's (log entry 28). -/
def Sys2Proof.Claims.RecordsActOnFormes : Prop :=
  (∀ i opc s q r, (i, opc) ∈ ([(.stop q, 4), (.preempt q, 5), (.resume q, 6), (.kill q, 7)] : List (Instr × Nat)) → Pends s q opc r →
    s.formeAt r.forme = none → Answers i s (fun t => Completed s t q r 12 ∧ t.formes = s.formes ∧ t.tiles = s.tiles)) ∧
  (∀ s q r f, s.formeAt r.forme = some f →
    (Pends s q 4 r → f.phase.runs = true → f.stopping = false → r.started = false → Answers (.stop q) s (fun t =>
      (∃ g, t.formeAt f.id = some g ∧ g.stops.length = f.stops.length + 1 ∧ g.phase = f.phase ∧ ∃ x ∈ g.stops, x.reason = 2) ∧
      ∃ x, (t.queue q).accepted = [x] ∧ x.started = true ∧ x.complete = false)) ∧
    (Pends s q 4 r → f.phase = .stopped → f.dumped = true → r.started = false → Answers (.stop q) s (fun t => Completed s t q r 0 ∧ t.formes = s.formes)) ∧
    (Pends s q 4 r → f.phase = .halted → f.stopping = false → r.started = false → Answers (.stop q) s (fun t => Completed s t q r 0 ∧
      ∃ g, t.formeAt f.id = some g ∧ g.phase = .halted ∧ g.stops.length = f.stops.length + 1)) ∧
    (Pends s q 5 r → f.phase = .halted → f.saved = false → f.saveFailed = true → Answers (.preempt q) s (fun t =>
      (t.queue q).accepted = [r] ∧ ∃ g, t.formeAt f.id = some g ∧ g.phase = .halted ∧ g.saved = false ∧ g.saveFailed = false)) ∧
    (Pends s q 5 r → f.phase.runs = true → Answers (.preempt q) s (fun t => (∃ g, t.formeAt f.id = some g ∧ g.phase = .halted ∧ g.resumeTo = f.phase ∧ g.saved = false) ∧
      (t.queue q).accepted = [r])) ∧
    (Pends s q 5 r → f.phase = .halted → f.saved = true → f.stopping = false → Answers (.preempt q) s (fun t => Completed s t q r 0 ∧ t.formes = s.formes)) ∧
    (Pends s q 6 r → (f.phase.runs = true ∨ (f.saved = false ∧ f.saveFailed = false)) → Answers (.resume q) s (fun t => Completed s t q r 12 ∧ t.formes = s.formes)) ∧
    (∀ u v, Pends s q 6 r → f.resumableNow = true → s.restartFree f = true → resumeForme f s = (.ok u, v) → u.queue q = s.queue q →
      Answers (.resume q) s (fun t => (t.queue q).accepted = [] ∧ (t.queue q).done = r.w 1 ∧ t.formes = u.formes ∧ t.tiles = u.tiles)) ∧
    (∀ e v, Pends s q 6 r → f.resumableNow = true → s.restartFree f = true → resumeForme f s = (.error e, v) → v.queue q = s.queue q →
      Answers (.resume q) s (fun t => (t.queue q).accepted = [] ∧ (t.queue q).done = r.w 1 ∧ t.formes = v.formes ∧ t.tiles = v.tiles)) ∧
    (∀ u v g, f.phase = .stopped → resumeForme f s = (.ok u, v) → u.formeAt f.id = some g → g.fault = none →
      g.phase = (if g.supersteps ≤ g.k then .ended else .compute) ∧ g.saved = false ∧ g.stopping = false) ∧
    (Pends s q 6 r → f.resumableNow = true → s.restartFree f = false → exec (.resume q) s = .next s) ∧
    (Pends s q 7 r → f.phase ≠ .making → f.queue ≠ q → Answers (.kill q) s (fun t => Completed s t q r 0 ∧ t.formeAt f.id = none ∧ ∀ u ∈ t.tiles, u.forme ≠ f.id)))

/-- R383: COPY. A length of 0 or above 2^32 is RANGE. To host memory: the bytes that the home slices hold stand there. From host memory,
into one line that one slice holds: the bytes stand in the line, its other bytes as before. Every COPY whose pages are there completes
with OK. That it goes to the slices' copies and is one move is the model's reading (log entry 22). Host memory is in canonical form. -/
def Sys2Proof.Claims.CopiesBetweenHostAndDevice : Prop :=
  ∀ s q r, Pends s q 8 r →
    let asid := Word.field (r.w 10) 16 16
    let h := (r.w 11).toNat
    let va := (r.w 12).toNat
    let n := (r.w 13).toNat
    ((n = 0 ∨ 2 ^ 32 < n) → Answers (.copy q) s (fun t => Completed s t q r 15 ∧ t.hostMem = s.hostMem ∧ t.hbm = s.hbm)) ∧
    (0 < n → n ≤ 2 ^ 32 → (r.w 10).getLsbD 0 = false → s.hostBad h n = true → Answers (.copy q) s (fun t => Completed s t q r 13 ∧
      t.hbm = s.hbm ∧ t.l2 = s.l2)) ∧
    (∀ bs, 0 < n → n ≤ 2 ^ 32 → (r.w 10).getLsbD 0 = true → Memory.wf s.hostMem = true → s.ofu = [] → va % 64 + n ≤ 64 →
      (∃ l, s.copies asid (va / 64) = [l] ∧ bs = Line.bytes l.data (va % 64) n) → (∀ m ∈ s.l2, m.asid = asid → m.line = va / 64 → m.dirty = false) →
      Answers (.copy q) s (fun t => Completed s t q r 0 ∧ Memory.read t.hostMem h n = bs ∧
        ∀ a, a < h ∨ h + n ≤ a → Memory.get t.hostMem a = Memory.get s.hostMem a)) ∧
    (∀ l, 0 < n → n ≤ 2 ^ 32 → (r.w 10).getLsbD 0 = false → s.hostBad h n = false → s.ofu = [] → va % 64 + n ≤ 64 →
      s.copies asid (va / 64) = [l] → (∀ m ∈ s.l2, m.slice = l.slice → m.asid = l.asid → m.line = l.line → m = l) →
      Answers (.copy q) s (fun t => Completed s t q r 0 ∧ ∃ m ∈ t.l2, m.slice = l.slice ∧ m.asid = asid ∧ m.line = va / 64 ∧
        Line.bytes m.data (va % 64) n = Memory.read s.hostMem h n ∧
        ∀ b < 64, (b < va % 64 ∨ va % 64 + n ≤ b) → lineByte m.data b = lineByte l.data b))

/-- R326 and R383: MAPCMD applies the mapping command of its body and completes with OK, or with MAPFAIL where the command fails; stated of ASIDON, which fails where the
ASID is on already and where a controller's region has no room for its tables.
R358 and R383: INTR sends an interrupt packet to the context that it names, with the generation that the context held when the record was accepted; a tile beyond the forme is RANGE. -/
def Sys2Proof.Claims.HostCommandsAct : Prop :=
  (∀ s q r, Pends s q 9 r → xmCmd (r.w 10) = 1 →
    ((s.ctl 0).roots.contains (xmASID (r.w 10)) = false → (∀ c < 12, (s.ctl c).fits (2 ^ 21) = true) → Answers (.mapcmd q) s (fun t => Completed s t q r 0 ∧ ∀ c < 12, xmASID (r.w 10) ∈ (t.ctl c).roots)) ∧
    ((s.ctl 0).roots.contains (xmASID (r.w 10)) = false → (∃ c < 12, (s.ctl c).fits (2 ^ 21) = false) →
      Answers (.mapcmd q) s (fun t => Completed s t q r 14 ∧ t.ctls = s.ctls)) ∧
    ((s.ctl 0).roots.contains (xmASID (r.w 10)) = true → Answers (.mapcmd q) s (fun t => Completed s t q r 14 ∧ t.ctls = s.ctls))) ∧
  (∀ s q r f, Pends s q 11 r → r.started = false → s.formeAt r.forme = some f → let n := Word.field (r.w 10) 16 12
    (f.count ≤ n → Answers (.intr q) s (fun t => Completed s t q r 15 ∧ t.net = s.net)) ∧
    (∀ u, n < f.count → f.phase ≠ .making → s.logicalTile f.id n = some u → Answers (.intr q) s (fun t =>
      ∃ k x, t.net = s.net ++ [k] ∧ k.dst = u.phys ∧ k.kind = .intr (Word.field (r.w 10) 28 2) (Word.field (r.w 10) 32 3) r.gen ∧
        (t.queue q).accepted = [x] ∧ x.started = true))) ∧
  (∀ s q r, Pends s q 11 r → r.started = true → s.intrPending q = false → Answers (.intr q) s (fun t => Completed s t q r 0))

/-- STOP, PREEMPT, RESUME, KILL, COPY, MAPCMD and INTR: RecordsActOnFormes, CopiesBetweenHostAndDevice and HostCommandsAct
together. Derived from spec/13_host.md: Submission queues; spec/12_system.md: Pre-emption; spec/14_trace.md: Stops and
breakpoints. -/
def Obligations.HostRecords : Prop := RecordsActOnFormes ∧ CopiesBetweenHostAndDevice ∧ HostCommandsAct

/-- R379, R380, R387, R404, R405 and R436: BAR_REGISTER_WRITE of FEATMASK, PKGCFG, a power cap, a ring's base, configuration and head, a
queue's base, tail and tail address, the attestation registers, an MSI-X entry (one that unmasks a pending vector sends it; the layout
of the table is presumed, log entry 35), of ERRCNT (write 1 to clear) and of a read-only offset;
ATTGO clears ATTST on a package that is not ready, and on one that is writes the report and a signature of the identity key over
its SHA-384 digest, and sets it (the secret number is free, log entry 38); EVENT_RECORD_WRITE writes the oldest event held
once the ring has room; TRACE_FRAME_WRITE takes the oldest closed frame, and a frame whose close had no place to wait is closed in its stead; FUNCTION_LEVEL_RESET leaves no forme, no enabled ring and no enabled queue, and keeps the images. -/
def Obligations.HostRegistersAndRings : Prop :=
  (∀ s v, Answers (.barRegisterWrite 0x10 v) s (fun t => t.host.featmask = v ∧ t.host.queues = s.host.queues ∧ t.formes = s.formes) ∧
    Answers (.barRegisterWrite 0x1000 v) s (fun t => t.host.ev.base = v ∧ t.host.ev.tail = s.host.ev.tail) ∧
    Answers (.barRegisterWrite 0x1018 v) s (fun t => t.host.ev.head = v.setWidth 32 ∧ t.host.ev.tail = s.host.ev.tail) ∧
    Answers (.barRegisterWrite 0x60 v) s (fun t => t.host.errPoison = s.host.errPoison &&& ~~~(v.extractLsb' 0 32) ∧
      t.host.errCorr = s.host.errCorr &&& ~~~(v.extractLsb' 32 32)) ∧
    Answers (.barRegisterWrite 0x18 v) s (fun t => t.host.pkgcfg = v &&& 0xFFFFF) ∧
    Answers (.barRegisterWrite 0x1008 v) s (fun t => t.host.ev.en = v.getLsbD 63 ∧ t.host.ev.log2n = Word.field v 40 8 ∧ t.host.ev.vec = Word.field v 0 6 ∧
      (v.getLsbD 63 = true → t.host.held = s.host.held ∧ t.host.ev.ovf = (s.host.ev.ovf && !v.getLsbD 62)) ∧
      (v.getLsbD 63 = false → t.host.held = [])) ∧
    Answers (.barRegisterWrite 0x1020 v) s (fun t => t.host.pr.base = v ∧ t.host.ev = s.host.ev) ∧
    Answers (.barRegisterWrite 0x1028 v) s (fun t => t.host.pr.en = v.getLsbD 63 ∧ t.host.pr.log2n = Word.field v 40 8 ∧ t.host.pr.vec = Word.field v 0 6) ∧
    Answers (.barRegisterWrite 0x1038 v) s (fun t => t.host.pr.head = v.setWidth 32 ∧ t.host.pr.tail = s.host.pr.tail) ∧
    Answers (.barRegisterWrite 0x2008 v) s (fun t => t.host.attaddr = v ∧ t.host.attst = s.host.attst) ∧
    (∀ d < 4, Answers (.barRegisterWrite (0x40 + 8 * d) v) s (fun t => (t.die d).cap = v.setWidth 8 ∧ (t.die d).temp = (s.die d).temp ∧
      (t.die d).throt = (s.die d).throt)) ∧
    (∀ i < 4, Answers (.barRegisterWrite (0x2010 + 8 * i) v) s (fun t => ∀ j < 4, vget t.host.nonce j 0 = if j = i then v else vget s.host.nonce j 0)) ∧
    (∀ q < 64,
      ((s.queue q).en = false → Answers (.barRegisterWrite (0x10000 + 64 * q) v) s (fun t => (t.queue q).base = v &&& ~~~ 0xFFF#64) ∧
        Answers (.barRegisterWrite (0x10030 + 64 * q) v) s (fun t => (t.queue q).tailva = v)) ∧
      ((s.queue q).en = true → exec (.barRegisterWrite (0x10000 + 64 * q) v) s = .next s ∧ exec (.barRegisterWrite (0x10030 + 64 * q) v) s = .next s) ∧
      ((s.queue q).loc = false → Answers (.barRegisterWrite (0x10010 + 64 * q) v) s (fun t => (t.queue q).tail = v.setWidth 32))) ∧
    (∀ n < 64, let e := s.msixEnt n
      Answers (.barRegisterWrite (0x80000 + 16 * n) v) s (fun t => (t.msixEnt n).addr = v ∧ (t.msixEnt n).data = e.data ∧ (t.msixEnt n).mask = e.mask ∧
        ∀ k < 64, k ≠ n → t.msixEnt k = s.msixEnt k) ∧
      Answers (.barRegisterWrite (0x80008 + 16 * n) v) s (fun t => (t.msixEnt n).addr = e.addr ∧ (t.msixEnt n).data = v.setWidth 32 ∧
        (t.msixEnt n).mask = v.getLsbD 32 ∧
        (v.getLsbD 32 = false → s.host.msixPend.getLsbD n = true → t.host.msix = s.host.msix ++ [n] ∧ t.host.msixPend.getLsbD n = false) ∧
        (v.getLsbD 32 = true → t.host.msix = s.host.msix ∧ t.host.msixPend = s.host.msixPend))) ∧
    exec (.barRegisterWrite 0x0 v) s = .next s ∧ exec (.barRegisterWrite 0x20 v) s = .next s ∧ exec (.barRegisterWrite 0x88000 v) s = .next s) ∧
  (∀ s, (s.serves = false → Answers .attgo s (fun t => t.host.attst = false ∧ t.hostMem = s.hostMem)) ∧
    (s.serves = true → Memory.wf s.hostMem = true → Answers .attgo s (fun t => t.host.attst = true ∧
      Memory.read t.hostMem s.host.attaddr.toNat 4 = bytesOfNat 4 0x4B415454 ∧ t.host.nonce = s.host.nonce ∧
      Memory.read t.hostMem s.host.attaddr.toNat 160 = s.reportBody ∧
      ∃ k, 0 < k ∧ k < curveN ∧ let g := ecdsaSign s.fuses.identity k (sha384 s.reportBody)
        Memory.read t.hostMem (s.host.attaddr.toNat + 160) 96 = bigEndian 48 g.1 ++ bigEndian 48 g.2))) ∧
  (∀ s w r, s.host.held = w :: r → w.length = 8 → Memory.wf s.hostMem = true →
    (s.host.ev.room = false → exec .eventRecordWrite s = .next s) ∧
    (s.host.ev.room = true → Answers .eventRecordWrite s (fun t => t.host.held = r ∧ t.host.ev.tail = s.host.ev.tail + 1 ∧
      Signals s t s.host.ev.vec ∧
      Memory.read t.hostMem (s.host.ev.base.toNat + 64 * (s.host.ev.tail.toNat % 2 ^ s.host.ev.log2n)) 64 = w.flatMap (bytesOf 8)))) ∧
  (∀ s p x r, (s.tileAt p).isSome = true → (s.tileD p).trace.waiting = x :: r → (s.tileD p).trace.haltDue = false →
    (s.tileD p).trace.swapDue = false → Answers (.traceFrameWrite p) s (fun t => let y := (s.tileD p).trace
      ((y.closeDue = false ∨ y.buf = []) → (t.tileD p).trace.waiting = r ∧ (t.tileD p).trace.buf = y.buf) ∧
      (y.closeDue = true → y.buf ≠ [] → r.length < 4 → (t.tileD p).trace.waiting = r ++ [(y.frame, y.buf ++ List.replicate (256 - y.buf.length) 0, y.recs)] ∧
        (t.tileD p).trace.buf = [] ∧ (t.tileD p).trace.closeDue = false) ∧
      (t.tileD p).ctxs = (s.tileD p).ctxs ∧ ((t.tileD p).trace.lost = y.lost ∨ (t.tileD p).trace.lost = min 65535 (y.lost + x.2.2)))) ∧
  (∀ s, Answers .functionLevelReset s (fun t => t.formes = [] ∧ t.images = s.images ∧ t.host.ev.en = false ∧ t.host.pr.en = false ∧
    ∀ q < 64, (t.queue q).en = false))

/-! ### The package -/

/-- R147, R424, R426, R428, R429, R430, R432 and R435: POWER_ON starts bring-up where the firmware is accepted, after a power cycle where
the package had power, which keeps the fuses, the rollback counter, the firmware and what is the host's; CLUSTER_RAMP brings up one cluster of a die, and with
the last of all makes the package ready; THERMAL_THROTTLE at 100 °C, THROTTLE_CLEAR after 1.6 million ticks below 95, THERMAL_FATAL at 110 halts the
package with FATAL and at 115 cuts the rails; ROLLBACK_COUNTER_RAISE never lowers the counter; LINK_DOWN takes a link away; an uncorrectable error of data
poisons its granule and counts, one of a taint bit sets it to 1, and one of the class fatal is FATAL; SCRUB of a corrected error
counts it. That a power cycle takes place where the package had power, or is FATAL, is the model's choice (log entry 31), that all memory is empty after it log entry 2's, the writer that an error in a shadow record leaves, no tile of a forme, log
entry 37's (Table 15-3 has "sets 1 (conservative)"), and which bytes the digests of the firmware check cover log entry 38's. -/
def Obligations.PackageEvents : Prop :=
  (∀ s, s.railsCut = false → s.fatal = none → s.powered = false →
    (s.fwAccepted = true → Answers .powerOn s (fun t => t.powered = true ∧ t.host = s.host ∧ t.dies = s.dies)) ∧
    ((s.fwAccepted = false ∨ s.firmware.boot.version.toNat < s.host.rollback.toNat ∨ s.firmware.control.version.toNat < s.host.rollback.toNat ∨
      sha384 (keyBytes s.firmware.rootKey) ≠ s.fuses.rootDigest) → exec .powerOn s = .next s)) ∧
  (∀ s, (s.railsCut = true ∨ s.fatal.isSome = true ∨ s.powered = true) → Answers .powerOn s (fun t => t.powered = s.fwAccepted ∧ t.railsCut = false ∧
    t.fatal = none ∧ t.formes = [] ∧ t.tiles = [] ∧ t.idle = [] ∧ t.hbm = [] ∧ t.l2 = [] ∧ t.images = [] ∧ t.host.dstate = 0 ∧ (∀ d < 4, (t.die d).ramped = 0) ∧
    t.host.rollback = s.host.rollback ∧ t.fuses = s.fuses ∧ t.firmware = s.firmware ∧ t.hostMem = s.hostMem)) ∧
  (∀ s d, d < 4 → s.powered = true → (s.die d).ramped < 64 → Answers (.clusterRamp d) s (fun t => (t.die d).ramped = (s.die d).ramped + 1 ∧
    (t.released = false → t.host = s.host) ∧ (t.released = true → t.host.dstate = 1))) ∧
  (∀ s d, d < 4 → ((s.die d).throt = false → 100 ≤ (s.die d).temp.toNat → Answers (.thermalThrottle d) s (fun t => (t.die d).throt = true ∧ (t.die d).cool = 0 ∧ t.tiles = s.tiles)) ∧
    ((s.die d).temp.toNat < 100 → exec (.thermalThrottle d) s = .next s) ∧
    ((s.die d).throt = true → 1600000 ≤ (s.die d).cool → (s.die d).temp.toNat < 95 → Answers (.throttleClear d) s (fun t => (t.die d).throt = false ∧ ∀ f ∈ t.formes, d ∉ f.withdrawn)) ∧
    (((s.die d).cool < 1600000 ∨ 95 ≤ (s.die d).temp.toNat) → exec (.throttleClear d) s = .next s) ∧
    (s.fatal = none → s.railsCut = false →
      ((s.die d).temp.toNat < 110 → exec (.thermalFatal d) s = .next s) ∧
      (110 ≤ (s.die d).temp.toNat → (s.die d).temp.toNat < 115 → Answers (.thermalFatal d) s (fun t =>
        (∃ e, t.fatal = some e ∧ e.code = cFATAL ∧ e.sub = 1) ∧ t.host.dstate = 2 ∧ ∀ f ∈ t.formes, f.phase.runs = false)) ∧
      (115 ≤ (s.die d).temp.toNat → Answers (.thermalFatal d) s (fun t => t.railsCut = true)))) ∧
  (∀ s v, (s.serves = true → s.host.rollback.toNat < v.toNat → Answers (.rollbackCounterRaise v) s (fun t => t.host.rollback = v)) ∧
    (v.toNat ≤ s.host.rollback.toNat → exec (.rollbackCounterRaise v) s = .next s)) ∧
  (∀ s n, n < 16 → Answers (.linkDown n) s (fun t => t.linkDown.getLsbD n = true ∧ ∀ k, k ≠ n → t.linkDown.getLsbD k = s.linkDown.getLsbD k)) ∧
  (∀ s p g, (s.tileAt p).isSome = true → Answers (.uncorrectableError (.local p g)) s (fun t => TaintSet.has (t.tileD p).poison g = true ∧
    (t.tileD p).main = (s.tileD p).main ∧ t.host.errPoison = satLane s.host.errPoison)) ∧
  (∀ s g, Answers (.uncorrectableError (.hbm g)) s (fun t => TaintSet.has t.hbmPoison g = true ∧ t.hbm = s.hbm) ∧
    Answers (.uncorrectableError (.hbmTaint g)) s (fun t => TaintSet.has t.hbmTaint g = true ∧ t.hbm = s.hbm ∧ t.hbmPoison = s.hbmPoison)) ∧
  (∀ s p (c : Fin 4) n, (s.tileAt p).isSome = true →
    let sets (r : RegSite) (bit : Ctx → Bool) : Prop := Answers (.uncorrectableError (.regTaint p c.val r)) s (fun t =>
      bit ((t.tileD p).ctxs[c]) = true ∧ ((t.tileD p).ctxs[c]).x = ((s.tileD p).ctxs[c]).x ∧ ((t.tileD p).ctxs[c]).v = ((s.tileD p).ctxs[c]).v ∧
      t.tiles.length = s.tiles.length)
    (0 < n → n < 32 → sets (.x n) (fun x => (x.readX n).2)) ∧ (n < 32 → sets (.v n) (fun x => x.vTaint n)) ∧
    (n < 8 → sets (.o n) (fun x => x.vTaint (32 + n))) ∧ sets .lr (fun x => x.taint.lr) ∧ (n < 8 → sets (.m n) (fun x => x.taint.m.getLsbD n)) ∧
    (n < 8 → Answers (.uncorrectableError (.regTaint p c.val (.a n))) s (fun t => (t.tileD p).mx.accTaint.getLsbD n = true ∧
      (t.tileD p).mx.acc = (s.tileD p).mx.acc)) ∧
    (∀ rw w1c, CsrFields n rw w1c → Answers (.uncorrectableError (.regTaint p c.val (.csr n))) s (fun t => (t.as p c).csrBit n = true))) ∧
  (∀ s i g l, s.l2[i]? = some l → g < 8 → Answers (.uncorrectableError (.l2 i g)) s (fun t =>
    (∃ m ∈ t.l2, m.slice = l.slice ∧ m.line = l.line ∧ m.poison.getLsbD g = true ∧ m.data = l.data ∧ m.taint = l.taint) ∧ t.hbm = s.hbm) ∧
    Answers (.uncorrectableError (.l2Taint i g)) s (fun t => ∃ m ∈ t.l2, m.slice = l.slice ∧ m.line = l.line ∧ m.taint.getLsbD g = true ∧ m.data = l.data)) ∧
  (∀ s p w, (s.tileAt p).isSome = true → Answers (.uncorrectableError (.shadow p w)) s (fun t =>
    (t.tileD p).shadow = raceSet (s.tileD p).shadow [w] errWriter (s.phaseOf p) ∧ (t.tileD p).main = (s.tileD p).main)) ∧
  (∀ s p, (s.tileAt p).isSome = true → (s.tileD p).frozen = false → Answers (.uncorrectableError (.core p)) s (fun t => (t.tileD p).frozen = true)) ∧
  (∀ s d u, s.fatal = none → Answers (.uncorrectableError (.fatal d u)) s (fun t => (∃ e, t.fatal = some e ∧ e.code = cFATAL ∧ e.sub = 0) ∧ t.host.dstate = 2)) ∧
  (∀ s, Answers (.scrub []) s (fun t => t = s) ∧ Answers (.scrub [.corrected]) s (fun t => t.host.errCorr = satLane s.host.errCorr ∧ t.tiles = s.tiles ∧ t.hbm = s.hbm))

/-! ### The whole machine -/

/-- The step of the opcode table that an event of the schedule is: the constructor of its name. -/
def Sys2Proof.Claims.EventIs (e : Event) (ins : Instr) : Prop :=
  match e with
  | .atomicComplete tile ctx => ins = .atomicComplete tile ctx
  | .updateMerge i => ins = .updateMerge i
  | .recvWake tile ctx => ins = .recvWake tile ctx
  | .tkalRelease tile ctx => ins = .tkalRelease tile ctx
  | .routineStart tile => ins = .routineStart tile
  | .mldExec tile => ins = .mldExec tile
  | .mswapExec tile => ins = .mswapExec tile
  | .mmacExec tile => ins = .mmacExec tile
  | .mmaczExec tile => ins = .mmaczExec tile
  | .mstExec tile => ins = .mstExec tile
  | .mrdExec tile => ins = .mrdExec tile
  | .mwrExec tile => ins = .mwrExec tile
  | .mzeroExec tile => ins = .mzeroExec tile
  | .tokenPass die => ins = .tokenPass die
  | .burstEnd tile => ins = .burstEnd tile
  | .ecpyExec eng ctx => ins = .ecpyExec eng ctx
  | .ecpy2Exec eng ctx => ins = .ecpy2Exec eng ctx
  | .estrmExec eng ctx => ins = .estrmExec eng ctx
  | .nodeFire eng ctx node => ins = .nodeFire eng ctx node
  | .engineCommandComplete eng ctx => ins = .engineCommandComplete eng ctx
  | .hashdomWrite dom val => ins = .hashdomWrite dom val
  | .hashdomWriteComplete dom => ins = .hashdomWriteComplete dom
  | .rehomeReply i => ins = .rehomeReply i
  | .asidon => ins = .asidon
  | .asidoff => ins = .asidoff
  | .map => ins = .map
  | .mapreq => ins = .mapreq
  | .unmap => ins = .unmap
  | .migrate => ins = .migrate
  | .query => ins = .query
  | .presp => ins = .presp
  | .wfiWake tile ctx => ins = .wfiWake tile ctx
  | .longLatencyLanding tile ctx win => ins = .longLatencyLanding tile ctx win
  | .commitPoint tile ctx => ins = .commitPoint tile ctx
  | .storeConfirm tile entry => ins = .storeConfirm tile entry
  | .storeEntryFault tile entry => ins = .storeEntryFault tile entry
  | .raceCheckReply tile ctx => ins = .raceCheckReply tile ctx
  | .l2Fill i => ins = .l2Fill i
  | .retryReissue i => ins = .retryReissue i
  | .walk i => ins = .walk i
  | .pageRequestRecordWrite ctl slot => ins = .pageRequestRecordWrite ctl slot
  | .migrationCopyLine ctl i err => ins = .migrationCopyLine ctl i err
  | .remoteStoreLand i => ins = .remoteStoreLand i
  | .sendArrive i => ins = .sendArrive i
  | .sendwArrive i => ins = .sendwArrive i
  | .depositArrive i => ins = .depositArrive i
  | .msgAck i => ins = .msgAck i
  | .interruptPacketArrive i => ins = .interruptPacketArrive i
  | .interruptTake tile ctx => ins = .interruptTake tile ctx
  | .scWindowResolve window => ins = .scWindowResolve window
  | .firstBarrierComplete forme => ins = .firstBarrierComplete forme
  | .exchangeEntrySend tile => ins = .exchangeEntrySend tile
  | .exchangeWriteLand i => ins = .exchangeWriteLand i
  | .secondBarrierComplete forme => ins = .secondBarrierComplete forme
  | .bankSwap tile => ins = .bankSwap tile
  | .groupBarrierComplete forme block => ins = .groupBarrierComplete forme block
  | .fpxCollection forme window => ins = .fpxCollection forme window
  | .wdog forme => ins = .wdog forme
  | .throughLaneForward tile conn => ins = .throughLaneForward tile conn
  | .edgeFlitArrive i => ins = .edgeFlitArrive i
  | .holdArrive i => ins = .holdArrive i
  | .tickUpdateSend die => ins = .tickUpdateSend die
  | .tickUpdateArrive i => ins = .tickUpdateArrive i
  | .register queue => ins = .register queue
  | .unregister queue => ins = .unregister queue
  | .launch queue => ins = .launch queue
  | .makeReady forme => ins = .makeReady forme
  | .stop queue => ins = .stop queue
  | .preempt queue => ins = .preempt queue
  | .contextSave forme => ins = .contextSave forme
  | .resume queue => ins = .resume queue
  | .kill queue => ins = .kill queue
  | .copy queue => ins = .copy queue
  | .mapcmd queue => ins = .mapcmd queue
  | .nopRecord queue => ins = .nopRecord queue
  | .intr queue => ins = .intr queue
  | .hqtailWrite queue val => ins = .hqtailWrite queue val
  | .recordFetch queue => ins = .recordFetch queue
  | .recordAccept queue => ins = .recordAccept queue
  | .tailwordPoll queue => ins = .tailwordPoll queue
  | .queueEnable queue cfg => ins = .queueEnable queue cfg
  | .queueDestroy queue => ins = .queueDestroy queue
  | .attgo => ins = .attgo
  | .barRegisterWrite off val => ins = .barRegisterWrite off val
  | .traceFrameWrite tile => ins = .traceFrameWrite tile
  | .functionLevelReset => ins = .functionLevelReset
  | .powerOn => ins = .powerOn
  | .clusterRamp die => ins = .clusterRamp die
  | .thermalThrottle die => ins = .thermalThrottle die
  | .throttleClear die => ins = .throttleClear die
  | .thermalFatal die => ins = .thermalFatal die
  | .uncorrectableError site => ins = .uncorrectableError site
  | .scrub found => ins = .scrub found
  | .linkDown port => ins = .linkDown port
  | .localTick die => ins = .localTick die
  | .eventRecordWrite => ins = .eventRecordWrite
  | .rangeOperationComplete tile ctx => ins = .rangeOperationComplete tile ctx
  | .tlrdReply tile ctx => ins = .tlrdReply tile ctx
  | .taintLineReadReply tile ctx => ins = .taintLineReadReply tile ctx
  | .rollbackCounterRaise val => ins = .rollbackCounterRaise val

/-- R172, R192, R193, R380, R424 and Table 13-1: the package at power-on. No die has brought up a cluster, every L, P and estimate is 0,
each die's neighbours are the two that share an edge with it (R9); DSTATE, FEATMASK, PKGCFG, the rings, the queues and ERRCNT are at
their reset values; no forme holds a tile, no image is registered, no page is mapped, no interleave domain is set, and no
request, packet, flit or exception is outstanding. -/
def Obligations.ResetState : Prop :=
  (∀ d < 4, (State.reset.die d).l = 0 ∧ (State.reset.die d).p = 0 ∧ (State.reset.die d).ramped = 0 ∧ (State.reset.die d).throt = false ∧
    (State.reset.die d).cap = 0 ∧ ∀ e, (∃ x, (e, x) ∈ (State.reset.die d).est) ↔ (e < 4 ∧ e ≠ d ∧ e ≠ 3 - d)) ∧
  State.reset.host.dstate = 0 ∧ State.reset.host.featmask = 0 ∧ State.reset.host.pkgcfg = 0 ∧ State.reset.host.errCorr = 0 ∧ State.reset.host.errPoison = 0 ∧
  State.reset.host.ev.en = false ∧ State.reset.host.pr.en = false ∧ State.reset.host.attst = false ∧
  (∀ q < 64, State.reset.barRead (0x10000 + 64 * q + 0x08) = 0 ∧ State.reset.barRead (0x10000 + 64 * q + 0x20) = 0 ∧ (State.reset.queue q).accepted = []) ∧
  State.reset.tiles = [] ∧ State.reset.formes = [] ∧ State.reset.images = [] ∧ (∀ d < 16, vget State.reset.hashdom d 0 = 0) ∧
  (∀ c < 12, (State.reset.ctl c).roots = [] ∧ (State.reset.ctl c).leaves = []) ∧ State.reset.reqs = [] ∧ State.reset.net = [] ∧ State.reset.edge = [] ∧
  State.reset.fatal = none ∧ State.reset.powered = false

/-- R28, R60, R73, R124, R172, R429 and R435, with log entries 3 and 27 for whose move it is: a step runs the decoded instruction. Where it
is a core's move, the core turns to the context that issued last while that one acts, has made no off-core reference and
waits for nothing but the core's own units, and otherwise to the next in ring order that can issue. Where that context issues, the word at its PC is
fetched; a word that encodes an instruction is run as that instruction, and one that encodes none raises ILLOP with the
word in TVAL; a fetch that fails delivers its fault; a fetch that misses L1I fills the line and the instruction runs at
its context's next turn, and one of a poisoned granule is FREEZE. A context that is barred from issue, or has a fault to take first,
does that instead. noteTurn records which context issued and whether issue passes on. Where it is a switch's move
its current word is run, and where it is an event's the step of its name; any stalled context tries again afterwards. With the rails cut nothing moves but
POWER_ON, and without power and firmware that the boot ROM accepts nothing does. -/
def Obligations.StepRunsTheInstruction : Prop :=
  (∀ (s : State) (p : Nat) (r : List Move) (t : Tile) (c : Fin 4), s.moves = .core p :: r → s.railsCut = false → s.powered = true →
    let s1 : State := { s with moves := r }
    let s2 := s1.turn p c
    s1.tileAt p = some t → s1.pick t = some c → gate s2 = .go →
    (∀ w u i, fetch s2 = (.ok w, u) → u.tile.l1i = s2.tile.l1i → decode w.toNat = .ok i →
      step s = noteTurn s2 t c (exec i u)) ∧
    (∀ w u x, fetch s2 = (.ok w, u) → u.tile.l1i = s2.tile.l1i → decode w.toNat = .error x →
      ∃ e, e.code = 0x01 ∧ e.tval = w.setWidth 64 ∧ e.ipc = s2.ctx.pc ∧ step s = noteTurn s2 t c (.next (s2.deliverIn u e))) ∧
    (∀ w u, fetch s2 = (.ok w, u) → s2.tile.l1i ≠ u.tile.l1i → step s = noteTurn s2 t c (.next u)) ∧
    (∀ e u, fetch s2 = (.error e, u) → step s = noteTurn s2 t c (.next (s2.deliverIn u e)))) ∧
  (∀ (s : State) (p : Nat) (r : List Move) (t : Tile) (c : Fin 4), s.moves = .core p :: r → s.railsCut = false → s.powered = true →
    let s1 : State := { s with moves := r }
    let s2 := s1.turn p c
    s1.tileAt p = some t → s1.pick t = some c →
    (∀ st, gate s2 = .closed st → step s = noteTurn s2 t c (.next (s2.held st))) ∧
    (∀ e u, gate s2 = .fault e u → step s = noteTurn s2 t c (.next (s2.deliverIn u e)))) ∧
  (∀ (s : State) (m : Move) (r : List Move), s.moves = m :: r →
    (s.railsCut = true → m ≠ .event .powerOn → step s = .fault .railsCut) ∧
    (s.railsCut = false → s.powered = false → s.fwAccepted = false → step s = .fault .noFirmware)) ∧
  (∀ (s : State) (t : Tile), t.offCore = false → gate (s.as t.phys t.issuing) ≠ .idle →
    ((t.ctxs[t.issuing]).stall = none ∨ ∃ x ∈ [Stall.muldiv, .near, .matrix], (t.ctxs[t.issuing]).stall = some x) → s.pick t = some t.issuing) ∧
  (∀ (s : State) (t : Tile) (i : Nat) (c : Fin 4), (t.offCore = true ∨ gate (s.as t.phys t.issuing) = .idle ∨
      ∃ x, (t.ctxs[t.issuing]).stall = some x ∧ x ∉ [Stall.muldiv, .near, .matrix]) → i < 4 →
    c.val = (t.issuing.val + i + 1) % 4 → gate (s.as t.phys c) ≠ .idle → (t.ctxs[c]).stall = none →
    (∀ (j : Nat) (d : Fin 4), j < i → d.val = (t.issuing.val + j + 1) % 4 → gate (s.as t.phys d) = .idle ∨ (t.ctxs[d]).stall ≠ none) →
    s.pick t = some c) ∧
  (∀ (t u : Tile) (c : Fin 4) (x : Bool), (u.ctxs[c]).stall = none → (t.noteIssue u c x).issuing = c) ∧
  (∀ (t u : Tile) (c : Fin 4) (x : Bool),
    x = true ∨ (u.ctxs[c]).wait.open = false ∨ (u.ctxs[c]).stall = some .port ∨ (u.ctxs[c]).stall = some .mem →
    (t.noteIssue u c x).offCore = true) ∧
  (∀ (s : State) (i : Nat) (sp : Span) (l : L1Line), s.ctx.fetched = [] → checkAccess s .fetch s.ctx.pc 4 = .ok (.span i sp) →
    s.tile.l1i.find? (fun l => l.asid == s.forme.asid && l.line == s.ctx.pc.toNat / 64) = some l →
    (lineTaint l.poison (s.ctx.pc.toNat % 64) 4 = false → fetch s = (.ok (l.data.extractLsb' (8 * (s.ctx.pc.toNat % 64)) 32), s)) ∧
    (lineTaint l.poison (s.ctx.pc.toNat % 64) 4 = true → ∃ e, e.code = cFREEZE ∧ fetch s = (.error e, s))) ∧
  (∀ (s : State) (p : Nat) (r : List Move) (i : Instr) (t : State), s.moves = .switch p :: r → s.railsCut = false → s.powered = true →
    (s.tileD p).sw.word = some i → exec i (({ s with moves := r } : State).as p s.actor.ctx) = .next t → step s = .next t.wakeAll) ∧
  (∀ (s : State) (e : Event) (r : List Move) (i : Instr) (t : State), s.moves = .event e :: r → s.railsCut = false → s.powered = true →
    EventIs e i → exec i { s with moves := r } = .next t → step s = .next t.wakeAll)

/-- Words written out from the encodings of chapter 2, Tables 2-3 to 2-11, and of route words from chapter 6, Tables 6-3 to
6-6: the decoder reads from each the instruction that it stands for. -/
def Sys2Proof.Claims.WrittenWordsDecode : Prop :=
  decode 0x02EA4401 = .ok (.add 46 41 4) ∧ decode 0x54518F02 = .ok (.ld 5 6 3 6 2) ∧ decode 0x3451FFFF = .ok (.bne 5 7 16383) ∧
  decode 0x2C914622 = .ok (.mulh 9 5 6 2) ∧ decode 0x49F00010 = .ok (.jal 31 16) ∧ decode 0x5C72E002 = .ok (.st 7 11 2 2) ∧
  decode 0x70518725 = .ok (.amoDAdd 5 6 7 1 1) ∧ decode 0x7800005A = .ok (.fence 3 1) ∧ decode 0x7C014601 = .ok (.send 5 6) ∧
  decode 0x84014602 = .ok (.tpost 5 6) ∧ decode 0xD401A000 = .ok (.csrs 6 0) ∧ decode 0xD8000501 = .ok (.trap 0 5) ∧
  decode 0xD0518701 = .ok (.ecpy 5 6 7) ∧ decode 0x8810831D = .ok (.vfadd 1 2 3 7 1) ∧
  decode 0xA05A4004 = .ok (.vfsum 5 41 1 0) ∧ decode 0xBC304204 = .ok (.vqnt 3 1 2 1 0) ∧
  decode 0xC1040400 = .ok (.pfx 4 1 0 1 0 0) ∧ decode 0xC8228B01 = .ok (.mmac 2 10 11) ∧
  decode 0xAC21804E = .ok (.vld 2 6 0 4 7 0) ∧ decodeRoute 0x11400000 = .ok (.route 0 5 0 0 0 0 0 0 0) ∧
  decodeRoute 0x110008A4 = .ok (.route 0 4 0 0 0 1 0 5 1) ∧ decodeRoute 0x21404004 = .ok (.rep 0 5 0 0 4 4) ∧
  decodeRoute 0x815C0000 = .ok (.bus 0 5 7 0) ∧ decodeRoute 0x300C0064 = .ok (.ring 0 3 100) ∧
  decodeRoute 0x54000010 = .ok (.bnz 1 16) ∧ decodeRoute 0x68000007 = .ok (.setc 2 7) ∧
  decodeRoute 0x78000120 = .ok (.tkwt 1 288)

/-- i is a route word of a switch. -/
def Sys2Proof.Claims.isRoute (i : Instr) : Bool :=
  match i with
  | .route _ _ _ _ _ _ _ _ _ | .rep _ _ _ _ _ _ | .ring _ _ _ | .jmp _ | .bnz _ _ | .setc _ _ | .tkwt _ _ | .bus _ _ _ _ | .switchHalt | .nop => true
  | _ => false

/-- Decode and encode agree, for every well-formed instruction that has a word: with every operand at every value that its encoding admits, the
word is of 32 bits and is read back as that instruction, by the core's decoder, or for a route word by the switch's. -/
def Sys2Proof.Claims.EncodedWordsAreRead : Prop :=
  ∀ (i : Instr) (w : Nat), i.WellFormed → encode i = some w →
    w < 2 ^ 32 ∧ (isRoute i = false → decode w = .ok i) ∧ (isRoute i = true → decodeRoute w = .ok i)

/-- R48 and R49: every word that either decoder accepts is the one word of the instruction that it reads, so that every bit of it counts: a
word with a Z bit set, or of an encoding that no table assigns, is refused. -/
def Sys2Proof.Claims.AcceptedWordsAreEncodings : Prop :=
  ∀ (w : Nat) (i : Instr), w < 2 ^ 32 →
    (decode w = .ok i → encode i = some w ∧ isRoute i = false) ∧ (decodeRoute w = .ok i → encode i = some w ∧ isRoute i = true)

/-- Decoding the word of a well-formed instruction gives it back, and an accepted word is that of what it reads:
EncodedWordsAreRead and AcceptedWordsAreEncodings together. Derived from spec/02_encoding.md: Formats;
spec/02_encoding.md: Opcode map; spec/06_fabric.md: The switch. -/
def Obligations.DecodeOfEncode : Prop := EncodedWordsAreRead ∧ AcceptedWordsAreEncodings

/-- The function field of each major that has one, its first bit and width, and the codes that Table 2-9 assigns: from the first
to the last. Major MLD has 1, 2 and 17. -/
def Sys2Proof.Claims.functionTable : List (Nat × Nat × Nat × Nat × Nat) :=
  [(0x00, 0, 8, 1, 26), (0x08, 12, 2, 1, 3), (0x0B, 0, 4, 1, 11), (0x14, 0, 8, 1, 4), (0x19, 0, 8, 1, 6), (0x1A, 0, 4, 1, 3),
   (0x1B, 4, 4, 1, 10), (0x1C, 4, 4, 1, 10), (0x1D, 0, 8, 1, 10), (0x1E, 6, 2, 1, 3), (0x1F, 0, 8, 1, 6), (0x20, 0, 8, 1, 4),
   (0x21, 0, 8, 1, 3), (0x23, 5, 3, 0, 6), (0x2A, 5, 3, 0, 4), (0x2E, 5, 3, 0, 2), (0x2F, 5, 3, 0, 3), (0x32, 0, 8, 1, 2),
   (0x33, 0, 4, 1, 4), (0x34, 0, 8, 1, 4), (0x36, 0, 8, 1, 8), (0x37, 0, 8, 1, 4)]

/-- R49 and Table 2-5: the encodings that are no instruction are refused, in every major: a function code that Table 2-9 does not assign, SZ = 7 in a load, OP
0x38 and above, the all-zero word, a CSR number that the CSR map does not assign, and a write of one that is read only; a route word's OP 0 and above 10. A
refused word raises ILLOP where it is fetched (StepRunsTheInstruction). -/
def Sys2Proof.Claims.ReservedWordsAreRefused : Prop :=
  (∀ w, ∀ m ∈ functionTable, fld w 26 6 = m.1 → (fld w m.2.1 m.2.2.1 < m.2.2.2.1 ∨ m.2.2.2.2 < fld w m.2.1 m.2.2.1) → decode w = .error .function) ∧
  (∀ w, fld w 26 6 = 0x31 → fld w 0 8 ∉ [1, 2, 17] → decode w = .error .function) ∧
  (∀ w, fld w 26 6 = 0x15 → fld w 7 3 = 7 → decode w = .error .size) ∧ (∀ w, fld w 26 6 = 0x16 → fld w 1 3 = 7 → decode w = .error .size) ∧
  (∀ w, 0x38 ≤ fld w 26 6 → decode w = .error .major) ∧ decode 0 = .error .function ∧
  (∀ w, fld w 26 6 = 0x35 → csrAssigned (fld w 0 10) = false → ∃ e, decode w = .error e) ∧
  (∀ w, fld w 26 6 = 0x35 → fld w 12 2 ≠ 0 → csrReadOnly (fld w 0 10) = true → ∃ e, decode w = .error e) ∧
  (∀ w, (fld w 28 4 = 0 ∨ 10 < fld w 28 4) → decodeRoute w = .error .major)

/-- Words written out from the encoding tables decode; encodings of no instruction are refused: WrittenWordsDecode and
ReservedWordsAreRefused together. Derived from spec/02_encoding.md: Opcode map; spec/02_encoding.md: Spare bits and
reserved values; spec/06_fabric.md: The switch. -/
def Obligations.WordsDecode : Prop := WrittenWordsDecode ∧ ReservedWordsAreRefused

/-- Every memory of the power-on state is in canonical form. -/
def Obligations.CanonicalHoldsAtReset : Prop := Canonical State.reset

/-- Every step keeps every memory in canonical form: device memory, the host's, other packages', and main store and both banks of
every tile, held by a forme or idle. -/
def Obligations.CanonicalKeptByEveryStep : Prop :=
  ∀ s t : State, Canonical s → step s = .next t → Canonical t
end

