-- ==== Sys2Proof/Laws/State.lean ====
section
/-! SUPPORT. What each update of the state leaves alone, field by field: true by rfl, and tagged so that no later proof
unfolds a record update. -/

namespace Sys2Proof.Machine

/-! ### A change of one tile -/

@[simp] theorem State.modTile_idle (s : State) (p : Nat) (f : Tile → Tile) : (s.modTile p f).idle = s.idle := rfl
@[simp] theorem State.modTile_formes (s : State) (p : Nat) (f : Tile → Tile) : (s.modTile p f).formes = s.formes := rfl
@[simp] theorem State.modTile_images (s : State) (p : Nat) (f : Tile → Tile) : (s.modTile p f).images = s.images := rfl
@[simp] theorem State.modTile_dies (s : State) (p : Nat) (f : Tile → Tile) : (s.modTile p f).dies = s.dies := rfl
@[simp] theorem State.modTile_ctls (s : State) (p : Nat) (f : Tile → Tile) : (s.modTile p f).ctls = s.ctls := rfl
@[simp] theorem State.modTile_engs (s : State) (p : Nat) (f : Tile → Tile) : (s.modTile p f).engs = s.engs := rfl
@[simp] theorem State.modTile_streams (s : State) (p : Nat) (f : Tile → Tile) : (s.modTile p f).streams = s.streams := rfl
@[simp] theorem State.modTile_l2 (s : State) (p : Nat) (f : Tile → Tile) : (s.modTile p f).l2 = s.l2 := rfl
@[simp] theorem State.modTile_ofu (s : State) (p : Nat) (f : Tile → Tile) : (s.modTile p f).ofu = s.ofu := rfl
@[simp] theorem State.modTile_reqs (s : State) (p : Nat) (f : Tile → Tile) : (s.modTile p f).reqs = s.reqs := rfl
@[simp] theorem State.modTile_nextReq (s : State) (p : Nat) (f : Tile → Tile) : (s.modTile p f).nextReq = s.nextReq := rfl
@[simp] theorem State.modTile_pushes (s : State) (p : Nat) (f : Tile → Tile) : (s.modTile p f).pushes = s.pushes := rfl
@[simp] theorem State.modTile_hashdom (s : State) (p : Nat) (f : Tile → Tile) : (s.modTile p f).hashdom = s.hashdom := rfl
@[simp] theorem State.modTile_domTaint (s : State) (p : Nat) (f : Tile → Tile) : (s.modTile p f).domTaint = s.domTaint := rfl
@[simp] theorem State.modTile_domWrites (s : State) (p : Nat) (f : Tile → Tile) : (s.modTile p f).domWrites = s.domWrites := rfl
@[simp] theorem State.modTile_hbm (s : State) (p : Nat) (f : Tile → Tile) : (s.modTile p f).hbm = s.hbm := rfl
@[simp] theorem State.modTile_hbmTaint (s : State) (p : Nat) (f : Tile → Tile) : (s.modTile p f).hbmTaint = s.hbmTaint := rfl
@[simp] theorem State.modTile_hbmPoison (s : State) (p : Nat) (f : Tile → Tile) : (s.modTile p f).hbmPoison = s.hbmPoison := rfl
@[simp] theorem State.modTile_hostMem (s : State) (p : Nat) (f : Tile → Tile) : (s.modTile p f).hostMem = s.hostMem := rfl
@[simp] theorem State.modTile_remoteMem (s : State) (p : Nat) (f : Tile → Tile) : (s.modTile p f).remoteMem = s.remoteMem := rfl
@[simp] theorem State.modTile_remoteFail (s : State) (p : Nat) (f : Tile → Tile) : (s.modTile p f).remoteFail = s.remoteFail := rfl
@[simp] theorem State.modTile_linkDown (s : State) (p : Nat) (f : Tile → Tile) : (s.modTile p f).linkDown = s.linkDown := rfl
@[simp] theorem State.modTile_net (s : State) (p : Nat) (f : Tile → Tile) : (s.modTile p f).net = s.net := rfl
@[simp] theorem State.modTile_acks (s : State) (p : Nat) (f : Tile → Tile) : (s.modTile p f).acks = s.acks := rfl
@[simp] theorem State.modTile_ticks (s : State) (p : Nat) (f : Tile → Tile) : (s.modTile p f).ticks = s.ticks := rfl
@[simp] theorem State.modTile_edge (s : State) (p : Nat) (f : Tile → Tile) : (s.modTile p f).edge = s.edge := rfl
@[simp] theorem State.modTile_holds (s : State) (p : Nat) (f : Tile → Tile) : (s.modTile p f).holds = s.holds := rfl
@[simp] theorem State.modTile_sc (s : State) (p : Nat) (f : Tile → Tile) : (s.modTile p f).sc = s.sc := rfl
@[simp] theorem State.modTile_nextSc (s : State) (p : Nat) (f : Tile → Tile) : (s.modTile p f).nextSc = s.nextSc := rfl
@[simp] theorem State.modTile_mapq (s : State) (p : Nat) (f : Tile → Tile) : (s.modTile p f).mapq = s.mapq := rfl
@[simp] theorem State.modTile_host (s : State) (p : Nat) (f : Tile → Tile) : (s.modTile p f).host = s.host := rfl
@[simp] theorem State.modTile_gens (s : State) (p : Nat) (f : Tile → Tile) : (s.modTile p f).gens = s.gens := rfl
@[simp] theorem State.modTile_fatal (s : State) (p : Nat) (f : Tile → Tile) : (s.modTile p f).fatal = s.fatal := rfl
@[simp] theorem State.modTile_powered (s : State) (p : Nat) (f : Tile → Tile) : (s.modTile p f).powered = s.powered := rfl
@[simp] theorem State.modTile_railsCut (s : State) (p : Nat) (f : Tile → Tile) : (s.modTile p f).railsCut = s.railsCut := rfl
@[simp] theorem State.modTile_fuses (s : State) (p : Nat) (f : Tile → Tile) : (s.modTile p f).fuses = s.fuses := rfl
@[simp] theorem State.modTile_firmware (s : State) (p : Nat) (f : Tile → Tile) : (s.modTile p f).firmware = s.firmware := rfl
@[simp] theorem State.modTile_crash (s : State) (p : Nat) (f : Tile → Tile) : (s.modTile p f).crash = s.crash := rfl
@[simp] theorem State.modTile_free (s : State) (p : Nat) (f : Tile → Tile) : (s.modTile p f).free = s.free := rfl
@[simp] theorem State.modTile_actor (s : State) (p : Nat) (f : Tile → Tile) : (s.modTile p f).actor = s.actor := rfl
@[simp] theorem State.modTile_moves (s : State) (p : Nat) (f : Tile → Tile) : (s.modTile p f).moves = s.moves := rfl

/-! ### A change of one forme -/

@[simp] theorem State.modForme_tiles (s : State) (p : Nat) (g : Forme → Forme) : (s.modForme p g).tiles = s.tiles := rfl
@[simp] theorem State.modForme_idle (s : State) (p : Nat) (g : Forme → Forme) : (s.modForme p g).idle = s.idle := rfl
@[simp] theorem State.modForme_images (s : State) (p : Nat) (g : Forme → Forme) : (s.modForme p g).images = s.images := rfl
@[simp] theorem State.modForme_dies (s : State) (p : Nat) (g : Forme → Forme) : (s.modForme p g).dies = s.dies := rfl
@[simp] theorem State.modForme_ctls (s : State) (p : Nat) (g : Forme → Forme) : (s.modForme p g).ctls = s.ctls := rfl
@[simp] theorem State.modForme_engs (s : State) (p : Nat) (g : Forme → Forme) : (s.modForme p g).engs = s.engs := rfl
@[simp] theorem State.modForme_streams (s : State) (p : Nat) (g : Forme → Forme) : (s.modForme p g).streams = s.streams := rfl
@[simp] theorem State.modForme_l2 (s : State) (p : Nat) (g : Forme → Forme) : (s.modForme p g).l2 = s.l2 := rfl
@[simp] theorem State.modForme_ofu (s : State) (p : Nat) (g : Forme → Forme) : (s.modForme p g).ofu = s.ofu := rfl
@[simp] theorem State.modForme_reqs (s : State) (p : Nat) (g : Forme → Forme) : (s.modForme p g).reqs = s.reqs := rfl
@[simp] theorem State.modForme_nextReq (s : State) (p : Nat) (g : Forme → Forme) : (s.modForme p g).nextReq = s.nextReq := rfl
@[simp] theorem State.modForme_pushes (s : State) (p : Nat) (g : Forme → Forme) : (s.modForme p g).pushes = s.pushes := rfl
@[simp] theorem State.modForme_hashdom (s : State) (p : Nat) (g : Forme → Forme) : (s.modForme p g).hashdom = s.hashdom := rfl
@[simp] theorem State.modForme_domTaint (s : State) (p : Nat) (g : Forme → Forme) : (s.modForme p g).domTaint = s.domTaint := rfl
@[simp] theorem State.modForme_domWrites (s : State) (p : Nat) (g : Forme → Forme) : (s.modForme p g).domWrites = s.domWrites := rfl
@[simp] theorem State.modForme_hbm (s : State) (p : Nat) (g : Forme → Forme) : (s.modForme p g).hbm = s.hbm := rfl
@[simp] theorem State.modForme_hbmTaint (s : State) (p : Nat) (g : Forme → Forme) : (s.modForme p g).hbmTaint = s.hbmTaint := rfl
@[simp] theorem State.modForme_hbmPoison (s : State) (p : Nat) (g : Forme → Forme) : (s.modForme p g).hbmPoison = s.hbmPoison := rfl
@[simp] theorem State.modForme_hostMem (s : State) (p : Nat) (g : Forme → Forme) : (s.modForme p g).hostMem = s.hostMem := rfl
@[simp] theorem State.modForme_remoteMem (s : State) (p : Nat) (g : Forme → Forme) : (s.modForme p g).remoteMem = s.remoteMem := rfl
@[simp] theorem State.modForme_remoteFail (s : State) (p : Nat) (g : Forme → Forme) : (s.modForme p g).remoteFail = s.remoteFail := rfl
@[simp] theorem State.modForme_linkDown (s : State) (p : Nat) (g : Forme → Forme) : (s.modForme p g).linkDown = s.linkDown := rfl
@[simp] theorem State.modForme_net (s : State) (p : Nat) (g : Forme → Forme) : (s.modForme p g).net = s.net := rfl
@[simp] theorem State.modForme_acks (s : State) (p : Nat) (g : Forme → Forme) : (s.modForme p g).acks = s.acks := rfl
@[simp] theorem State.modForme_ticks (s : State) (p : Nat) (g : Forme → Forme) : (s.modForme p g).ticks = s.ticks := rfl
@[simp] theorem State.modForme_edge (s : State) (p : Nat) (g : Forme → Forme) : (s.modForme p g).edge = s.edge := rfl
@[simp] theorem State.modForme_holds (s : State) (p : Nat) (g : Forme → Forme) : (s.modForme p g).holds = s.holds := rfl
@[simp] theorem State.modForme_sc (s : State) (p : Nat) (g : Forme → Forme) : (s.modForme p g).sc = s.sc := rfl
@[simp] theorem State.modForme_nextSc (s : State) (p : Nat) (g : Forme → Forme) : (s.modForme p g).nextSc = s.nextSc := rfl
@[simp] theorem State.modForme_mapq (s : State) (p : Nat) (g : Forme → Forme) : (s.modForme p g).mapq = s.mapq := rfl
@[simp] theorem State.modForme_host (s : State) (p : Nat) (g : Forme → Forme) : (s.modForme p g).host = s.host := rfl
@[simp] theorem State.modForme_gens (s : State) (p : Nat) (g : Forme → Forme) : (s.modForme p g).gens = s.gens := rfl
@[simp] theorem State.modForme_fatal (s : State) (p : Nat) (g : Forme → Forme) : (s.modForme p g).fatal = s.fatal := rfl
@[simp] theorem State.modForme_powered (s : State) (p : Nat) (g : Forme → Forme) : (s.modForme p g).powered = s.powered := rfl
@[simp] theorem State.modForme_railsCut (s : State) (p : Nat) (g : Forme → Forme) : (s.modForme p g).railsCut = s.railsCut := rfl
@[simp] theorem State.modForme_fuses (s : State) (p : Nat) (g : Forme → Forme) : (s.modForme p g).fuses = s.fuses := rfl
@[simp] theorem State.modForme_firmware (s : State) (p : Nat) (g : Forme → Forme) : (s.modForme p g).firmware = s.firmware := rfl
@[simp] theorem State.modForme_crash (s : State) (p : Nat) (g : Forme → Forme) : (s.modForme p g).crash = s.crash := rfl
@[simp] theorem State.modForme_free (s : State) (p : Nat) (g : Forme → Forme) : (s.modForme p g).free = s.free := rfl
@[simp] theorem State.modForme_actor (s : State) (p : Nat) (g : Forme → Forme) : (s.modForme p g).actor = s.actor := rfl
@[simp] theorem State.modForme_moves (s : State) (p : Nat) (g : Forme → Forme) : (s.modForme p g).moves = s.moves := rfl

/-! ### A change of one die -/

@[simp] theorem State.modDie_tiles (s : State) (d : Nat) (f : Die → Die) : (s.modDie d f).tiles = s.tiles := rfl
@[simp] theorem State.modDie_idle (s : State) (d : Nat) (f : Die → Die) : (s.modDie d f).idle = s.idle := rfl
@[simp] theorem State.modDie_formes (s : State) (d : Nat) (f : Die → Die) : (s.modDie d f).formes = s.formes := rfl
@[simp] theorem State.modDie_images (s : State) (d : Nat) (f : Die → Die) : (s.modDie d f).images = s.images := rfl
@[simp] theorem State.modDie_ctls (s : State) (d : Nat) (f : Die → Die) : (s.modDie d f).ctls = s.ctls := rfl
@[simp] theorem State.modDie_engs (s : State) (d : Nat) (f : Die → Die) : (s.modDie d f).engs = s.engs := rfl
@[simp] theorem State.modDie_streams (s : State) (d : Nat) (f : Die → Die) : (s.modDie d f).streams = s.streams := rfl
@[simp] theorem State.modDie_l2 (s : State) (d : Nat) (f : Die → Die) : (s.modDie d f).l2 = s.l2 := rfl
@[simp] theorem State.modDie_ofu (s : State) (d : Nat) (f : Die → Die) : (s.modDie d f).ofu = s.ofu := rfl
@[simp] theorem State.modDie_reqs (s : State) (d : Nat) (f : Die → Die) : (s.modDie d f).reqs = s.reqs := rfl
@[simp] theorem State.modDie_nextReq (s : State) (d : Nat) (f : Die → Die) : (s.modDie d f).nextReq = s.nextReq := rfl
@[simp] theorem State.modDie_pushes (s : State) (d : Nat) (f : Die → Die) : (s.modDie d f).pushes = s.pushes := rfl
@[simp] theorem State.modDie_hashdom (s : State) (d : Nat) (f : Die → Die) : (s.modDie d f).hashdom = s.hashdom := rfl
@[simp] theorem State.modDie_domTaint (s : State) (d : Nat) (f : Die → Die) : (s.modDie d f).domTaint = s.domTaint := rfl
@[simp] theorem State.modDie_domWrites (s : State) (d : Nat) (f : Die → Die) : (s.modDie d f).domWrites = s.domWrites := rfl
@[simp] theorem State.modDie_hbm (s : State) (d : Nat) (f : Die → Die) : (s.modDie d f).hbm = s.hbm := rfl
@[simp] theorem State.modDie_hbmTaint (s : State) (d : Nat) (f : Die → Die) : (s.modDie d f).hbmTaint = s.hbmTaint := rfl
@[simp] theorem State.modDie_hbmPoison (s : State) (d : Nat) (f : Die → Die) : (s.modDie d f).hbmPoison = s.hbmPoison := rfl
@[simp] theorem State.modDie_hostMem (s : State) (d : Nat) (f : Die → Die) : (s.modDie d f).hostMem = s.hostMem := rfl
@[simp] theorem State.modDie_remoteMem (s : State) (d : Nat) (f : Die → Die) : (s.modDie d f).remoteMem = s.remoteMem := rfl
@[simp] theorem State.modDie_remoteFail (s : State) (d : Nat) (f : Die → Die) : (s.modDie d f).remoteFail = s.remoteFail := rfl
@[simp] theorem State.modDie_linkDown (s : State) (d : Nat) (f : Die → Die) : (s.modDie d f).linkDown = s.linkDown := rfl
@[simp] theorem State.modDie_net (s : State) (d : Nat) (f : Die → Die) : (s.modDie d f).net = s.net := rfl
@[simp] theorem State.modDie_acks (s : State) (d : Nat) (f : Die → Die) : (s.modDie d f).acks = s.acks := rfl
@[simp] theorem State.modDie_ticks (s : State) (d : Nat) (f : Die → Die) : (s.modDie d f).ticks = s.ticks := rfl
@[simp] theorem State.modDie_edge (s : State) (d : Nat) (f : Die → Die) : (s.modDie d f).edge = s.edge := rfl
@[simp] theorem State.modDie_holds (s : State) (d : Nat) (f : Die → Die) : (s.modDie d f).holds = s.holds := rfl
@[simp] theorem State.modDie_sc (s : State) (d : Nat) (f : Die → Die) : (s.modDie d f).sc = s.sc := rfl
@[simp] theorem State.modDie_nextSc (s : State) (d : Nat) (f : Die → Die) : (s.modDie d f).nextSc = s.nextSc := rfl
@[simp] theorem State.modDie_mapq (s : State) (d : Nat) (f : Die → Die) : (s.modDie d f).mapq = s.mapq := rfl
@[simp] theorem State.modDie_host (s : State) (d : Nat) (f : Die → Die) : (s.modDie d f).host = s.host := rfl
@[simp] theorem State.modDie_gens (s : State) (d : Nat) (f : Die → Die) : (s.modDie d f).gens = s.gens := rfl
@[simp] theorem State.modDie_fatal (s : State) (d : Nat) (f : Die → Die) : (s.modDie d f).fatal = s.fatal := rfl
@[simp] theorem State.modDie_powered (s : State) (d : Nat) (f : Die → Die) : (s.modDie d f).powered = s.powered := rfl
@[simp] theorem State.modDie_railsCut (s : State) (d : Nat) (f : Die → Die) : (s.modDie d f).railsCut = s.railsCut := rfl
@[simp] theorem State.modDie_fuses (s : State) (d : Nat) (f : Die → Die) : (s.modDie d f).fuses = s.fuses := rfl
@[simp] theorem State.modDie_firmware (s : State) (d : Nat) (f : Die → Die) : (s.modDie d f).firmware = s.firmware := rfl
@[simp] theorem State.modDie_crash (s : State) (d : Nat) (f : Die → Die) : (s.modDie d f).crash = s.crash := rfl
@[simp] theorem State.modDie_free (s : State) (d : Nat) (f : Die → Die) : (s.modDie d f).free = s.free := rfl
@[simp] theorem State.modDie_actor (s : State) (d : Nat) (f : Die → Die) : (s.modDie d f).actor = s.actor := rfl
@[simp] theorem State.modDie_moves (s : State) (d : Nat) (f : Die → Die) : (s.modDie d f).moves = s.moves := rfl

/-! ### A change of one controller -/

@[simp] theorem State.modCtl_tiles (s : State) (c : Nat) (f : Controller → Controller) : (s.modCtl c f).tiles = s.tiles := rfl
@[simp] theorem State.modCtl_idle (s : State) (c : Nat) (f : Controller → Controller) : (s.modCtl c f).idle = s.idle := rfl
@[simp] theorem State.modCtl_formes (s : State) (c : Nat) (f : Controller → Controller) : (s.modCtl c f).formes = s.formes := rfl
@[simp] theorem State.modCtl_images (s : State) (c : Nat) (f : Controller → Controller) : (s.modCtl c f).images = s.images := rfl
@[simp] theorem State.modCtl_dies (s : State) (c : Nat) (f : Controller → Controller) : (s.modCtl c f).dies = s.dies := rfl
@[simp] theorem State.modCtl_engs (s : State) (c : Nat) (f : Controller → Controller) : (s.modCtl c f).engs = s.engs := rfl
@[simp] theorem State.modCtl_streams (s : State) (c : Nat) (f : Controller → Controller) : (s.modCtl c f).streams = s.streams := rfl
@[simp] theorem State.modCtl_l2 (s : State) (c : Nat) (f : Controller → Controller) : (s.modCtl c f).l2 = s.l2 := rfl
@[simp] theorem State.modCtl_ofu (s : State) (c : Nat) (f : Controller → Controller) : (s.modCtl c f).ofu = s.ofu := rfl
@[simp] theorem State.modCtl_reqs (s : State) (c : Nat) (f : Controller → Controller) : (s.modCtl c f).reqs = s.reqs := rfl
@[simp] theorem State.modCtl_nextReq (s : State) (c : Nat) (f : Controller → Controller) : (s.modCtl c f).nextReq = s.nextReq := rfl
@[simp] theorem State.modCtl_pushes (s : State) (c : Nat) (f : Controller → Controller) : (s.modCtl c f).pushes = s.pushes := rfl
@[simp] theorem State.modCtl_hashdom (s : State) (c : Nat) (f : Controller → Controller) : (s.modCtl c f).hashdom = s.hashdom := rfl
@[simp] theorem State.modCtl_domTaint (s : State) (c : Nat) (f : Controller → Controller) : (s.modCtl c f).domTaint = s.domTaint := rfl
@[simp] theorem State.modCtl_domWrites (s : State) (c : Nat) (f : Controller → Controller) : (s.modCtl c f).domWrites = s.domWrites := rfl
@[simp] theorem State.modCtl_hbm (s : State) (c : Nat) (f : Controller → Controller) : (s.modCtl c f).hbm = s.hbm := rfl
@[simp] theorem State.modCtl_hbmTaint (s : State) (c : Nat) (f : Controller → Controller) : (s.modCtl c f).hbmTaint = s.hbmTaint := rfl
@[simp] theorem State.modCtl_hbmPoison (s : State) (c : Nat) (f : Controller → Controller) : (s.modCtl c f).hbmPoison = s.hbmPoison := rfl
@[simp] theorem State.modCtl_hostMem (s : State) (c : Nat) (f : Controller → Controller) : (s.modCtl c f).hostMem = s.hostMem := rfl
@[simp] theorem State.modCtl_remoteMem (s : State) (c : Nat) (f : Controller → Controller) : (s.modCtl c f).remoteMem = s.remoteMem := rfl
@[simp] theorem State.modCtl_remoteFail (s : State) (c : Nat) (f : Controller → Controller) : (s.modCtl c f).remoteFail = s.remoteFail := rfl
@[simp] theorem State.modCtl_linkDown (s : State) (c : Nat) (f : Controller → Controller) : (s.modCtl c f).linkDown = s.linkDown := rfl
@[simp] theorem State.modCtl_net (s : State) (c : Nat) (f : Controller → Controller) : (s.modCtl c f).net = s.net := rfl
@[simp] theorem State.modCtl_acks (s : State) (c : Nat) (f : Controller → Controller) : (s.modCtl c f).acks = s.acks := rfl
@[simp] theorem State.modCtl_ticks (s : State) (c : Nat) (f : Controller → Controller) : (s.modCtl c f).ticks = s.ticks := rfl
@[simp] theorem State.modCtl_edge (s : State) (c : Nat) (f : Controller → Controller) : (s.modCtl c f).edge = s.edge := rfl
@[simp] theorem State.modCtl_holds (s : State) (c : Nat) (f : Controller → Controller) : (s.modCtl c f).holds = s.holds := rfl
@[simp] theorem State.modCtl_sc (s : State) (c : Nat) (f : Controller → Controller) : (s.modCtl c f).sc = s.sc := rfl
@[simp] theorem State.modCtl_nextSc (s : State) (c : Nat) (f : Controller → Controller) : (s.modCtl c f).nextSc = s.nextSc := rfl
@[simp] theorem State.modCtl_mapq (s : State) (c : Nat) (f : Controller → Controller) : (s.modCtl c f).mapq = s.mapq := rfl
@[simp] theorem State.modCtl_host (s : State) (c : Nat) (f : Controller → Controller) : (s.modCtl c f).host = s.host := rfl
@[simp] theorem State.modCtl_gens (s : State) (c : Nat) (f : Controller → Controller) : (s.modCtl c f).gens = s.gens := rfl
@[simp] theorem State.modCtl_fatal (s : State) (c : Nat) (f : Controller → Controller) : (s.modCtl c f).fatal = s.fatal := rfl
@[simp] theorem State.modCtl_powered (s : State) (c : Nat) (f : Controller → Controller) : (s.modCtl c f).powered = s.powered := rfl
@[simp] theorem State.modCtl_railsCut (s : State) (c : Nat) (f : Controller → Controller) : (s.modCtl c f).railsCut = s.railsCut := rfl
@[simp] theorem State.modCtl_fuses (s : State) (c : Nat) (f : Controller → Controller) : (s.modCtl c f).fuses = s.fuses := rfl
@[simp] theorem State.modCtl_firmware (s : State) (c : Nat) (f : Controller → Controller) : (s.modCtl c f).firmware = s.firmware := rfl
@[simp] theorem State.modCtl_crash (s : State) (c : Nat) (f : Controller → Controller) : (s.modCtl c f).crash = s.crash := rfl
@[simp] theorem State.modCtl_free (s : State) (c : Nat) (f : Controller → Controller) : (s.modCtl c f).free = s.free := rfl
@[simp] theorem State.modCtl_actor (s : State) (c : Nat) (f : Controller → Controller) : (s.modCtl c f).actor = s.actor := rfl
@[simp] theorem State.modCtl_moves (s : State) (c : Nat) (f : Controller → Controller) : (s.modCtl c f).moves = s.moves := rfl

/-! ### A change of one queue -/

@[simp] theorem State.modQueue_tiles (s : State) (q : Nat) (f : HQueue → HQueue) : (s.modQueue q f).tiles = s.tiles := rfl
@[simp] theorem State.modQueue_idle (s : State) (q : Nat) (f : HQueue → HQueue) : (s.modQueue q f).idle = s.idle := rfl
@[simp] theorem State.modQueue_formes (s : State) (q : Nat) (f : HQueue → HQueue) : (s.modQueue q f).formes = s.formes := rfl
@[simp] theorem State.modQueue_images (s : State) (q : Nat) (f : HQueue → HQueue) : (s.modQueue q f).images = s.images := rfl
@[simp] theorem State.modQueue_dies (s : State) (q : Nat) (f : HQueue → HQueue) : (s.modQueue q f).dies = s.dies := rfl
@[simp] theorem State.modQueue_ctls (s : State) (q : Nat) (f : HQueue → HQueue) : (s.modQueue q f).ctls = s.ctls := rfl
@[simp] theorem State.modQueue_engs (s : State) (q : Nat) (f : HQueue → HQueue) : (s.modQueue q f).engs = s.engs := rfl
@[simp] theorem State.modQueue_streams (s : State) (q : Nat) (f : HQueue → HQueue) : (s.modQueue q f).streams = s.streams := rfl
@[simp] theorem State.modQueue_l2 (s : State) (q : Nat) (f : HQueue → HQueue) : (s.modQueue q f).l2 = s.l2 := rfl
@[simp] theorem State.modQueue_ofu (s : State) (q : Nat) (f : HQueue → HQueue) : (s.modQueue q f).ofu = s.ofu := rfl
@[simp] theorem State.modQueue_reqs (s : State) (q : Nat) (f : HQueue → HQueue) : (s.modQueue q f).reqs = s.reqs := rfl
@[simp] theorem State.modQueue_nextReq (s : State) (q : Nat) (f : HQueue → HQueue) : (s.modQueue q f).nextReq = s.nextReq := rfl
@[simp] theorem State.modQueue_pushes (s : State) (q : Nat) (f : HQueue → HQueue) : (s.modQueue q f).pushes = s.pushes := rfl
@[simp] theorem State.modQueue_hashdom (s : State) (q : Nat) (f : HQueue → HQueue) : (s.modQueue q f).hashdom = s.hashdom := rfl
@[simp] theorem State.modQueue_domTaint (s : State) (q : Nat) (f : HQueue → HQueue) : (s.modQueue q f).domTaint = s.domTaint := rfl
@[simp] theorem State.modQueue_domWrites (s : State) (q : Nat) (f : HQueue → HQueue) : (s.modQueue q f).domWrites = s.domWrites := rfl
@[simp] theorem State.modQueue_hbm (s : State) (q : Nat) (f : HQueue → HQueue) : (s.modQueue q f).hbm = s.hbm := rfl
@[simp] theorem State.modQueue_hbmTaint (s : State) (q : Nat) (f : HQueue → HQueue) : (s.modQueue q f).hbmTaint = s.hbmTaint := rfl
@[simp] theorem State.modQueue_hbmPoison (s : State) (q : Nat) (f : HQueue → HQueue) : (s.modQueue q f).hbmPoison = s.hbmPoison := rfl
@[simp] theorem State.modQueue_hostMem (s : State) (q : Nat) (f : HQueue → HQueue) : (s.modQueue q f).hostMem = s.hostMem := rfl
@[simp] theorem State.modQueue_remoteMem (s : State) (q : Nat) (f : HQueue → HQueue) : (s.modQueue q f).remoteMem = s.remoteMem := rfl
@[simp] theorem State.modQueue_remoteFail (s : State) (q : Nat) (f : HQueue → HQueue) : (s.modQueue q f).remoteFail = s.remoteFail := rfl
@[simp] theorem State.modQueue_linkDown (s : State) (q : Nat) (f : HQueue → HQueue) : (s.modQueue q f).linkDown = s.linkDown := rfl
@[simp] theorem State.modQueue_net (s : State) (q : Nat) (f : HQueue → HQueue) : (s.modQueue q f).net = s.net := rfl
@[simp] theorem State.modQueue_acks (s : State) (q : Nat) (f : HQueue → HQueue) : (s.modQueue q f).acks = s.acks := rfl
@[simp] theorem State.modQueue_ticks (s : State) (q : Nat) (f : HQueue → HQueue) : (s.modQueue q f).ticks = s.ticks := rfl
@[simp] theorem State.modQueue_edge (s : State) (q : Nat) (f : HQueue → HQueue) : (s.modQueue q f).edge = s.edge := rfl
@[simp] theorem State.modQueue_holds (s : State) (q : Nat) (f : HQueue → HQueue) : (s.modQueue q f).holds = s.holds := rfl
@[simp] theorem State.modQueue_sc (s : State) (q : Nat) (f : HQueue → HQueue) : (s.modQueue q f).sc = s.sc := rfl
@[simp] theorem State.modQueue_nextSc (s : State) (q : Nat) (f : HQueue → HQueue) : (s.modQueue q f).nextSc = s.nextSc := rfl
@[simp] theorem State.modQueue_mapq (s : State) (q : Nat) (f : HQueue → HQueue) : (s.modQueue q f).mapq = s.mapq := rfl
@[simp] theorem State.modQueue_gens (s : State) (q : Nat) (f : HQueue → HQueue) : (s.modQueue q f).gens = s.gens := rfl
@[simp] theorem State.modQueue_fatal (s : State) (q : Nat) (f : HQueue → HQueue) : (s.modQueue q f).fatal = s.fatal := rfl
@[simp] theorem State.modQueue_powered (s : State) (q : Nat) (f : HQueue → HQueue) : (s.modQueue q f).powered = s.powered := rfl
@[simp] theorem State.modQueue_railsCut (s : State) (q : Nat) (f : HQueue → HQueue) : (s.modQueue q f).railsCut = s.railsCut := rfl
@[simp] theorem State.modQueue_fuses (s : State) (q : Nat) (f : HQueue → HQueue) : (s.modQueue q f).fuses = s.fuses := rfl
@[simp] theorem State.modQueue_firmware (s : State) (q : Nat) (f : HQueue → HQueue) : (s.modQueue q f).firmware = s.firmware := rfl
@[simp] theorem State.modQueue_crash (s : State) (q : Nat) (f : HQueue → HQueue) : (s.modQueue q f).crash = s.crash := rfl
@[simp] theorem State.modQueue_free (s : State) (q : Nat) (f : HQueue → HQueue) : (s.modQueue q f).free = s.free := rfl
@[simp] theorem State.modQueue_actor (s : State) (q : Nat) (f : HQueue → HQueue) : (s.modQueue q f).actor = s.actor := rfl
@[simp] theorem State.modQueue_moves (s : State) (q : Nat) (f : HQueue → HQueue) : (s.modQueue q f).moves = s.moves := rfl

/-! ### Another actor -/

@[simp] theorem State.as_tiles (s : State) (p : Nat) (c : Fin 4) : (s.as p c).tiles = s.tiles := rfl
@[simp] theorem State.as_idle (s : State) (p : Nat) (c : Fin 4) : (s.as p c).idle = s.idle := rfl
@[simp] theorem State.as_formes (s : State) (p : Nat) (c : Fin 4) : (s.as p c).formes = s.formes := rfl
@[simp] theorem State.as_images (s : State) (p : Nat) (c : Fin 4) : (s.as p c).images = s.images := rfl
@[simp] theorem State.as_dies (s : State) (p : Nat) (c : Fin 4) : (s.as p c).dies = s.dies := rfl
@[simp] theorem State.as_ctls (s : State) (p : Nat) (c : Fin 4) : (s.as p c).ctls = s.ctls := rfl
@[simp] theorem State.as_engs (s : State) (p : Nat) (c : Fin 4) : (s.as p c).engs = s.engs := rfl
@[simp] theorem State.as_streams (s : State) (p : Nat) (c : Fin 4) : (s.as p c).streams = s.streams := rfl
@[simp] theorem State.as_l2 (s : State) (p : Nat) (c : Fin 4) : (s.as p c).l2 = s.l2 := rfl
@[simp] theorem State.as_ofu (s : State) (p : Nat) (c : Fin 4) : (s.as p c).ofu = s.ofu := rfl
@[simp] theorem State.as_reqs (s : State) (p : Nat) (c : Fin 4) : (s.as p c).reqs = s.reqs := rfl
@[simp] theorem State.as_nextReq (s : State) (p : Nat) (c : Fin 4) : (s.as p c).nextReq = s.nextReq := rfl
@[simp] theorem State.as_pushes (s : State) (p : Nat) (c : Fin 4) : (s.as p c).pushes = s.pushes := rfl
@[simp] theorem State.as_hashdom (s : State) (p : Nat) (c : Fin 4) : (s.as p c).hashdom = s.hashdom := rfl
@[simp] theorem State.as_domTaint (s : State) (p : Nat) (c : Fin 4) : (s.as p c).domTaint = s.domTaint := rfl
@[simp] theorem State.as_domWrites (s : State) (p : Nat) (c : Fin 4) : (s.as p c).domWrites = s.domWrites := rfl
@[simp] theorem State.as_hbm (s : State) (p : Nat) (c : Fin 4) : (s.as p c).hbm = s.hbm := rfl
@[simp] theorem State.as_hbmTaint (s : State) (p : Nat) (c : Fin 4) : (s.as p c).hbmTaint = s.hbmTaint := rfl
@[simp] theorem State.as_hbmPoison (s : State) (p : Nat) (c : Fin 4) : (s.as p c).hbmPoison = s.hbmPoison := rfl
@[simp] theorem State.as_hostMem (s : State) (p : Nat) (c : Fin 4) : (s.as p c).hostMem = s.hostMem := rfl
@[simp] theorem State.as_remoteMem (s : State) (p : Nat) (c : Fin 4) : (s.as p c).remoteMem = s.remoteMem := rfl
@[simp] theorem State.as_remoteFail (s : State) (p : Nat) (c : Fin 4) : (s.as p c).remoteFail = s.remoteFail := rfl
@[simp] theorem State.as_linkDown (s : State) (p : Nat) (c : Fin 4) : (s.as p c).linkDown = s.linkDown := rfl
@[simp] theorem State.as_net (s : State) (p : Nat) (c : Fin 4) : (s.as p c).net = s.net := rfl
@[simp] theorem State.as_acks (s : State) (p : Nat) (c : Fin 4) : (s.as p c).acks = s.acks := rfl
@[simp] theorem State.as_ticks (s : State) (p : Nat) (c : Fin 4) : (s.as p c).ticks = s.ticks := rfl
@[simp] theorem State.as_edge (s : State) (p : Nat) (c : Fin 4) : (s.as p c).edge = s.edge := rfl
@[simp] theorem State.as_holds (s : State) (p : Nat) (c : Fin 4) : (s.as p c).holds = s.holds := rfl
@[simp] theorem State.as_sc (s : State) (p : Nat) (c : Fin 4) : (s.as p c).sc = s.sc := rfl
@[simp] theorem State.as_nextSc (s : State) (p : Nat) (c : Fin 4) : (s.as p c).nextSc = s.nextSc := rfl
@[simp] theorem State.as_mapq (s : State) (p : Nat) (c : Fin 4) : (s.as p c).mapq = s.mapq := rfl
@[simp] theorem State.as_host (s : State) (p : Nat) (c : Fin 4) : (s.as p c).host = s.host := rfl
@[simp] theorem State.as_gens (s : State) (p : Nat) (c : Fin 4) : (s.as p c).gens = s.gens := rfl
@[simp] theorem State.as_fatal (s : State) (p : Nat) (c : Fin 4) : (s.as p c).fatal = s.fatal := rfl
@[simp] theorem State.as_powered (s : State) (p : Nat) (c : Fin 4) : (s.as p c).powered = s.powered := rfl
@[simp] theorem State.as_railsCut (s : State) (p : Nat) (c : Fin 4) : (s.as p c).railsCut = s.railsCut := rfl
@[simp] theorem State.as_fuses (s : State) (p : Nat) (c : Fin 4) : (s.as p c).fuses = s.fuses := rfl
@[simp] theorem State.as_firmware (s : State) (p : Nat) (c : Fin 4) : (s.as p c).firmware = s.firmware := rfl
@[simp] theorem State.as_crash (s : State) (p : Nat) (c : Fin 4) : (s.as p c).crash = s.crash := rfl
@[simp] theorem State.as_free (s : State) (p : Nat) (c : Fin 4) : (s.as p c).free = s.free := rfl
@[simp] theorem State.as_moves (s : State) (p : Nat) (c : Fin 4) : (s.as p c).moves = s.moves := rfl

/-! ### Free values drawn -/

@[simp] theorem State.spend_tiles (s : State) (n : Nat) : (s.spend n).tiles = s.tiles := rfl
@[simp] theorem State.spend_idle (s : State) (n : Nat) : (s.spend n).idle = s.idle := rfl
@[simp] theorem State.spend_formes (s : State) (n : Nat) : (s.spend n).formes = s.formes := rfl
@[simp] theorem State.spend_images (s : State) (n : Nat) : (s.spend n).images = s.images := rfl
@[simp] theorem State.spend_dies (s : State) (n : Nat) : (s.spend n).dies = s.dies := rfl
@[simp] theorem State.spend_ctls (s : State) (n : Nat) : (s.spend n).ctls = s.ctls := rfl
@[simp] theorem State.spend_engs (s : State) (n : Nat) : (s.spend n).engs = s.engs := rfl
@[simp] theorem State.spend_streams (s : State) (n : Nat) : (s.spend n).streams = s.streams := rfl
@[simp] theorem State.spend_l2 (s : State) (n : Nat) : (s.spend n).l2 = s.l2 := rfl
@[simp] theorem State.spend_ofu (s : State) (n : Nat) : (s.spend n).ofu = s.ofu := rfl
@[simp] theorem State.spend_reqs (s : State) (n : Nat) : (s.spend n).reqs = s.reqs := rfl
@[simp] theorem State.spend_nextReq (s : State) (n : Nat) : (s.spend n).nextReq = s.nextReq := rfl
@[simp] theorem State.spend_pushes (s : State) (n : Nat) : (s.spend n).pushes = s.pushes := rfl
@[simp] theorem State.spend_hashdom (s : State) (n : Nat) : (s.spend n).hashdom = s.hashdom := rfl
@[simp] theorem State.spend_domTaint (s : State) (n : Nat) : (s.spend n).domTaint = s.domTaint := rfl
@[simp] theorem State.spend_domWrites (s : State) (n : Nat) : (s.spend n).domWrites = s.domWrites := rfl
@[simp] theorem State.spend_hbm (s : State) (n : Nat) : (s.spend n).hbm = s.hbm := rfl
@[simp] theorem State.spend_hbmTaint (s : State) (n : Nat) : (s.spend n).hbmTaint = s.hbmTaint := rfl
@[simp] theorem State.spend_hbmPoison (s : State) (n : Nat) : (s.spend n).hbmPoison = s.hbmPoison := rfl
@[simp] theorem State.spend_hostMem (s : State) (n : Nat) : (s.spend n).hostMem = s.hostMem := rfl
@[simp] theorem State.spend_remoteMem (s : State) (n : Nat) : (s.spend n).remoteMem = s.remoteMem := rfl
@[simp] theorem State.spend_remoteFail (s : State) (n : Nat) : (s.spend n).remoteFail = s.remoteFail := rfl
@[simp] theorem State.spend_linkDown (s : State) (n : Nat) : (s.spend n).linkDown = s.linkDown := rfl
@[simp] theorem State.spend_net (s : State) (n : Nat) : (s.spend n).net = s.net := rfl
@[simp] theorem State.spend_acks (s : State) (n : Nat) : (s.spend n).acks = s.acks := rfl
@[simp] theorem State.spend_ticks (s : State) (n : Nat) : (s.spend n).ticks = s.ticks := rfl
@[simp] theorem State.spend_edge (s : State) (n : Nat) : (s.spend n).edge = s.edge := rfl
@[simp] theorem State.spend_holds (s : State) (n : Nat) : (s.spend n).holds = s.holds := rfl
@[simp] theorem State.spend_sc (s : State) (n : Nat) : (s.spend n).sc = s.sc := rfl
@[simp] theorem State.spend_nextSc (s : State) (n : Nat) : (s.spend n).nextSc = s.nextSc := rfl
@[simp] theorem State.spend_mapq (s : State) (n : Nat) : (s.spend n).mapq = s.mapq := rfl
@[simp] theorem State.spend_host (s : State) (n : Nat) : (s.spend n).host = s.host := rfl
@[simp] theorem State.spend_gens (s : State) (n : Nat) : (s.spend n).gens = s.gens := rfl
@[simp] theorem State.spend_fatal (s : State) (n : Nat) : (s.spend n).fatal = s.fatal := rfl
@[simp] theorem State.spend_powered (s : State) (n : Nat) : (s.spend n).powered = s.powered := rfl
@[simp] theorem State.spend_railsCut (s : State) (n : Nat) : (s.spend n).railsCut = s.railsCut := rfl
@[simp] theorem State.spend_fuses (s : State) (n : Nat) : (s.spend n).fuses = s.fuses := rfl
@[simp] theorem State.spend_firmware (s : State) (n : Nat) : (s.spend n).firmware = s.firmware := rfl
@[simp] theorem State.spend_crash (s : State) (n : Nat) : (s.spend n).crash = s.crash := rfl
@[simp] theorem State.spend_actor (s : State) (n : Nat) : (s.spend n).actor = s.actor := rfl
@[simp] theorem State.spend_moves (s : State) (n : Nat) : (s.spend n).moves = s.moves := rfl

/-! ### A change of one context -/

@[simp] theorem Tile.modCtx_phys (t : Tile) (c : Fin 4) (f : Ctx → Ctx) : (t.modCtx c f).phys = t.phys := rfl
@[simp] theorem Tile.modCtx_forme (t : Tile) (c : Fin 4) (f : Ctx → Ctx) : (t.modCtx c f).forme = t.forme := rfl
@[simp] theorem Tile.modCtx_logical (t : Tile) (c : Fin 4) (f : Ctx → Ctx) : (t.modCtx c f).logical = t.logical := rfl
@[simp] theorem Tile.modCtx_issuing (t : Tile) (c : Fin 4) (f : Ctx → Ctx) : (t.modCtx c f).issuing = t.issuing := rfl
@[simp] theorem Tile.modCtx_offCore (t : Tile) (c : Fin 4) (f : Ctx → Ctx) : (t.modCtx c f).offCore = t.offCore := rfl
@[simp] theorem Tile.modCtx_frozen (t : Tile) (c : Fin 4) (f : Ctx → Ctx) : (t.modCtx c f).frozen = t.frozen := rfl
@[simp] theorem Tile.modCtx_main (t : Tile) (c : Fin 4) (f : Ctx → Ctx) : (t.modCtx c f).main = t.main := rfl
@[simp] theorem Tile.modCtx_bankA (t : Tile) (c : Fin 4) (f : Ctx → Ctx) : (t.modCtx c f).bankA = t.bankA := rfl
@[simp] theorem Tile.modCtx_bankB (t : Tile) (c : Fin 4) (f : Ctx → Ctx) : (t.modCtx c f).bankB = t.bankB := rfl
@[simp] theorem Tile.modCtx_activeA (t : Tile) (c : Fin 4) (f : Ctx → Ctx) : (t.modCtx c f).activeA = t.activeA := rfl
@[simp] theorem Tile.modCtx_mainTaint (t : Tile) (c : Fin 4) (f : Ctx → Ctx) : (t.modCtx c f).mainTaint = t.mainTaint := rfl
@[simp] theorem Tile.modCtx_bankATaint (t : Tile) (c : Fin 4) (f : Ctx → Ctx) : (t.modCtx c f).bankATaint = t.bankATaint := rfl
@[simp] theorem Tile.modCtx_bankBTaint (t : Tile) (c : Fin 4) (f : Ctx → Ctx) : (t.modCtx c f).bankBTaint = t.bankBTaint := rfl
@[simp] theorem Tile.modCtx_poison (t : Tile) (c : Fin 4) (f : Ctx → Ctx) : (t.modCtx c f).poison = t.poison := rfl
@[simp] theorem Tile.modCtx_shadow (t : Tile) (c : Fin 4) (f : Ctx → Ctx) : (t.modCtx c f).shadow = t.shadow := rfl
@[simp] theorem Tile.modCtx_l1d (t : Tile) (c : Fin 4) (f : Ctx → Ctx) : (t.modCtx c f).l1d = t.l1d := rfl
@[simp] theorem Tile.modCtx_l1i (t : Tile) (c : Fin 4) (f : Ctx → Ctx) : (t.modCtx c f).l1i = t.l1i := rfl
@[simp] theorem Tile.modCtx_upd (t : Tile) (c : Fin 4) (f : Ctx → Ctx) : (t.modCtx c f).upd = t.upd := rfl
@[simp] theorem Tile.modCtx_pfr (t : Tile) (c : Fin 4) (f : Ctx → Ctx) : (t.modCtx c f).pfr = t.pfr := rfl
@[simp] theorem Tile.modCtx_sb (t : Tile) (c : Fin 4) (f : Ctx → Ctx) : (t.modCtx c f).sb = t.sb := rfl
@[simp] theorem Tile.modCtx_sw (t : Tile) (c : Fin 4) (f : Ctx → Ctx) : (t.modCtx c f).sw = t.sw := rfl
@[simp] theorem Tile.modCtx_fab (t : Tile) (c : Fin 4) (f : Ctx → Ctx) : (t.modCtx c f).fab = t.fab := rfl
@[simp] theorem Tile.modCtx_mx (t : Tile) (c : Fin 4) (f : Ctx → Ctx) : (t.modCtx c f).mx = t.mx := rfl
@[simp] theorem Tile.modCtx_xch (t : Tile) (c : Fin 4) (f : Ctx → Ctx) : (t.modCtx c f).xch = t.xch := rfl
@[simp] theorem Tile.modCtx_tasks (t : Tile) (c : Fin 4) (f : Ctx → Ctx) : (t.modCtx c f).tasks = t.tasks := rfl
@[simp] theorem Tile.modCtx_gal (t : Tile) (c : Fin 4) (f : Ctx → Ctx) : (t.modCtx c f).gal = t.gal := rfl
@[simp] theorem Tile.modCtx_stage (t : Tile) (c : Fin 4) (f : Ctx → Ctx) : (t.modCtx c f).stage = t.stage := rfl
@[simp] theorem Tile.modCtx_dispMask (t : Tile) (c : Fin 4) (f : Ctx → Ctx) : (t.modCtx c f).dispMask = t.dispMask := rfl
@[simp] theorem Tile.modCtx_barMask (t : Tile) (c : Fin 4) (f : Ctx → Ctx) : (t.modCtx c f).barMask = t.barMask := rfl
@[simp] theorem Tile.modCtx_gsMask (t : Tile) (c : Fin 4) (f : Ctx → Ctx) : (t.modCtx c f).gsMask = t.gsMask := rfl
@[simp] theorem Tile.modCtx_block (t : Tile) (c : Fin 4) (f : Ctx → Ctx) : (t.modCtx c f).block = t.block := rfl
@[simp] theorem Tile.modCtx_period (t : Tile) (c : Fin 4) (f : Ctx → Ctx) : (t.modCtx c f).period = t.period := rfl
@[simp] theorem Tile.modCtx_list (t : Tile) (c : Fin 4) (f : Ctx → Ctx) : (t.modCtx c f).list = t.list := rfl
@[simp] theorem Tile.modCtx_ready (t : Tile) (c : Fin 4) (f : Ctx → Ctx) : (t.modCtx c f).ready = t.ready := rfl
@[simp] theorem Tile.modCtx_held (t : Tile) (c : Fin 4) (f : Ctx → Ctx) : (t.modCtx c f).held = t.held := rfl
@[simp] theorem Tile.modCtx_injq (t : Tile) (c : Fin 4) (f : Ctx → Ctx) : (t.modCtx c f).injq = t.injq := rfl
@[simp] theorem Tile.modCtx_msgSeq (t : Tile) (c : Fin 4) (f : Ctx → Ctx) : (t.modCtx c f).msgSeq = t.msgSeq := rfl
@[simp] theorem Tile.modCtx_unacked (t : Tile) (c : Fin 4) (f : Ctx → Ctx) : (t.modCtx c f).unacked = t.unacked := rfl
@[simp] theorem Tile.modCtx_synced (t : Tile) (c : Fin 4) (f : Ctx → Ctx) : (t.modCtx c f).synced = t.synced := rfl
@[simp] theorem Tile.modCtx_gsynced (t : Tile) (c : Fin 4) (f : Ctx → Ctx) : (t.modCtx c f).gsynced = t.gsynced := rfl
@[simp] theorem Tile.modCtx_arrival (t : Tile) (c : Fin 4) (f : Ctx → Ctx) : (t.modCtx c f).arrival = t.arrival := rfl
@[simp] theorem Tile.modCtx_swapDue (t : Tile) (c : Fin 4) (f : Ctx → Ctx) : (t.modCtx c f).swapDue = t.swapDue := rfl
@[simp] theorem Tile.modCtx_ahead (t : Tile) (c : Fin 4) (f : Ctx → Ctx) : (t.modCtx c f).ahead = t.ahead := rfl
@[simp] theorem Tile.modCtx_tkrep (t : Tile) (c : Fin 4) (f : Ctx → Ctx) : (t.modCtx c f).tkrep = t.tkrep := rfl
@[simp] theorem Tile.modCtx_dlstat (t : Tile) (c : Fin 4) (f : Ctx → Ctx) : (t.modCtx c f).dlstat = t.dlstat := rfl
@[simp] theorem Tile.modCtx_deadStep (t : Tile) (c : Fin 4) (f : Ctx → Ctx) : (t.modCtx c f).deadStep = t.deadStep := rfl
@[simp] theorem Tile.modCtx_mqwin (t : Tile) (c : Fin 4) (f : Ctx → Ctx) : (t.modCtx c f).mqwin = t.mqwin := rfl
@[simp] theorem Tile.modCtx_mxstat (t : Tile) (c : Fin 4) (f : Ctx → Ctx) : (t.modCtx c f).mxstat = t.mxstat := rfl
@[simp] theorem Tile.modCtx_imba (t : Tile) (c : Fin 4) (f : Ctx → Ctx) : (t.modCtx c f).imba = t.imba := rfl
@[simp] theorem Tile.modCtx_imbb (t : Tile) (c : Fin 4) (f : Ctx → Ctx) : (t.modCtx c f).imbb = t.imbb := rfl
@[simp] theorem Tile.modCtx_fpxpc (t : Tile) (c : Fin 4) (f : Ctx → Ctx) : (t.modCtx c f).fpxpc = t.fpxpc := rfl
@[simp] theorem Tile.modCtx_fpxinf (t : Tile) (c : Fin 4) (f : Ctx → Ctx) : (t.modCtx c f).fpxinf = t.fpxinf := rfl
@[simp] theorem Tile.modCtx_fpxpend (t : Tile) (c : Fin 4) (f : Ctx → Ctx) : (t.modCtx c f).fpxpend = t.fpxpend := rfl
@[simp] theorem Tile.modCtx_csrTaint (t : Tile) (c : Fin 4) (f : Ctx → Ctx) : (t.modCtx c f).csrTaint = t.csrTaint := rfl
@[simp] theorem Tile.modCtx_doms (t : Tile) (c : Fin 4) (f : Ctx → Ctx) : (t.modCtx c f).doms = t.doms := rfl
@[simp] theorem Tile.modCtx_alignCtr (t : Tile) (c : Fin 4) (f : Ctx → Ctx) : (t.modCtx c f).alignCtr = t.alignCtr := rfl
@[simp] theorem Tile.modCtx_counters (t : Tile) (c : Fin 4) (f : Ctx → Ctx) : (t.modCtx c f).counters = t.counters := rfl
@[simp] theorem Tile.modCtx_issued (t : Tile) (c : Fin 4) (f : Ctx → Ctx) : (t.modCtx c f).issued = t.issued := rfl
@[simp] theorem Tile.modCtx_bubble (t : Tile) (c : Fin 4) (f : Ctx → Ctx) : (t.modCtx c f).bubble = t.bubble := rfl
@[simp] theorem Tile.modCtx_swFired (t : Tile) (c : Fin 4) (f : Ctx → Ctx) : (t.modCtx c f).swFired = t.swFired := rfl
@[simp] theorem Tile.modCtx_divBusy (t : Tile) (c : Fin 4) (f : Ctx → Ctx) : (t.modCtx c f).divBusy = t.divBusy := rfl
@[simp] theorem Tile.modCtx_trace (t : Tile) (c : Fin 4) (f : Ctx → Ctx) : (t.modCtx c f).trace = t.trace := rfl

/-! ### A STATUS bit -/

@[simp] theorem Ctx.setStat_st (c : Ctx) (i : Nat) (b : Bool) : (c.setStat i b).st = c.st := rfl
@[simp] theorem Ctx.setStat_gen (c : Ctx) (i : Nat) (b : Bool) : (c.setStat i b).gen = c.gen := rfl
@[simp] theorem Ctx.setStat_pc (c : Ctx) (i : Nat) (b : Bool) : (c.setStat i b).pc = c.pc := rfl
@[simp] theorem Ctx.setStat_x (c : Ctx) (i : Nat) (b : Bool) : (c.setStat i b).x = c.x := rfl
@[simp] theorem Ctx.setStat_v (c : Ctx) (i : Nat) (b : Bool) : (c.setStat i b).v = c.v := rfl
@[simp] theorem Ctx.setStat_o (c : Ctx) (i : Nat) (b : Bool) : (c.setStat i b).o = c.o := rfl
@[simp] theorem Ctx.setStat_lr (c : Ctx) (i : Nat) (b : Bool) : (c.setStat i b).lr = c.lr := rfl
@[simp] theorem Ctx.setStat_m (c : Ctx) (i : Nat) (b : Bool) : (c.setStat i b).m = c.m := rfl
@[simp] theorem Ctx.setStat_mb (c : Ctx) (i : Nat) (b : Bool) : (c.setStat i b).mb = c.mb := rfl
@[simp] theorem Ctx.setStat_mbTaint (c : Ctx) (i : Nat) (b : Bool) : (c.setStat i b).mbTaint = c.mbTaint := rfl
@[simp] theorem Ctx.setStat_mbstat (c : Ctx) (i : Nat) (b : Bool) : (c.setStat i b).mbstat = c.mbstat := rfl
@[simp] theorem Ctx.setStat_taint (c : Ctx) (i : Nat) (b : Bool) : (c.setStat i b).taint = c.taint := rfl
@[simp] theorem Ctx.setStat_loops (c : Ctx) (i : Nat) (b : Bool) : (c.setStat i b).loops = c.loops := rfl
@[simp] theorem Ctx.setStat_wins (c : Ctx) (i : Nat) (b : Bool) : (c.setStat i b).wins = c.wins := rfl
@[simp] theorem Ctx.setStat_nextWin (c : Ctx) (i : Nat) (b : Bool) : (c.setStat i b).nextWin = c.nextWin := rfl
@[simp] theorem Ctx.setStat_tvec (c : Ctx) (i : Nat) (b : Bool) : (c.setStat i b).tvec = c.tvec := rfl
@[simp] theorem Ctx.setStat_tfp (c : Ctx) (i : Nat) (b : Bool) : (c.setStat i b).tfp = c.tfp := rfl
@[simp] theorem Ctx.setStat_uvec (c : Ctx) (i : Nat) (b : Bool) : (c.setStat i b).uvec = c.uvec := rfl
@[simp] theorem Ctx.setStat_ufp (c : Ctx) (i : Nat) (b : Bool) : (c.setStat i b).ufp = c.ufp := rfl
@[simp] theorem Ctx.setStat_udeleg (c : Ctx) (i : Nat) (b : Bool) : (c.setStat i b).udeleg = c.udeleg := rfl
@[simp] theorem Ctx.setStat_intp (c : Ctx) (i : Nat) (b : Bool) : (c.setStat i b).intp = c.intp := rfl
@[simp] theorem Ctx.setStat_tscr (c : Ctx) (i : Nat) (b : Bool) : (c.setStat i b).tscr = c.tscr := rfl
@[simp] theorem Ctx.setStat_fpctl (c : Ctx) (i : Nat) (b : Bool) : (c.setStat i b).fpctl = c.fpctl := rfl
@[simp] theorem Ctx.setStat_qctl (c : Ctx) (i : Nat) (b : Bool) : (c.setStat i b).qctl = c.qctl := rfl
@[simp] theorem Ctx.setStat_pfxpay (c : Ctx) (i : Nat) (b : Bool) : (c.setStat i b).pfxpay = c.pfxpay := rfl
@[simp] theorem Ctx.setStat_pfxNext (c : Ctx) (i : Nat) (b : Bool) : (c.setStat i b).pfxNext = c.pfxNext := rfl
@[simp] theorem Ctx.setStat_pfxLost (c : Ctx) (i : Nat) (b : Bool) : (c.setStat i b).pfxLost = c.pfxLost := rfl
@[simp] theorem Ctx.setStat_vbeat (c : Ctx) (i : Nat) (b : Bool) : (c.setStat i b).vbeat = c.vbeat := rfl
@[simp] theorem Ctx.setStat_redacc (c : Ctx) (i : Nat) (b : Bool) : (c.setStat i b).redacc = c.redacc := rfl
@[simp] theorem Ctx.setStat_mastr (c : Ctx) (i : Nat) (b : Bool) : (c.setStat i b).mastr = c.mastr := rfl
@[simp] theorem Ctx.setStat_msstr (c : Ctx) (i : Nat) (b : Bool) : (c.setStat i b).msstr = c.msstr := rfl
@[simp] theorem Ctx.setStat_mascl (c : Ctx) (i : Nat) (b : Bool) : (c.setStat i b).mascl = c.mascl := rfl
@[simp] theorem Ctx.setStat_mbscl (c : Ctx) (i : Nat) (b : Bool) : (c.setStat i b).mbscl = c.mbscl := rfl
@[simp] theorem Ctx.setStat_xmc (c : Ctx) (i : Nat) (b : Bool) : (c.setStat i b).xmc = c.xmc := rfl
@[simp] theorem Ctx.setStat_xmst (c : Ctx) (i : Nat) (b : Bool) : (c.setStat i b).xmst = c.xmst := rfl
@[simp] theorem Ctx.setStat_csrTaint (c : Ctx) (i : Nat) (b : Bool) : (c.setStat i b).csrTaint = c.csrTaint := rfl
@[simp] theorem Ctx.setStat_spans (c : Ctx) (i : Nat) (b : Bool) : (c.setStat i b).spans = c.spans := rfl
@[simp] theorem Ctx.setStat_fetched (c : Ctx) (i : Nat) (b : Bool) : (c.setStat i b).fetched = c.fetched := rfl
@[simp] theorem Ctx.setStat_seq (c : Ctx) (i : Nat) (b : Bool) : (c.setStat i b).seq = c.seq := rfl
@[simp] theorem Ctx.setStat_touched (c : Ctx) (i : Nat) (b : Bool) : (c.setStat i b).touched = c.touched := rfl
@[simp] theorem Ctx.setStat_remote (c : Ctx) (i : Nat) (b : Bool) : (c.setStat i b).remote = c.remote := rfl
@[simp] theorem Ctx.setStat_wait (c : Ctx) (i : Nat) (b : Bool) : (c.setStat i b).wait = c.wait := rfl
@[simp] theorem Ctx.setStat_stall (c : Ctx) (i : Nat) (b : Bool) : (c.setStat i b).stall = c.stall := rfl
@[simp] theorem Ctx.setStat_waited (c : Ctx) (i : Nat) (b : Bool) : (c.setStat i b).waited = c.waited := rfl
@[simp] theorem Ctx.setStat_running (c : Ctx) (i : Nat) (b : Bool) : (c.setStat i b).running = c.running := rfl
@[simp] theorem Ctx.setStat_fpx (c : Ctx) (i : Nat) (b : Bool) : (c.setStat i b).fpx = c.fpx := rfl
@[simp] theorem Ctx.setStat_deferred (c : Ctx) (i : Nat) (b : Bool) : (c.setStat i b).deferred = c.deferred := rfl
@[simp] theorem Ctx.setStat_dstoreAt (c : Ctx) (i : Nat) (b : Bool) : (c.setStat i b).dstoreAt = c.dstoreAt := rfl

/-! ### A taken transfer -/

@[simp] theorem Ctx.jumpTo_st (c : Ctx) (t : Word) : (c.jumpTo t).st = c.st := rfl
@[simp] theorem Ctx.jumpTo_gen (c : Ctx) (t : Word) : (c.jumpTo t).gen = c.gen := rfl
@[simp] theorem Ctx.jumpTo_status (c : Ctx) (t : Word) : (c.jumpTo t).status = c.status := rfl
@[simp] theorem Ctx.jumpTo_x (c : Ctx) (t : Word) : (c.jumpTo t).x = c.x := rfl
@[simp] theorem Ctx.jumpTo_v (c : Ctx) (t : Word) : (c.jumpTo t).v = c.v := rfl
@[simp] theorem Ctx.jumpTo_o (c : Ctx) (t : Word) : (c.jumpTo t).o = c.o := rfl
@[simp] theorem Ctx.jumpTo_lr (c : Ctx) (t : Word) : (c.jumpTo t).lr = c.lr := rfl
@[simp] theorem Ctx.jumpTo_m (c : Ctx) (t : Word) : (c.jumpTo t).m = c.m := rfl
@[simp] theorem Ctx.jumpTo_mb (c : Ctx) (t : Word) : (c.jumpTo t).mb = c.mb := rfl
@[simp] theorem Ctx.jumpTo_mbTaint (c : Ctx) (t : Word) : (c.jumpTo t).mbTaint = c.mbTaint := rfl
@[simp] theorem Ctx.jumpTo_mbstat (c : Ctx) (t : Word) : (c.jumpTo t).mbstat = c.mbstat := rfl
@[simp] theorem Ctx.jumpTo_taint (c : Ctx) (t : Word) : (c.jumpTo t).taint = c.taint := rfl
@[simp] theorem Ctx.jumpTo_wins (c : Ctx) (t : Word) : (c.jumpTo t).wins = c.wins := rfl
@[simp] theorem Ctx.jumpTo_nextWin (c : Ctx) (t : Word) : (c.jumpTo t).nextWin = c.nextWin := rfl
@[simp] theorem Ctx.jumpTo_tvec (c : Ctx) (t : Word) : (c.jumpTo t).tvec = c.tvec := rfl
@[simp] theorem Ctx.jumpTo_tfp (c : Ctx) (t : Word) : (c.jumpTo t).tfp = c.tfp := rfl
@[simp] theorem Ctx.jumpTo_uvec (c : Ctx) (t : Word) : (c.jumpTo t).uvec = c.uvec := rfl
@[simp] theorem Ctx.jumpTo_ufp (c : Ctx) (t : Word) : (c.jumpTo t).ufp = c.ufp := rfl
@[simp] theorem Ctx.jumpTo_udeleg (c : Ctx) (t : Word) : (c.jumpTo t).udeleg = c.udeleg := rfl
@[simp] theorem Ctx.jumpTo_intp (c : Ctx) (t : Word) : (c.jumpTo t).intp = c.intp := rfl
@[simp] theorem Ctx.jumpTo_tscr (c : Ctx) (t : Word) : (c.jumpTo t).tscr = c.tscr := rfl
@[simp] theorem Ctx.jumpTo_fpctl (c : Ctx) (t : Word) : (c.jumpTo t).fpctl = c.fpctl := rfl
@[simp] theorem Ctx.jumpTo_qctl (c : Ctx) (t : Word) : (c.jumpTo t).qctl = c.qctl := rfl
@[simp] theorem Ctx.jumpTo_pfxpay (c : Ctx) (t : Word) : (c.jumpTo t).pfxpay = c.pfxpay := rfl
@[simp] theorem Ctx.jumpTo_pfxNext (c : Ctx) (t : Word) : (c.jumpTo t).pfxNext = c.pfxNext := rfl
@[simp] theorem Ctx.jumpTo_pfxLost (c : Ctx) (t : Word) : (c.jumpTo t).pfxLost = c.pfxLost := rfl
@[simp] theorem Ctx.jumpTo_vbeat (c : Ctx) (t : Word) : (c.jumpTo t).vbeat = c.vbeat := rfl
@[simp] theorem Ctx.jumpTo_redacc (c : Ctx) (t : Word) : (c.jumpTo t).redacc = c.redacc := rfl
@[simp] theorem Ctx.jumpTo_mastr (c : Ctx) (t : Word) : (c.jumpTo t).mastr = c.mastr := rfl
@[simp] theorem Ctx.jumpTo_msstr (c : Ctx) (t : Word) : (c.jumpTo t).msstr = c.msstr := rfl
@[simp] theorem Ctx.jumpTo_mascl (c : Ctx) (t : Word) : (c.jumpTo t).mascl = c.mascl := rfl
@[simp] theorem Ctx.jumpTo_mbscl (c : Ctx) (t : Word) : (c.jumpTo t).mbscl = c.mbscl := rfl
@[simp] theorem Ctx.jumpTo_xmc (c : Ctx) (t : Word) : (c.jumpTo t).xmc = c.xmc := rfl
@[simp] theorem Ctx.jumpTo_xmst (c : Ctx) (t : Word) : (c.jumpTo t).xmst = c.xmst := rfl
@[simp] theorem Ctx.jumpTo_csrTaint (c : Ctx) (t : Word) : (c.jumpTo t).csrTaint = c.csrTaint := rfl
@[simp] theorem Ctx.jumpTo_spans (c : Ctx) (t : Word) : (c.jumpTo t).spans = c.spans := rfl
@[simp] theorem Ctx.jumpTo_fetched (c : Ctx) (t : Word) : (c.jumpTo t).fetched = c.fetched := rfl
@[simp] theorem Ctx.jumpTo_seq (c : Ctx) (t : Word) : (c.jumpTo t).seq = c.seq := rfl
@[simp] theorem Ctx.jumpTo_touched (c : Ctx) (t : Word) : (c.jumpTo t).touched = c.touched := rfl
@[simp] theorem Ctx.jumpTo_remote (c : Ctx) (t : Word) : (c.jumpTo t).remote = c.remote := rfl
@[simp] theorem Ctx.jumpTo_wait (c : Ctx) (t : Word) : (c.jumpTo t).wait = c.wait := rfl
@[simp] theorem Ctx.jumpTo_stall (c : Ctx) (t : Word) : (c.jumpTo t).stall = c.stall := rfl
@[simp] theorem Ctx.jumpTo_waited (c : Ctx) (t : Word) : (c.jumpTo t).waited = c.waited := rfl
@[simp] theorem Ctx.jumpTo_running (c : Ctx) (t : Word) : (c.jumpTo t).running = c.running := rfl
@[simp] theorem Ctx.jumpTo_fpx (c : Ctx) (t : Word) : (c.jumpTo t).fpx = c.fpx := rfl
@[simp] theorem Ctx.jumpTo_deferred (c : Ctx) (t : Word) : (c.jumpTo t).deferred = c.deferred := rfl
@[simp] theorem Ctx.jumpTo_dstoreAt (c : Ctx) (t : Word) : (c.jumpTo t).dstoreAt = c.dstoreAt := rfl

/-! ### A window opened -/

@[simp] theorem Ctx.openWin_st (c : Ctx) (w : Window) : (c.openWin w).st = c.st := rfl
@[simp] theorem Ctx.openWin_gen (c : Ctx) (w : Window) : (c.openWin w).gen = c.gen := rfl
@[simp] theorem Ctx.openWin_pc (c : Ctx) (w : Window) : (c.openWin w).pc = c.pc := rfl
@[simp] theorem Ctx.openWin_status (c : Ctx) (w : Window) : (c.openWin w).status = c.status := rfl
@[simp] theorem Ctx.openWin_x (c : Ctx) (w : Window) : (c.openWin w).x = c.x := rfl
@[simp] theorem Ctx.openWin_v (c : Ctx) (w : Window) : (c.openWin w).v = c.v := rfl
@[simp] theorem Ctx.openWin_o (c : Ctx) (w : Window) : (c.openWin w).o = c.o := rfl
@[simp] theorem Ctx.openWin_lr (c : Ctx) (w : Window) : (c.openWin w).lr = c.lr := rfl
@[simp] theorem Ctx.openWin_m (c : Ctx) (w : Window) : (c.openWin w).m = c.m := rfl
@[simp] theorem Ctx.openWin_mb (c : Ctx) (w : Window) : (c.openWin w).mb = c.mb := rfl
@[simp] theorem Ctx.openWin_mbTaint (c : Ctx) (w : Window) : (c.openWin w).mbTaint = c.mbTaint := rfl
@[simp] theorem Ctx.openWin_mbstat (c : Ctx) (w : Window) : (c.openWin w).mbstat = c.mbstat := rfl
@[simp] theorem Ctx.openWin_taint (c : Ctx) (w : Window) : (c.openWin w).taint = c.taint := rfl
@[simp] theorem Ctx.openWin_loops (c : Ctx) (w : Window) : (c.openWin w).loops = c.loops := rfl
@[simp] theorem Ctx.openWin_tvec (c : Ctx) (w : Window) : (c.openWin w).tvec = c.tvec := rfl
@[simp] theorem Ctx.openWin_tfp (c : Ctx) (w : Window) : (c.openWin w).tfp = c.tfp := rfl
@[simp] theorem Ctx.openWin_uvec (c : Ctx) (w : Window) : (c.openWin w).uvec = c.uvec := rfl
@[simp] theorem Ctx.openWin_ufp (c : Ctx) (w : Window) : (c.openWin w).ufp = c.ufp := rfl
@[simp] theorem Ctx.openWin_udeleg (c : Ctx) (w : Window) : (c.openWin w).udeleg = c.udeleg := rfl
@[simp] theorem Ctx.openWin_intp (c : Ctx) (w : Window) : (c.openWin w).intp = c.intp := rfl
@[simp] theorem Ctx.openWin_tscr (c : Ctx) (w : Window) : (c.openWin w).tscr = c.tscr := rfl
@[simp] theorem Ctx.openWin_fpctl (c : Ctx) (w : Window) : (c.openWin w).fpctl = c.fpctl := rfl
@[simp] theorem Ctx.openWin_qctl (c : Ctx) (w : Window) : (c.openWin w).qctl = c.qctl := rfl
@[simp] theorem Ctx.openWin_pfxpay (c : Ctx) (w : Window) : (c.openWin w).pfxpay = c.pfxpay := rfl
@[simp] theorem Ctx.openWin_pfxNext (c : Ctx) (w : Window) : (c.openWin w).pfxNext = c.pfxNext := rfl
@[simp] theorem Ctx.openWin_pfxLost (c : Ctx) (w : Window) : (c.openWin w).pfxLost = c.pfxLost := rfl
@[simp] theorem Ctx.openWin_vbeat (c : Ctx) (w : Window) : (c.openWin w).vbeat = c.vbeat := rfl
@[simp] theorem Ctx.openWin_redacc (c : Ctx) (w : Window) : (c.openWin w).redacc = c.redacc := rfl
@[simp] theorem Ctx.openWin_mastr (c : Ctx) (w : Window) : (c.openWin w).mastr = c.mastr := rfl
@[simp] theorem Ctx.openWin_msstr (c : Ctx) (w : Window) : (c.openWin w).msstr = c.msstr := rfl
@[simp] theorem Ctx.openWin_mascl (c : Ctx) (w : Window) : (c.openWin w).mascl = c.mascl := rfl
@[simp] theorem Ctx.openWin_mbscl (c : Ctx) (w : Window) : (c.openWin w).mbscl = c.mbscl := rfl
@[simp] theorem Ctx.openWin_xmc (c : Ctx) (w : Window) : (c.openWin w).xmc = c.xmc := rfl
@[simp] theorem Ctx.openWin_xmst (c : Ctx) (w : Window) : (c.openWin w).xmst = c.xmst := rfl
@[simp] theorem Ctx.openWin_csrTaint (c : Ctx) (w : Window) : (c.openWin w).csrTaint = c.csrTaint := rfl
@[simp] theorem Ctx.openWin_spans (c : Ctx) (w : Window) : (c.openWin w).spans = c.spans := rfl
@[simp] theorem Ctx.openWin_fetched (c : Ctx) (w : Window) : (c.openWin w).fetched = c.fetched := rfl
@[simp] theorem Ctx.openWin_seq (c : Ctx) (w : Window) : (c.openWin w).seq = c.seq := rfl
@[simp] theorem Ctx.openWin_touched (c : Ctx) (w : Window) : (c.openWin w).touched = c.touched := rfl
@[simp] theorem Ctx.openWin_remote (c : Ctx) (w : Window) : (c.openWin w).remote = c.remote := rfl
@[simp] theorem Ctx.openWin_wait (c : Ctx) (w : Window) : (c.openWin w).wait = c.wait := rfl
@[simp] theorem Ctx.openWin_stall (c : Ctx) (w : Window) : (c.openWin w).stall = c.stall := rfl
@[simp] theorem Ctx.openWin_waited (c : Ctx) (w : Window) : (c.openWin w).waited = c.waited := rfl
@[simp] theorem Ctx.openWin_running (c : Ctx) (w : Window) : (c.openWin w).running = c.running := rfl
@[simp] theorem Ctx.openWin_fpx (c : Ctx) (w : Window) : (c.openWin w).fpx = c.fpx := rfl
@[simp] theorem Ctx.openWin_deferred (c : Ctx) (w : Window) : (c.openWin w).deferred = c.deferred := rfl
@[simp] theorem Ctx.openWin_dstoreAt (c : Ctx) (w : Window) : (c.openWin w).dstoreAt = c.dstoreAt := rfl

/-! ### Entry to a handler -/

@[simp] theorem Ctx.enterHandler_st (c : Ctx) (a : Word) : (c.enterHandler a).st = c.st := rfl
@[simp] theorem Ctx.enterHandler_gen (c : Ctx) (a : Word) : (c.enterHandler a).gen = c.gen := rfl
@[simp] theorem Ctx.enterHandler_x (c : Ctx) (a : Word) : (c.enterHandler a).x = c.x := rfl
@[simp] theorem Ctx.enterHandler_v (c : Ctx) (a : Word) : (c.enterHandler a).v = c.v := rfl
@[simp] theorem Ctx.enterHandler_o (c : Ctx) (a : Word) : (c.enterHandler a).o = c.o := rfl
@[simp] theorem Ctx.enterHandler_lr (c : Ctx) (a : Word) : (c.enterHandler a).lr = c.lr := rfl
@[simp] theorem Ctx.enterHandler_m (c : Ctx) (a : Word) : (c.enterHandler a).m = c.m := rfl
@[simp] theorem Ctx.enterHandler_mb (c : Ctx) (a : Word) : (c.enterHandler a).mb = c.mb := rfl
@[simp] theorem Ctx.enterHandler_mbTaint (c : Ctx) (a : Word) : (c.enterHandler a).mbTaint = c.mbTaint := rfl
@[simp] theorem Ctx.enterHandler_mbstat (c : Ctx) (a : Word) : (c.enterHandler a).mbstat = c.mbstat := rfl
@[simp] theorem Ctx.enterHandler_taint (c : Ctx) (a : Word) : (c.enterHandler a).taint = c.taint := rfl
@[simp] theorem Ctx.enterHandler_nextWin (c : Ctx) (a : Word) : (c.enterHandler a).nextWin = c.nextWin := rfl
@[simp] theorem Ctx.enterHandler_tvec (c : Ctx) (a : Word) : (c.enterHandler a).tvec = c.tvec := rfl
@[simp] theorem Ctx.enterHandler_tfp (c : Ctx) (a : Word) : (c.enterHandler a).tfp = c.tfp := rfl
@[simp] theorem Ctx.enterHandler_uvec (c : Ctx) (a : Word) : (c.enterHandler a).uvec = c.uvec := rfl
@[simp] theorem Ctx.enterHandler_ufp (c : Ctx) (a : Word) : (c.enterHandler a).ufp = c.ufp := rfl
@[simp] theorem Ctx.enterHandler_udeleg (c : Ctx) (a : Word) : (c.enterHandler a).udeleg = c.udeleg := rfl
@[simp] theorem Ctx.enterHandler_intp (c : Ctx) (a : Word) : (c.enterHandler a).intp = c.intp := rfl
@[simp] theorem Ctx.enterHandler_tscr (c : Ctx) (a : Word) : (c.enterHandler a).tscr = c.tscr := rfl
@[simp] theorem Ctx.enterHandler_fpctl (c : Ctx) (a : Word) : (c.enterHandler a).fpctl = c.fpctl := rfl
@[simp] theorem Ctx.enterHandler_qctl (c : Ctx) (a : Word) : (c.enterHandler a).qctl = c.qctl := rfl
@[simp] theorem Ctx.enterHandler_pfxpay (c : Ctx) (a : Word) : (c.enterHandler a).pfxpay = c.pfxpay := rfl
@[simp] theorem Ctx.enterHandler_pfxNext (c : Ctx) (a : Word) : (c.enterHandler a).pfxNext = c.pfxNext := rfl
@[simp] theorem Ctx.enterHandler_pfxLost (c : Ctx) (a : Word) : (c.enterHandler a).pfxLost = c.pfxLost := rfl
@[simp] theorem Ctx.enterHandler_redacc (c : Ctx) (a : Word) : (c.enterHandler a).redacc = c.redacc := rfl
@[simp] theorem Ctx.enterHandler_mastr (c : Ctx) (a : Word) : (c.enterHandler a).mastr = c.mastr := rfl
@[simp] theorem Ctx.enterHandler_msstr (c : Ctx) (a : Word) : (c.enterHandler a).msstr = c.msstr := rfl
@[simp] theorem Ctx.enterHandler_mascl (c : Ctx) (a : Word) : (c.enterHandler a).mascl = c.mascl := rfl
@[simp] theorem Ctx.enterHandler_mbscl (c : Ctx) (a : Word) : (c.enterHandler a).mbscl = c.mbscl := rfl
@[simp] theorem Ctx.enterHandler_xmc (c : Ctx) (a : Word) : (c.enterHandler a).xmc = c.xmc := rfl
@[simp] theorem Ctx.enterHandler_xmst (c : Ctx) (a : Word) : (c.enterHandler a).xmst = c.xmst := rfl
@[simp] theorem Ctx.enterHandler_csrTaint (c : Ctx) (a : Word) : (c.enterHandler a).csrTaint = c.csrTaint := rfl
@[simp] theorem Ctx.enterHandler_spans (c : Ctx) (a : Word) : (c.enterHandler a).spans = c.spans := rfl
@[simp] theorem Ctx.enterHandler_seq (c : Ctx) (a : Word) : (c.enterHandler a).seq = c.seq := rfl
@[simp] theorem Ctx.enterHandler_touched (c : Ctx) (a : Word) : (c.enterHandler a).touched = c.touched := rfl
@[simp] theorem Ctx.enterHandler_remote (c : Ctx) (a : Word) : (c.enterHandler a).remote = c.remote := rfl
@[simp] theorem Ctx.enterHandler_running (c : Ctx) (a : Word) : (c.enterHandler a).running = c.running := rfl
@[simp] theorem Ctx.enterHandler_fpx (c : Ctx) (a : Word) : (c.enterHandler a).fpx = c.fpx := rfl
@[simp] theorem Ctx.enterHandler_deferred (c : Ctx) (a : Word) : (c.enterHandler a).deferred = c.deferred := rfl
@[simp] theorem Ctx.enterHandler_dstoreAt (c : Ctx) (a : Word) : (c.enterHandler a).dstoreAt = c.dstoreAt := rfl

/-! ### What the update does write -/

@[simp] theorem State.as_actor (s : State) (p : Nat) (c : Fin 4) : (s.as p c).actor = { tile := p, ctx := c } := rfl

@[simp] theorem State.modTile_tiles (s : State) (p : Nat) (f : Tile → Tile) :
    (s.modTile p f).tiles = s.tiles.map (fun t => if t.phys == p then f t else t) := rfl

@[simp] theorem State.modForme_formes (s : State) (p : Nat) (g : Forme → Forme) :
    (s.modForme p g).formes = s.formes.map (fun h => if h.id == p then g h else h) := rfl

@[simp] theorem Tile.modCtx_ctxs (t : Tile) (c : Fin 4) (f : Ctx → Ctx) : (t.modCtx c f).ctxs = t.ctxs.set c (f t.ctxs[c]) := rfl

@[simp] theorem Ctx.jumpTo_pc (c : Ctx) (t : Word) : (c.jumpTo t).pc = t := rfl

@[simp] theorem Ctx.enterHandler_pc (c : Ctx) (a : Word) : (c.enterHandler a).pc = a := rfl
@[simp] theorem Ctx.enterHandler_loops (c : Ctx) (a : Word) : (c.enterHandler a).loops = [] := rfl
@[simp] theorem Ctx.enterHandler_wins (c : Ctx) (a : Word) : (c.enterHandler a).wins = [] := rfl
@[simp] theorem Ctx.enterHandler_vbeat (c : Ctx) (a : Word) : (c.enterHandler a).vbeat = 0 := rfl

end Sys2Proof.Machine
end

