-- ==== Sys2Proof/Laws/Access.lean ====
section
/-! SUPPORT. Reading back what the accessors of Machine/Ops.lean write: tiles by number, the acting tile and context,
registers, vectors by index. -/

namespace Sys2Proof.Machine

/-! ### Vectors by index -/

@[simp] theorem vget_vset {α : Type} {n : Nat} (v : Vector α n) (i j : Nat) (a d : α) :
    vget (vset v i a) j d = if i = j ∧ i < n then a else vget v j d := by
  unfold vget vset
  by_cases hi : i < n <;> by_cases hj : j < n <;> simp [hi, hj, Vector.getElem_set]
  · intro h; omega

theorem vget_of_lt {α : Type} {n : Nat} (v : Vector α n) (i : Nat) (d : α) (h : i < n) : vget v i d = v[i] := by
  simp [vget, h]

/-! ### Tiles by number -/

theorem State.tileAt_phys {s : State} {p : Nat} {t : Tile} (h : s.tileAt p = some t) : t.phys = p := by
  have := List.find?_some h
  simpa using this

/-- A change of a tile that keeps its number is read back at that number and nowhere else. -/
theorem State.tileAt_modTile (s : State) (p q : Nat) (f : Tile → Tile) (hf : ∀ t, (f t).phys = t.phys) :
    (s.modTile p f).tileAt q = if q = p then (s.tileAt p).map f else s.tileAt q := by
  simp only [State.tileAt, State.modTile_tiles]
  induction s.tiles with
  | nil => simp
  | cons u r ih =>
    simp only [List.map_cons, List.find?_cons]
    have hu : ((if u.phys == p then f u else u) : Tile).phys = u.phys := by split <;> simp [hf]
    simp only [hu]
    by_cases hq : u.phys = q
    · subst hq
      by_cases hp : u.phys = p
      · subst hp; simp
      · simp [hp]
    · by_cases hp : u.phys = p
      · have h1 : (u.phys == q) = false := by simpa using hq
        rw [h1]
        simp only [ih]
        have h2 : q ≠ p := fun e => hq (by rw [hp, e])
        simp [h2]
      · have h1 : (u.phys == q) = false := by simpa using hq
        rw [h1]
        simp only [ih]
        by_cases h2 : q = p
        · subst h2; simp [h1]
        · simp [h2]

/-- The tile read back after its own change. -/
theorem State.tileD_modTile_same (s : State) (p : Nat) (f : Tile → Tile) (hf : ∀ t, (f t).phys = t.phys)
    (h : (s.tileAt p).isSome) : (s.modTile p f).tileD p = f (s.tileD p) := by
  simp only [State.tileD, State.tileAt_modTile s p p f hf, if_pos]
  obtain ⟨t, ht⟩ := Option.isSome_iff_exists.mp h
  simp [ht]

/-- Another tile is not touched. -/
theorem State.tileD_modTile_other (s : State) (p q : Nat) (f : Tile → Tile) (hf : ∀ t, (f t).phys = t.phys) (h : q ≠ p) :
    (s.modTile p f).tileD q = s.tileD q := by
  simp only [State.tileD, State.tileAt_modTile s p q f hf, if_neg h]

theorem State.acts_onTile (s : State) (f : Tile → Tile) (hf : ∀ t, (f t).phys = t.phys) (h : Safety.Acts s) :
    Safety.Acts (s.onTile f) := by
  simp only [Safety.Acts, State.onTile, State.modTile_actor] at h ⊢
  rw [State.tileAt_modTile _ _ _ _ hf, if_pos rfl, Option.isSome_map]
  exact h

/-- The acting tile read back after its own change. -/
theorem State.tile_onTile (s : State) (f : Tile → Tile) (hf : ∀ t, (f t).phys = t.phys) (h : Safety.Acts s) :
    (s.onTile f).tile = f s.tile :=
  State.tileD_modTile_same s _ f hf h

/-- The acting tile after a change of the acting context. -/
theorem State.tile_onCtx (s : State) (f : Ctx → Ctx) (h : Safety.Acts s) : (s.onCtx f).tile = s.tile.modCtx s.actor.ctx f :=
  State.tile_onTile s _ (fun _ => rfl) h

theorem State.acts_onCtx (s : State) (f : Ctx → Ctx) (h : Safety.Acts s) : Safety.Acts (s.onCtx f) :=
  State.acts_onTile s _ (fun _ => rfl) h

/-- The acting context read back after its own change. -/
theorem State.ctx_onCtx (s : State) (f : Ctx → Ctx) (h : Safety.Acts s) : (s.onCtx f).ctx = f s.ctx := by
  have h1 := State.tile_onCtx s f h
  have h2 : (s.onCtx f).actor = s.actor := rfl
  simp only [State.ctx, h1, h2, Tile.modCtx_ctxs, Fin.getElem_fin, Vector.getElem_set_self]

/-! ### Scalar registers -/

/-- x0 reads as 0, untainted, whatever was written to it (R45). -/
@[simp] theorem Ctx.readX_zero (c : Ctx) : c.readX 0 = (0, false) := rfl

@[simp] theorem Ctx.writeX_zero (c : Ctx) (v : Word) (t : Bool) : c.writeX 0 v t = c := rfl

theorem Ctx.readX_writeX_same (c : Ctx) (n : Nat) (v : Word) (t : Bool) (h : n ≠ 0) (h32 : n < 32) :
    ((c.writeX n v t).readX n).1 = v := by
  simp [Ctx.readX, Ctx.writeX, h, h32]

theorem Ctx.readX_writeX_other (c : Ctx) (n m : Nat) (v : Word) (t : Bool) (h : n ≠ m) :
    ((c.writeX n v t).readX m).1 = (c.readX m).1 := by
  unfold Ctx.readX Ctx.writeX
  by_cases hn : n = 0
  · simp [hn]
  · by_cases hm : m = 0
    · simp [hm]
    · simp [hn, hm, h]

end Sys2Proof.Machine
end

