-- ==== Sys2Proof/Laws/Fetch.lean ====
section
/-! SUPPORT. What a fetch does (Machine/Fetch.lean): a word of a line that the tile's L1I holds is given, and nothing
changes; a word already fetched is given. -/

namespace Sys2Proof.Machine

/-- A fetch that the checks accept, of a line that L1I holds without poison, gives the word and changes nothing (R97, R104). -/
theorem fetchAt_hit {s : State} {a : Word} {i : Nat} {p : Span} {l : L1Line}
    (hc : checkAccess s .fetch a 4 = .ok (.span i p))
    (hl : s.tile.l1i.find? (fun l => l.asid == s.forme.asid && l.line == a.toNat / 64) = some l)
    (hp : lineTaint l.poison (a.toNat % 64) 4 = false) :
    fetchAt s a = (.ok (lineLane l.data (a.toNat % 64)), s) := by
  simp [fetchAt, hc, hl, hp]

/-- A fetch that the checks refuse gives their fault and changes nothing. -/
theorem fetchAt_refused {s : State} {a : Word} {e : Exc} (hc : checkAccess s .fetch a 4 = .error e) :
    fetchAt s a = (.error e, s) := by
  simp only [fetchAt, hc]

/-- A word that the context has fetched already is not fetched again (R124). -/
theorem fetch_held {s : State} {w : Word × Lane} (h : s.ctx.fetched.find? (fun w => w.1 == s.ctx.pc) = some w) :
    fetch s = (.ok w.2, s) := by
  simp only [fetch, h]

/-- With no word fetched ahead, a fetch is one at PC. -/
theorem fetch_fresh {s : State} (h : s.ctx.fetched = []) : fetch s = fetchAt s s.ctx.pc := by
  simp only [fetch, h, List.find?_nil]

/-- Words in sequence, one at a time. -/
theorem fetchWords_succ {n : Nat} {s s' : State} {a : Word} {w : Lane} {acc : List Lane} (h : fetchAt s a = (.ok w, s')) :
    fetchWords (n + 1) s a acc = fetchWords n s' (a + 4) (acc ++ [w]) := by
  simp only [fetchWords, h]

end Sys2Proof.Machine
end

