-- ==== Sys2Proof/Laws/Issue.lean ====
section
/-! SUPPORT. What the issue of an instruction comes to, said once: the outcomes of the gate, of an attempt and of an effect
that is followed in sequence. -/

namespace Sys2Proof.Machine

open Sys2Proof.Safety

/-- A context of a tile that no forme holds does not issue. -/
theorem gate_idle_of_not_acts (s : State) (h : ¬ Acts s) : gate s = .idle := by
  have h1 : s.tileAt s.actor.tile = none := by
    simpa [Acts] using h
  have h2 : s.ctx.st = .noThread := by
    simp only [State.ctx, State.tile, State.tileD, h1, Option.getD_none, Fin.getElem_fin, Vector.getElem_replicate]
  simp [gate, h2]

/-- A context that issues acts on a tile of a forme. -/
theorem acts_of_go {s : State} (h : gate s = .go) : Acts s := by
  by_cases ha : Acts s
  · exact ha
  · rw [gate_idle_of_not_acts s ha] at h
    exact absurd h (by decide)

/-- An instruction that issues comes to its effect. -/
theorem issue_issues {i : Instr} {s : State} (f : State → Eff) (h : Issues i s) : issue i f s = .next (settle i s (f s)) := by
  obtain ⟨hg, hd, hw, hi, hs, hp⟩ := h
  have ha : attempt i f s = f s := by
    unfold attempt
    rw [hd]
    simp only [hw]
    cases hf : (instrShape i).fold.isNone with
    | true => simp [hp hf]
    | false => simp
  unfold issue issueState
  rw [hg]
  have hn : s.dueStore = none := by simp [State.dueStore, hs]
  simp [ha, hi, hn]

/-- A decode fault of an instruction whose turn it is comes in place of its effect, once every open window has
settled (R50, R361). -/
theorem issue_decodeFault {i : Instr} {s : State} (f : State → Eff) (e : Exc) (hg : gate s = .go) (hd : decodeFault i s = some e) :
    issue i f s = .next (s.deliverIn (if e.code = cFMTF then s.spend 2 else s) (s.withTaint i e)) := by
  unfold issue issueState attempt
  rw [hg]
  by_cases hc : e.code = cFMTF <;> simp [hd, hc, Eff.raises, settle, State.deliver, State.deliverIn]

@[simp] theorem settle_ok (i : Instr) (s t : State) : settle i s (.ok t) = followed i s t := rfl

@[simp] theorem settle_wait (i : Instr) (s t : State) (w : Stall) : settle i s (.wait w t) = t.stall w := rfl

@[simp] theorem settle_sent (i : Instr) (s t : State) : settle i s (.sent t) = t.noteIssued := rfl

@[simp] theorem settle_raise (i : Instr) (s : State) (e : Exc) : settle i s (.raise e) = s.deliver (s.withTaint i e) := rfl

/-! ### Windows that close when an instruction issues -/

/-- The window holds no scalar result for register r. -/
def Window.spares (w : Window) (r : Nat) : Prop := w.dst = r → ∀ v t, w.st ≠ .landed v t

@[simp] theorem Ctx.writeVElem_x (c : Ctx) (n e : Nat) (v : Lane) : (c.writeVElem n e v).x = c.x := by
  unfold Ctx.writeVElem; split <;> rfl

@[simp] theorem Ctx.writeVElem_wins (c : Ctx) (n e : Nat) (v : Lane) : (c.writeVElem n e v).wins = c.wins := by
  unfold Ctx.writeVElem; split <;> rfl

@[simp] theorem Ctx.taintV_x (c : Ctx) (n : Nat) (t : Bool) : (c.taintV n t).x = c.x := by
  unfold Ctx.taintV; split <;> rfl

@[simp] theorem Ctx.taintV_wins (c : Ctx) (n : Nat) (t : Bool) : (c.taintV n t).wins = c.wins := by
  unfold Ctx.taintV; split <;> rfl

theorem Ctx.writeElems_x (l : List (Lane × Nat)) (d : Nat) (c : Ctx) :
    (l.foldl (fun c p => c.writeVElem d p.2 p.1) c).x = c.x ∧ (l.foldl (fun c p => c.writeVElem d p.2 p.1) c).wins = c.wins := by
  induction l generalizing c with
  | nil => exact ⟨rfl, rfl⟩
  | cons p l ih => simpa using ih (c.writeVElem d p.2 p.1)

@[simp] theorem Ctx.writeVec_x (c : Ctx) (d : Nat) (vs : List Lane) (t : Bool) (k : Nat) : (c.writeVec d vs t k).x = c.x := by
  simp only [Ctx.writeVec, Ctx.taintV_x]
  exact (Ctx.writeElems_x _ d c).1

@[simp] theorem Ctx.writeVec_wins (c : Ctx) (d : Nat) (vs : List Lane) (t : Bool) (k : Nat) : (c.writeVec d vs t k).wins = c.wins := by
  simp only [Ctx.writeVec, Ctx.taintV_wins]
  exact (Ctx.writeElems_x _ d c).2

@[simp] theorem Ctx.writeX_wins (c : Ctx) (n : Nat) (v : Word) (t : Bool) : (c.writeX n v t).wins = c.wins := by
  unfold Ctx.writeX; split <;> rfl

theorem Ctx.readX_congr {c c' : Ctx} (h : c'.x = c.x) (r : Nat) : (c'.readX r).1 = (c.readX r).1 := by
  unfold Ctx.readX; split <;> simp [h]

/-- A closing window leaves every scalar register alone that it holds no result for. -/
theorem Ctx.readX_writeWin (c : Ctx) (w : Window) (r : Nat) (h : w.spares r) : ((c.writeWin w).readX r).1 = (c.readX r).1 := by
  unfold Ctx.writeWin
  split
  · rfl
  · split
    · rename_i v t hst
      exact Ctx.readX_writeX_other c _ _ _ _ (fun e => h e v t hst)
    · exact Ctx.readX_congr (by simp) r
    · rfl

@[simp] theorem Ctx.writeWin_wins (c : Ctx) (w : Window) : (c.writeWin w).wins = c.wins := by
  unfold Ctx.writeWin
  split
  · rfl
  · split <;> simp

theorem supersede_spares {w : Window} {ws : List Window} {r : Nat} (h : ∀ u ∈ ws, u.spares r) :
    ∀ u ∈ supersede w ws, u.spares r := by
  intro u hu
  simp only [supersede, List.mem_map] at hu
  obtain ⟨v, hv, rfl⟩ := hu
  have := h v hv
  split <;> exact this

/-- The windows that close leave every scalar register alone that none of them holds a result for. -/
theorem Ctx.readX_closeReady (c : Ctx) (r : Nat) (h : ∀ w ∈ c.wins, w.spares r) : ((c.closeReady).readX r).1 = (c.readX r).1 := by
  unfold Ctx.closeReady
  generalize c.wins.filter (fun w => w.rem == 0 && w.isLanded) = l
  induction l generalizing c with
  | nil => rfl
  | cons w l ih =>
    simp only [List.foldl_cons]
    cases hf : c.wins.find? (fun u => u.id == w.id) with
    | none =>
      refine (ih _ ?_).trans (Ctx.readX_congr rfl r)
      intro u hu
      exact supersede_spares (fun v hv => h v (List.mem_filter.mp hv).1) u hu
    | some u =>
      have hu := h u (List.mem_of_find?_eq_some hf)
      refine (ih _ ?_).trans ((Ctx.readX_congr (c := c.writeWin u) rfl r).trans (Ctx.readX_writeWin c u r hu))
      intro v hv
      refine supersede_spares (fun z hz => ?_) v hv
      have := (List.mem_filter.mp hz).1
      rw [Ctx.writeWin_wins] at this
      exact h z this

/-- One more instruction counted leaves every scalar register alone that no open window holds a result for. -/
theorem Ctx.readX_countWins (c : Ctx) (n r : Nat) (h : ∀ w ∈ c.wins, w.spares r) : ((c.countWins n).readX r).1 = (c.readX r).1 := by
  unfold Ctx.countWins
  refine (Ctx.readX_closeReady _ r ?_).trans (Ctx.readX_congr rfl r)
  intro u hu
  simp only [List.mem_map] at hu
  obtain ⟨v, hv, rfl⟩ := hu
  have := h v hv
  split <;> exact this

/-! ### Control that passes to the next word -/

theorem Ctx.enterModulo_x (c : Ctx) (l : LoopCtx) : (c.enterModulo l).x = c.x := by
  unfold Ctx.enterModulo
  split <;> rfl

theorem Ctx.fallThrough_x (c : Ctx) : c.fallThrough.x = c.x := by
  unfold Ctx.fallThrough
  split
  · rfl
  · split
    · split
      · rfl
      · exact Ctx.enterModulo_x _ _
    · split
      · split <;> rfl
      · rfl

theorem Ctx.enterModulo_wins (c : Ctx) (l : LoopCtx) : (c.enterModulo l).wins = c.wins := by
  unfold Ctx.enterModulo
  split <;> rfl

theorem Ctx.fallThrough_wins (c : Ctx) : c.fallThrough.wins = c.wins := by
  unfold Ctx.fallThrough
  split
  · rfl
  · split
    · split
      · rfl
      · exact Ctx.enterModulo_wins _ _
    · split
      · split <;> rfl
      · rfl

/-- Where no loop is active control passes to PC + 4. -/
theorem Ctx.fallThrough_pc (c : Ctx) (h : c.loops = []) : c.fallThrough.pc = c.pc + 4 := by
  unfold Ctx.fallThrough
  rw [h]

/-- The acting context after an instruction that is followed in sequence. -/
theorem followed_ctx (i : Instr) (s t : State) (h : Acts t) :
    (followed i s t).ctx = (t.ctx.fallThrough).retire (instrShape i).isPfx s.ctx.nextWin := by
  have h1 := State.acts_onCtx t Ctx.fallThrough h
  have h2 : (followed i s t).tile = (t.onCtx Ctx.fallThrough).tile.issues t.actor.ctx (fun c => c.retire (instrShape i).isPfx s.ctx.nextWin) :=
    State.tile_onTile _ _ (fun _ => rfl) h1
  have h3 : (followed i s t).ctx = (followed i s t).tile.ctxs[t.actor.ctx] := rfl
  have h4 := State.ctx_onCtx t Ctx.fallThrough h
  rw [h3, h2, ← h4]
  exact Vector.getElem_set_self _

/-- What `retire` leaves of the scalar registers. -/
theorem Ctx.readX_retire (c : Ctx) (p : Bool) (n r : Nat) (h : ∀ w ∈ c.wins, w.spares r) : ((c.retire p n).readX r).1 = (c.readX r).1 := by
  unfold Ctx.retire
  refine Eq.trans (Ctx.readX_congr ?_ r) (Ctx.readX_countWins c n r h)
  cases p <;> rfl

/-- A scalar register that no open window holds a result for reads, after an instruction that is followed in sequence, as
its effect left it. -/
theorem followed_readX (i : Instr) (s t : State) (r : Nat) (h : Acts t) (hw : ∀ w ∈ t.ctx.wins, w.spares r) :
    ((followed i s t).ctx.readX r).1 = (t.ctx.readX r).1 := by
  rw [followed_ctx i s t h]
  refine (Ctx.readX_retire _ _ _ r ?_).trans (Ctx.readX_congr (Ctx.fallThrough_x _) r)
  rw [Ctx.fallThrough_wins]
  exact hw

end Sys2Proof.Machine
end

