-- ==== Sys2Proof/Laws/Memory.lean ====
section
/-! SUPPORT. Byte memories: what is read after a write, and that every operation over a memory keeps the canonical
form; then the same for a tile's local store and for the package's memories. -/

namespace Sys2Proof.Machine

/-! ### The canonical form -/

@[simp] theorem Memory.wf_nil : Memory.wf [] = true := rfl

theorem Memory.wfFrom_mono {m : Memory} {a b : Nat} (h : a ≤ b) (w : Memory.wfFrom b m = true) : Memory.wfFrom a m = true := by
  cases m with
  | nil => rfl
  | cons e r =>
    obtain ⟨k, v⟩ := e
    simp only [Memory.wfFrom, Bool.and_eq_true, decide_eq_true_eq] at w ⊢
    exact ⟨⟨by omega, w.1.2⟩, w.2⟩

/-- Below the least key nothing is listed. -/
theorem Memory.get_below {m : Memory} {lo a : Nat} (w : Memory.wfFrom lo m = true) (h : a < lo) : Memory.get m a = Memory.absent := by
  induction m generalizing lo with
  | nil => rfl
  | cons e r ih =>
    obtain ⟨k, v⟩ := e
    simp only [Memory.wfFrom, Bool.and_eq_true, decide_eq_true_eq] at w
    simp only [Memory.get]
    rw [if_neg (by omega)]
    exact ih w.2 (by omega)

theorem Memory.wfFrom_set {m : Memory} {lo a : Nat} (b : Byte) (w : Memory.wfFrom lo m = true) (h : lo ≤ a) :
    Memory.wfFrom lo (Memory.set m a b) = true := by
  induction m generalizing lo with
  | nil =>
    simp only [Memory.set]
    split
    · rfl
    · simp [Memory.wfFrom, *]
  | cons e r ih =>
    obtain ⟨k, v⟩ := e
    simp only [Memory.wfFrom, Bool.and_eq_true, decide_eq_true_eq, bne_iff_ne] at w
    simp only [Memory.set]
    split
    · split
      · simp [Memory.wfFrom, w.1.1, w.1.2, w.2]
      · simp only [Memory.wfFrom, Bool.and_eq_true, decide_eq_true_eq, bne_iff_ne]
        exact ⟨⟨h, by assumption⟩, ⟨⟨by omega, w.1.2⟩, w.2⟩⟩
    · split
      · subst_vars
        split
        · exact Memory.wfFrom_mono (by omega) w.2
        · simp only [Memory.wfFrom, Bool.and_eq_true, decide_eq_true_eq, bne_iff_ne]
          exact ⟨⟨h, by assumption⟩, w.2⟩
      · simp only [Memory.wfFrom, Bool.and_eq_true, decide_eq_true_eq, bne_iff_ne]
        exact ⟨w.1, ih w.2 (by omega)⟩

/-- A write of one byte keeps the canonical form. -/
theorem Memory.wf_set {m : Memory} (w : Memory.wf m = true) (a : Nat) (b : Byte) : Memory.wf (Memory.set m a b) = true :=
  Memory.wfFrom_set b w (by omega)

/-- A write of bytes keeps the canonical form. -/
theorem Memory.wf_write {m : Memory} (w : Memory.wf m = true) (a : Nat) (bs : List Byte) : Memory.wf (Memory.write m a bs) = true := by
  induction bs generalizing m a with
  | nil => exact w
  | cons b bs ih => exact ih (Memory.wf_set w a b) (a + 1)

/-- A masked write keeps the canonical form. -/
theorem Memory.wf_writeMask {m : Memory} (w : Memory.wf m = true) (a : Nat) (bs : List (Byte × Bool)) :
    Memory.wf (Memory.writeMask m a bs) = true := by
  induction bs generalizing m a with
  | nil => exact w
  | cons b bs ih =>
    obtain ⟨b, on⟩ := b
    refine ih ?_ (a + 1)
    split
    · exact Memory.wf_set w a b
    · exact w

/-! ### Reading what was written -/

theorem Memory.get_set_from {m : Memory} {lo : Nat} (w : Memory.wfFrom lo m = true) (a c : Nat) (b : Byte) :
    Memory.get (Memory.set m a b) c = if c = a then b else Memory.get m c := by
  induction m generalizing lo with
  | nil =>
    by_cases hb : b = Memory.absent <;> by_cases hc : c = a
    · simp [Memory.set, Memory.get, hb]
    · simp [Memory.set, Memory.get, hb]
    · simp [Memory.set, Memory.get, hb, hc]
    · simp [Memory.set, Memory.get, hb, hc, Ne.symm hc]
  | cons e r ih =>
    obtain ⟨k, v⟩ := e
    simp only [Memory.wfFrom, Bool.and_eq_true, decide_eq_true_eq] at w
    simp only [Memory.set]
    split
    · have hk : Memory.get ((k, v) :: r) a = Memory.absent :=
        Memory.get_below (lo := a + 1) (by simp only [Memory.wfFrom, Bool.and_eq_true, decide_eq_true_eq]; exact ⟨⟨by omega, w.1.2⟩, w.2⟩) (by omega)
      split
      · split
        · subst_vars; rw [hk]
        · rfl
      · rw [Memory.get]
        split
        · simp [*]
        · rw [if_neg (by omega)]
    · split
      · subst_vars
        split
        · split
          · subst_vars; exact Memory.get_below w.2 (by omega)
          · simp only [Memory.get]; rw [if_neg (by omega)]
        · simp only [Memory.get, eq_comm]
          split <;> simp_all
      · simp only [Memory.get]
        rw [ih w.2]
        split
        · rw [if_neg (by omega)]
        · rfl

/-- The byte read after a write of one byte. -/
theorem Memory.get_set {m : Memory} (w : Memory.wf m = true) (a c : Nat) (b : Byte) :
    Memory.get (Memory.set m a b) c = if c = a then b else Memory.get m c := Memory.get_set_from w a c b

/-- The byte read after a write of bytes. -/
theorem Memory.get_write {m : Memory} (w : Memory.wf m = true) (a : Nat) (bs : List Byte) (c : Nat) :
    Memory.get (Memory.write m a bs) c = if a ≤ c ∧ c < a + bs.length then bs.getD (c - a) 0 else Memory.get m c := by
  induction bs generalizing m a with
  | nil => simp only [Memory.write, List.length_nil]; rw [if_neg (by omega)]
  | cons b bs ih =>
    simp only [Memory.write, List.length_cons]
    rw [ih (Memory.wf_set w a b), Memory.get_set w]
    by_cases hc : c = a
    · subst hc
      rw [if_neg (by omega), if_pos rfl, if_pos (by omega)]
      simp
    · rw [if_neg hc]
      by_cases h2 : a + 1 ≤ c ∧ c < a + 1 + bs.length
      · rw [if_pos h2, if_pos (by omega)]
        obtain ⟨d, rfl⟩ : ∃ d, c = a + 1 + d := ⟨c - (a + 1), by omega⟩
        have e1 : a + 1 + d - (a + 1) = d := by omega
        have e2 : a + 1 + d - a = d + 1 := by omega
        rw [e1, e2, List.getD_cons_succ]
      · rw [if_neg h2, if_neg (by omega)]

/-- A write leaves every byte outside it alone. -/
theorem Memory.get_write_outside {m : Memory} (w : Memory.wf m = true) (a : Nat) (bs : List Byte) (c : Nat)
    (h : c < a ∨ a + bs.length ≤ c) : Memory.get (Memory.write m a bs) c = Memory.get m c := by
  rw [Memory.get_write w, if_neg (by omega)]

/-- Bytes read where they were written. -/
theorem Memory.read_write {m : Memory} (w : Memory.wf m = true) (a : Nat) (bs : List Byte) :
    Memory.read (Memory.write m a bs) a bs.length = bs := by
  apply List.ext_getElem
  · simp [Memory.read]
  · intro i h1 h2
    simp only [Memory.read, List.getElem_map, List.getElem_range]
    rw [Memory.get_write w, if_pos (by omega)]
    have e : a + i - a = i := by omega
    rw [e, List.getD_eq_getElem?_getD, List.getElem?_eq_getElem h2, Option.getD_some]

/-- Bytes read beside a write. -/
theorem Memory.read_write_beside {m : Memory} (w : Memory.wf m = true) (a : Nat) (bs : List Byte) (c n : Nat)
    (h : c + n ≤ a ∨ a + bs.length ≤ c) : Memory.read (Memory.write m a bs) c n = Memory.read m c n := by
  simp only [Memory.read]
  apply List.map_congr_left
  intro i hi
  have := List.mem_range.mp hi
  exact Memory.get_write_outside w a bs (c + i) (by omega)

/-! ### Local store and the package's memories -/

open Sys2Proof.Safety

/-- A write to local store keeps the canonical form. -/
theorem Tile.writeLocal_canonical {t : Tile} (h : TileCanonical t) (off : Nat) (bs : List Byte) (x : Bool) :
    TileCanonical (t.writeLocal off bs x) := by
  obtain ⟨h1, h2, h3⟩ := h
  simp only [Tile.writeLocal]
  split
  · exact ⟨Memory.wf_write h1 _ _, h2, h3⟩
  · split
    · exact ⟨h1, Memory.wf_write h2 _ _, h3⟩
    · exact ⟨h1, h2, Memory.wf_write h3 _ _⟩

/-- Taint of a granule written in parts: no memory of the tile changes. -/
theorem Tile.coverLocal_memories (t : Tile) (off : Nat) (x : Bool) :
    (t.coverLocal off x).main = t.main ∧ (t.coverLocal off x).bankA = t.bankA ∧ (t.coverLocal off x).bankB = t.bankB := by
  simp only [Tile.coverLocal]
  split
  · exact ⟨rfl, rfl, rfl⟩
  · split <;> exact ⟨rfl, rfl, rfl⟩

/-- A write to the shadow bank keeps the canonical form. -/
theorem Tile.writeShadow_canonical {t : Tile} (h : TileCanonical t) (off : Nat) (bs : List Byte) (x : Bool) :
    TileCanonical (t.writeShadow off bs x) := by
  obtain ⟨h1, h2, h3⟩ := h
  simp only [Tile.writeShadow]
  split
  · exact ⟨h1, h2, Memory.wf_write h3 _ _⟩
  · exact ⟨h1, Memory.wf_write h2 _ _, h3⟩

/-- A frame, or any row of words, written to local store keeps the canonical form. -/
theorem Tile.writeWords_canonical {t : Tile} (h : TileCanonical t) (off : Nat) (ws : List (Word × Bool)) :
    TileCanonical (t.writeWords off ws) := by
  induction ws generalizing t off with
  | nil => exact h
  | cons w r ih => exact ih (Tile.writeLocal_canonical h _ _ _) _

/-- A change of one tile that keeps the form keeps it for the state. -/
theorem State.modTile_canonical {s : State} (h : Canonical s) (p : Nat) (f : Tile → Tile)
    (hf : ∀ t, TileCanonical t → TileCanonical (f t)) : Canonical (s.modTile p f) := by
  obtain ⟨h1, h2, h3, h4, h5⟩ := h
  refine ⟨h1, h2, h3, fun t ht => ?_, h5⟩
  simp only [State.modTile, List.mem_map] at ht
  obtain ⟨u, hu, rfl⟩ := ht
  split
  · exact hf u (h4 u hu)
  · exact h4 u hu

/-- A change of a context keeps the form. -/
theorem State.onCtx_canonical {s : State} (h : Canonical s) (f : Ctx → Ctx) : Canonical (s.onCtx f) :=
  State.modTile_canonical h _ _ (fun _ ht => ht)

theorem State.remoteOf_wf {s : State} (h : ∀ r ∈ s.remoteMem, Memory.wf r.2 = true) (p : Nat) : Memory.wf (s.remoteOf p) = true := by
  simp only [State.remoteOf]
  cases e : s.remoteMem.find? (fun r => r.1 == p) with
  | none => rfl
  | some r => exact h r (List.mem_of_find?_eq_some e)

/-- A write to memory, to the host's memory or to another package's keeps the form. -/
theorem State.writeLoc_canonical {s : State} (h : Canonical s) (l : Loc) (bs : List Byte) : Canonical (s.writeLoc l bs) := by
  obtain ⟨h1, h2, h3, h4, h5⟩ := h
  cases l with
  | hbm pa => exact ⟨Memory.wf_write h1 _ _, h2, h3, h4, h5⟩
  | host a => exact ⟨h1, Memory.wf_write h2 _ _, h3, h4, h5⟩
  | remote p va =>
    refine ⟨h1, h2, fun r hr => ?_, h4, h5⟩
    simp only [State.writeLoc, List.mem_cons, List.mem_filter] at hr
    rcases hr with rfl | hr
    · exact Memory.wf_write (State.remoteOf_wf h3 p) _ _
    · exact h3 r hr.1

end Sys2Proof.Machine
end

