-- ==== Sys2Proof/Laws/PerInstr.lean ====
section
/-! SUPPORT. Statements about every instruction as syntax, one lemma a constructor. -/

namespace Sys2Proof.Laws

/-- The word of a well-formed instruction, where it has one, is a word of 32 bits (R39, R172). -/
def WordSize.Statement (i : Instr) : Prop := i.WellFormed → ∀ w, encode i = some w → w < 2 ^ 32

theorem WordSize.of_le {w v : Nat} (h : v < 2 ^ 32) (e : some v = some w) : w < 2 ^ 32 := by injection e with e; exact e ▸ h

theorem WordSize.add (d a b : Nat) : Statement (.add d a b) :=
  fun (wf : d < 64 ∧ a < 64 ∧ b < 64) _ eq => of_le (v := 1 + d * 1048576 + a * 16384 + b * 256) (by omega) eq
theorem WordSize.sub (d a b : Nat) : Statement (.sub d a b) :=
  fun (wf : d < 64 ∧ a < 64 ∧ b < 64) _ eq => of_le (v := 2 + d * 1048576 + a * 16384 + b * 256) (by omega) eq
theorem WordSize.and (d a b : Nat) : Statement (.and d a b) :=
  fun (wf : d < 64 ∧ a < 64 ∧ b < 64) _ eq => of_le (v := 3 + d * 1048576 + a * 16384 + b * 256) (by omega) eq
theorem WordSize.or (d a b : Nat) : Statement (.or d a b) :=
  fun (wf : d < 64 ∧ a < 64 ∧ b < 64) _ eq => of_le (v := 4 + d * 1048576 + a * 16384 + b * 256) (by omega) eq
theorem WordSize.xor (d a b : Nat) : Statement (.xor d a b) :=
  fun (wf : d < 64 ∧ a < 64 ∧ b < 64) _ eq => of_le (v := 5 + d * 1048576 + a * 16384 + b * 256) (by omega) eq
theorem WordSize.andn (d a b : Nat) : Statement (.andn d a b) :=
  fun (wf : d < 64 ∧ a < 64 ∧ b < 64) _ eq => of_le (v := 6 + d * 1048576 + a * 16384 + b * 256) (by omega) eq
theorem WordSize.orn (d a b : Nat) : Statement (.orn d a b) :=
  fun (wf : d < 64 ∧ a < 64 ∧ b < 64) _ eq => of_le (v := 7 + d * 1048576 + a * 16384 + b * 256) (by omega) eq
theorem WordSize.sll (d a b : Nat) : Statement (.sll d a b) :=
  fun (wf : d < 64 ∧ a < 64 ∧ b < 64) _ eq => of_le (v := 8 + d * 1048576 + a * 16384 + b * 256) (by omega) eq
theorem WordSize.srl (d a b : Nat) : Statement (.srl d a b) :=
  fun (wf : d < 64 ∧ a < 64 ∧ b < 64) _ eq => of_le (v := 9 + d * 1048576 + a * 16384 + b * 256) (by omega) eq
theorem WordSize.sra (d a b : Nat) : Statement (.sra d a b) :=
  fun (wf : d < 64 ∧ a < 64 ∧ b < 64) _ eq => of_le (v := 10 + d * 1048576 + a * 16384 + b * 256) (by omega) eq
theorem WordSize.slt (d a b : Nat) : Statement (.slt d a b) :=
  fun (wf : d < 64 ∧ a < 64 ∧ b < 64) _ eq => of_le (v := 11 + d * 1048576 + a * 16384 + b * 256) (by omega) eq
theorem WordSize.sltn (d a b : Nat) : Statement (.sltn d a b) :=
  fun (wf : d < 64 ∧ a < 64 ∧ b < 64) _ eq => of_le (v := 12 + d * 1048576 + a * 16384 + b * 256) (by omega) eq
theorem WordSize.min (d a b : Nat) : Statement (.min d a b) :=
  fun (wf : d < 64 ∧ a < 64 ∧ b < 64) _ eq => of_le (v := 13 + d * 1048576 + a * 16384 + b * 256) (by omega) eq
theorem WordSize.max (d a b : Nat) : Statement (.max d a b) :=
  fun (wf : d < 64 ∧ a < 64 ∧ b < 64) _ eq => of_le (v := 14 + d * 1048576 + a * 16384 + b * 256) (by omega) eq
theorem WordSize.minn (d a b : Nat) : Statement (.minn d a b) :=
  fun (wf : d < 64 ∧ a < 64 ∧ b < 64) _ eq => of_le (v := 15 + d * 1048576 + a * 16384 + b * 256) (by omega) eq
theorem WordSize.maxn (d a b : Nat) : Statement (.maxn d a b) :=
  fun (wf : d < 64 ∧ a < 64 ∧ b < 64) _ eq => of_le (v := 16 + d * 1048576 + a * 16384 + b * 256) (by omega) eq
theorem WordSize.clz (d a : Nat) : Statement (.clz d a) :=
  fun (wf : d < 64 ∧ a < 64) _ eq => of_le (v := 17 + d * 1048576 + a * 16384) (by omega) eq
theorem WordSize.ctz (d a : Nat) : Statement (.ctz d a) :=
  fun (wf : d < 64 ∧ a < 64) _ eq => of_le (v := 18 + d * 1048576 + a * 16384) (by omega) eq
theorem WordSize.popc (d a : Nat) : Statement (.popc d a) :=
  fun (wf : d < 64 ∧ a < 64) _ eq => of_le (v := 19 + d * 1048576 + a * 16384) (by omega) eq
theorem WordSize.bswap (d a : Nat) : Statement (.bswap d a) :=
  fun (wf : d < 64 ∧ a < 64) _ eq => of_le (v := 20 + d * 1048576 + a * 16384) (by omega) eq
theorem WordSize.addw (d a b : Nat) : Statement (.addw d a b) :=
  fun (wf : d < 64 ∧ a < 64 ∧ b < 64) _ eq => of_le (v := 21 + d * 1048576 + a * 16384 + b * 256) (by omega) eq
theorem WordSize.subw (d a b : Nat) : Statement (.subw d a b) :=
  fun (wf : d < 64 ∧ a < 64 ∧ b < 64) _ eq => of_le (v := 22 + d * 1048576 + a * 16384 + b * 256) (by omega) eq
theorem WordSize.sllw (d a b : Nat) : Statement (.sllw d a b) :=
  fun (wf : d < 64 ∧ a < 64 ∧ b < 64) _ eq => of_le (v := 23 + d * 1048576 + a * 16384 + b * 256) (by omega) eq
theorem WordSize.srlw (d a b : Nat) : Statement (.srlw d a b) :=
  fun (wf : d < 64 ∧ a < 64 ∧ b < 64) _ eq => of_le (v := 24 + d * 1048576 + a * 16384 + b * 256) (by omega) eq
theorem WordSize.sraw (d a b : Nat) : Statement (.sraw d a b) :=
  fun (wf : d < 64 ∧ a < 64 ∧ b < 64) _ eq => of_le (v := 25 + d * 1048576 + a * 16384 + b * 256) (by omega) eq
theorem WordSize.czero (d a b : Nat) : Statement (.czero d a b) :=
  fun (wf : d < 64 ∧ a < 64 ∧ b < 64) _ eq => of_le (v := 26 + d * 1048576 + a * 16384 + b * 256) (by omega) eq
theorem WordSize.addi (d a i : Nat) : Statement (.addi d a i) :=
  fun (wf : d < 64 ∧ a < 64 ∧ i < 16384) _ eq => of_le (v := 67108864 + d * 1048576 + a * 16384 + i) (by omega) eq
theorem WordSize.andi (d a i : Nat) : Statement (.andi d a i) :=
  fun (wf : d < 64 ∧ a < 64 ∧ i < 16384) _ eq => of_le (v := 134217728 + d * 1048576 + a * 16384 + i) (by omega) eq
theorem WordSize.ori (d a i : Nat) : Statement (.ori d a i) :=
  fun (wf : d < 64 ∧ a < 64 ∧ i < 16384) _ eq => of_le (v := 201326592 + d * 1048576 + a * 16384 + i) (by omega) eq
theorem WordSize.xori (d a i : Nat) : Statement (.xori d a i) :=
  fun (wf : d < 64 ∧ a < 64 ∧ i < 16384) _ eq => of_le (v := 268435456 + d * 1048576 + a * 16384 + i) (by omega) eq
theorem WordSize.slti (d a i : Nat) : Statement (.slti d a i) :=
  fun (wf : d < 64 ∧ a < 64 ∧ i < 16384) _ eq => of_le (v := 335544320 + d * 1048576 + a * 16384 + i) (by omega) eq
theorem WordSize.sltni (d a i : Nat) : Statement (.sltni d a i) :=
  fun (wf : d < 64 ∧ a < 64 ∧ i < 16384) _ eq => of_le (v := 402653184 + d * 1048576 + a * 16384 + i) (by omega) eq
theorem WordSize.addiw (d a i : Nat) : Statement (.addiw d a i) :=
  fun (wf : d < 64 ∧ a < 64 ∧ i < 16384) _ eq => of_le (v := 469762048 + d * 1048576 + a * 16384 + i) (by omega) eq
theorem WordSize.slli (d a s : Nat) : Statement (.slli d a s) :=
  fun (wf : d < 64 ∧ a < 64 ∧ s < 64) _ eq => of_le (v := 536875008 + d * 1048576 + a * 16384 + s) (by omega) eq
theorem WordSize.srli (d a s : Nat) : Statement (.srli d a s) :=
  fun (wf : d < 64 ∧ a < 64 ∧ s < 64) _ eq => of_le (v := 536879104 + d * 1048576 + a * 16384 + s) (by omega) eq
theorem WordSize.srai (d a s : Nat) : Statement (.srai d a s) :=
  fun (wf : d < 64 ∧ a < 64 ∧ s < 64) _ eq => of_le (v := 536883200 + d * 1048576 + a * 16384 + s) (by omega) eq
theorem WordSize.lui (d i : Nat) : Statement (.lui d i) :=
  fun (wf : d < 64 ∧ i < 1048576) _ eq => of_le (v := 603979776 + d * 1048576 + i) (by omega) eq
theorem WordSize.adpc (d i : Nat) : Statement (.adpc d i) :=
  fun (wf : d < 64 ∧ i < 1048576) _ eq => of_le (v := 671088640 + d * 1048576 + i) (by omega) eq
theorem WordSize.mul (d a b l : Nat) : Statement (.mul d a b l) :=
  fun (wf : d < 64 ∧ a < 64 ∧ b < 64 ∧ l < 16) _ eq => of_le (v := 738197505 + d * 1048576 + a * 16384 + b * 256 + l * 16) (by omega) eq
theorem WordSize.mulh (d a b l : Nat) : Statement (.mulh d a b l) :=
  fun (wf : d < 64 ∧ a < 64 ∧ b < 64 ∧ l < 16) _ eq => of_le (v := 738197506 + d * 1048576 + a * 16384 + b * 256 + l * 16) (by omega) eq
theorem WordSize.mulhn (d a b l : Nat) : Statement (.mulhn d a b l) :=
  fun (wf : d < 64 ∧ a < 64 ∧ b < 64 ∧ l < 16) _ eq => of_le (v := 738197507 + d * 1048576 + a * 16384 + b * 256 + l * 16) (by omega) eq
theorem WordSize.mulhsn (d a b l : Nat) : Statement (.mulhsn d a b l) :=
  fun (wf : d < 64 ∧ a < 64 ∧ b < 64 ∧ l < 16) _ eq => of_le (v := 738197508 + d * 1048576 + a * 16384 + b * 256 + l * 16) (by omega) eq
theorem WordSize.div (d a b l : Nat) : Statement (.div d a b l) :=
  fun (wf : d < 64 ∧ a < 64 ∧ b < 64 ∧ l < 16) _ eq => of_le (v := 738197509 + d * 1048576 + a * 16384 + b * 256 + l * 16) (by omega) eq
theorem WordSize.divn (d a b l : Nat) : Statement (.divn d a b l) :=
  fun (wf : d < 64 ∧ a < 64 ∧ b < 64 ∧ l < 16) _ eq => of_le (v := 738197510 + d * 1048576 + a * 16384 + b * 256 + l * 16) (by omega) eq
theorem WordSize.rem (d a b l : Nat) : Statement (.rem d a b l) :=
  fun (wf : d < 64 ∧ a < 64 ∧ b < 64 ∧ l < 16) _ eq => of_le (v := 738197511 + d * 1048576 + a * 16384 + b * 256 + l * 16) (by omega) eq
theorem WordSize.remn (d a b l : Nat) : Statement (.remn d a b l) :=
  fun (wf : d < 64 ∧ a < 64 ∧ b < 64 ∧ l < 16) _ eq => of_le (v := 738197512 + d * 1048576 + a * 16384 + b * 256 + l * 16) (by omega) eq
theorem WordSize.mulw (d a b l : Nat) : Statement (.mulw d a b l) :=
  fun (wf : d < 64 ∧ a < 64 ∧ b < 64 ∧ l < 16) _ eq => of_le (v := 738197513 + d * 1048576 + a * 16384 + b * 256 + l * 16) (by omega) eq
theorem WordSize.divw (d a b l : Nat) : Statement (.divw d a b l) :=
  fun (wf : d < 64 ∧ a < 64 ∧ b < 64 ∧ l < 16) _ eq => of_le (v := 738197514 + d * 1048576 + a * 16384 + b * 256 + l * 16) (by omega) eq
theorem WordSize.divnw (d a b l : Nat) : Statement (.divnw d a b l) :=
  fun (wf : d < 64 ∧ a < 64 ∧ b < 64 ∧ l < 16) _ eq => of_le (v := 738197515 + d * 1048576 + a * 16384 + b * 256 + l * 16) (by omega) eq
theorem WordSize.beq (a b o : Nat) : Statement (.beq a b o) :=
  fun (wf : a < 64 ∧ b < 64 ∧ o < 16384) _ eq => of_le (v := 805306368 + a * 1048576 + b * 16384 + o) (by omega) eq
theorem WordSize.bne (a b o : Nat) : Statement (.bne a b o) :=
  fun (wf : a < 64 ∧ b < 64 ∧ o < 16384) _ eq => of_le (v := 872415232 + a * 1048576 + b * 16384 + o) (by omega) eq
theorem WordSize.blt (a b o : Nat) : Statement (.blt a b o) :=
  fun (wf : a < 64 ∧ b < 64 ∧ o < 16384) _ eq => of_le (v := 939524096 + a * 1048576 + b * 16384 + o) (by omega) eq
theorem WordSize.bge (a b o : Nat) : Statement (.bge a b o) :=
  fun (wf : a < 64 ∧ b < 64 ∧ o < 16384) _ eq => of_le (v := 1006632960 + a * 1048576 + b * 16384 + o) (by omega) eq
theorem WordSize.bltn (a b o : Nat) : Statement (.bltn a b o) :=
  fun (wf : a < 64 ∧ b < 64 ∧ o < 16384) _ eq => of_le (v := 1073741824 + a * 1048576 + b * 16384 + o) (by omega) eq
theorem WordSize.bgen (a b o : Nat) : Statement (.bgen a b o) :=
  fun (wf : a < 64 ∧ b < 64 ∧ o < 16384) _ eq => of_le (v := 1140850688 + a * 1048576 + b * 16384 + o) (by omega) eq
theorem WordSize.jal (d o : Nat) : Statement (.jal d o) :=
  fun (wf : d < 64 ∧ o < 1048576) _ eq => of_le (v := 1207959552 + d * 1048576 + o) (by omega) eq
theorem WordSize.jalr (d a i : Nat) : Statement (.jalr d a i) :=
  fun (wf : d < 64 ∧ a < 64 ∧ i < 16384) _ eq => of_le (v := 1275068416 + d * 1048576 + a * 16384 + i) (by omega) eq
theorem WordSize.loopC (h a l : Nat) : Statement (.loopC h a l) :=
  fun (wf : h < 64 ∧ a < 64 ∧ l < 64) _ eq => of_le (v := 1342177281 + h * 1048576 + a * 16384 + l * 256) (by omega) eq
theorem WordSize.loopM (i a s : Nat) : Statement (.loopM i a s) :=
  fun (wf : i < 64 ∧ a < 64 ∧ s < 4) _ eq => of_le (v := 1342177282 + i * 1048576 + a * 16384 + s * 256) (by omega) eq
theorem WordSize.lbrk (a : Nat) : Statement (.lbrk a) :=
  fun (wf : a < 64) _ eq => of_le (v := 1342177283 + a * 16384) (by omega) eq
theorem WordSize.lctx (d s : Nat) : Statement (.lctx d s) :=
  fun (wf : d < 64 ∧ s < 64 ∧ (s ≤ 5)) _ eq => of_le (v := 1342177284 + d * 1048576 + s * 256) (by omega) eq
theorem WordSize.ld (d a l z i : Nat) : Statement (.ld d a l z i) :=
  fun (wf : d < 64 ∧ a < 64 ∧ l < 16 ∧ z < 8 ∧ i < 128 ∧ (z < 7)) _ eq => of_le (v := 1409286144 + d * 1048576 + a * 16384 + l * 1024 + z * 128 + i) (by omega) eq
theorem WordSize.ldx (d a b l z h : Nat) : Statement (.ldx d a b l z h) :=
  fun (wf : d < 64 ∧ a < 64 ∧ b < 64 ∧ l < 16 ∧ z < 8 ∧ h < 2 ∧ (z < 7)) _ eq => of_le (v := 1476395008 + d * 1048576 + a * 16384 + b * 256 + l * 16 + z * 2 + h) (by omega) eq
theorem WordSize.st (s a z i : Nat) : Statement (.st s a z i) :=
  fun (wf : s < 64 ∧ a < 64 ∧ z < 4 ∧ i < 4096) _ eq => of_le (v := 1543503872 + s * 1048576 + a * 16384 + z * 4096 + i) (by omega) eq
theorem WordSize.stx (s a b z h : Nat) : Statement (.stx s a b z h) :=
  fun (wf : s < 64 ∧ a < 64 ∧ b < 64 ∧ z < 4 ∧ h < 4) _ eq => of_le (v := 1610612736 + s * 1048576 + a * 16384 + b * 256 + z * 64 + h * 16) (by omega) eq
theorem WordSize.wbR (v a b : Nat) : Statement (.wbR v a b) :=
  fun (wf : v < 4 ∧ a < 64 ∧ b < 64 ∧ (v ≤ 1)) _ eq => of_le (v := 1677721601 + v * 1048576 + a * 16384 + b * 256) (by omega) eq
theorem WordSize.invR (v a b : Nat) : Statement (.invR v a b) :=
  fun (wf : v < 4 ∧ a < 64 ∧ b < 64 ∧ (v ≤ 1)) _ eq => of_le (v := 1677721602 + v * 1048576 + a * 16384 + b * 256) (by omega) eq
theorem WordSize.wbinvR (v a b : Nat) : Statement (.wbinvR v a b) :=
  fun (wf : v < 4 ∧ a < 64 ∧ b < 64 ∧ (v ≤ 1)) _ eq => of_le (v := 1677721603 + v * 1048576 + a * 16384 + b * 256) (by omega) eq
theorem WordSize.iinvR (v a b : Nat) : Statement (.iinvR v a b) :=
  fun (wf : v < 4 ∧ a < 64 ∧ b < 64 ∧ (v ≤ 1)) _ eq => of_le (v := 1677721604 + v * 1048576 + a * 16384 + b * 256) (by omega) eq
theorem WordSize.fetchb : Statement .fetchb := fun _ _ e => of_le (v := 1677721605) (by decide) e
theorem WordSize.pfr (v a b : Nat) : Statement (.pfr v a b) :=
  fun (wf : v < 4 ∧ a < 64 ∧ b < 64 ∧ (v ≤ 1)) _ eq => of_le (v := 1677721606 + v * 1048576 + a * 16384 + b * 256) (by omega) eq
theorem WordSize.sbreplay (a : Nat) : Statement (.sbreplay a) :=
  fun (wf : a < 64) _ eq => of_le (v := 1744830465 + a * 16384) (by omega) eq
theorem WordSize.sbdrop (a : Nat) : Statement (.sbdrop a) :=
  fun (wf : a < 64) _ eq => of_le (v := 1744830466 + a * 16384) (by omega) eq
theorem WordSize.sbstat (d a l : Nat) : Statement (.sbstat d a l) :=
  fun (wf : d < 64 ∧ a < 64 ∧ l < 16) _ eq => of_le (v := 1744830467 + d * 1048576 + a * 16384 + l * 16) (by omega) eq
theorem WordSize.amoWSwap (d a b o s : Nat) : Statement (.amoWSwap d a b o s) :=
  fun (wf : d < 64 ∧ a < 64 ∧ b < 64 ∧ o < 4 ∧ s < 4) _ eq => of_le (v := 1811939344 + d * 1048576 + a * 16384 + b * 256 + o * 4 + s) (by omega) eq
theorem WordSize.amoWAdd (d a b o s : Nat) : Statement (.amoWAdd d a b o s) :=
  fun (wf : d < 64 ∧ a < 64 ∧ b < 64 ∧ o < 4 ∧ s < 4) _ eq => of_le (v := 1811939360 + d * 1048576 + a * 16384 + b * 256 + o * 4 + s) (by omega) eq
theorem WordSize.amoWAnd (d a b o s : Nat) : Statement (.amoWAnd d a b o s) :=
  fun (wf : d < 64 ∧ a < 64 ∧ b < 64 ∧ o < 4 ∧ s < 4) _ eq => of_le (v := 1811939376 + d * 1048576 + a * 16384 + b * 256 + o * 4 + s) (by omega) eq
theorem WordSize.amoWOr (d a b o s : Nat) : Statement (.amoWOr d a b o s) :=
  fun (wf : d < 64 ∧ a < 64 ∧ b < 64 ∧ o < 4 ∧ s < 4) _ eq => of_le (v := 1811939392 + d * 1048576 + a * 16384 + b * 256 + o * 4 + s) (by omega) eq
theorem WordSize.amoWXor (d a b o s : Nat) : Statement (.amoWXor d a b o s) :=
  fun (wf : d < 64 ∧ a < 64 ∧ b < 64 ∧ o < 4 ∧ s < 4) _ eq => of_le (v := 1811939408 + d * 1048576 + a * 16384 + b * 256 + o * 4 + s) (by omega) eq
theorem WordSize.amoWMin (d a b o s : Nat) : Statement (.amoWMin d a b o s) :=
  fun (wf : d < 64 ∧ a < 64 ∧ b < 64 ∧ o < 4 ∧ s < 4) _ eq => of_le (v := 1811939424 + d * 1048576 + a * 16384 + b * 256 + o * 4 + s) (by omega) eq
theorem WordSize.amoWMax (d a b o s : Nat) : Statement (.amoWMax d a b o s) :=
  fun (wf : d < 64 ∧ a < 64 ∧ b < 64 ∧ o < 4 ∧ s < 4) _ eq => of_le (v := 1811939440 + d * 1048576 + a * 16384 + b * 256 + o * 4 + s) (by omega) eq
theorem WordSize.amoWMinn (d a b o s : Nat) : Statement (.amoWMinn d a b o s) :=
  fun (wf : d < 64 ∧ a < 64 ∧ b < 64 ∧ o < 4 ∧ s < 4) _ eq => of_le (v := 1811939456 + d * 1048576 + a * 16384 + b * 256 + o * 4 + s) (by omega) eq
theorem WordSize.amoWMaxn (d a b o s : Nat) : Statement (.amoWMaxn d a b o s) :=
  fun (wf : d < 64 ∧ a < 64 ∧ b < 64 ∧ o < 4 ∧ s < 4) _ eq => of_le (v := 1811939472 + d * 1048576 + a * 16384 + b * 256 + o * 4 + s) (by omega) eq
theorem WordSize.amoWCas (d a b o s : Nat) : Statement (.amoWCas d a b o s) :=
  fun (wf : d < 64 ∧ a < 64 ∧ b < 64 ∧ o < 4 ∧ s < 4) _ eq => of_le (v := 1811939488 + d * 1048576 + a * 16384 + b * 256 + o * 4 + s) (by omega) eq
theorem WordSize.amoDSwap (d a b o s : Nat) : Statement (.amoDSwap d a b o s) :=
  fun (wf : d < 64 ∧ a < 64 ∧ b < 64 ∧ o < 4 ∧ s < 4) _ eq => of_le (v := 1879048208 + d * 1048576 + a * 16384 + b * 256 + o * 4 + s) (by omega) eq
theorem WordSize.amoDAdd (d a b o s : Nat) : Statement (.amoDAdd d a b o s) :=
  fun (wf : d < 64 ∧ a < 64 ∧ b < 64 ∧ o < 4 ∧ s < 4) _ eq => of_le (v := 1879048224 + d * 1048576 + a * 16384 + b * 256 + o * 4 + s) (by omega) eq
theorem WordSize.amoDAnd (d a b o s : Nat) : Statement (.amoDAnd d a b o s) :=
  fun (wf : d < 64 ∧ a < 64 ∧ b < 64 ∧ o < 4 ∧ s < 4) _ eq => of_le (v := 1879048240 + d * 1048576 + a * 16384 + b * 256 + o * 4 + s) (by omega) eq
theorem WordSize.amoDOr (d a b o s : Nat) : Statement (.amoDOr d a b o s) :=
  fun (wf : d < 64 ∧ a < 64 ∧ b < 64 ∧ o < 4 ∧ s < 4) _ eq => of_le (v := 1879048256 + d * 1048576 + a * 16384 + b * 256 + o * 4 + s) (by omega) eq
theorem WordSize.amoDXor (d a b o s : Nat) : Statement (.amoDXor d a b o s) :=
  fun (wf : d < 64 ∧ a < 64 ∧ b < 64 ∧ o < 4 ∧ s < 4) _ eq => of_le (v := 1879048272 + d * 1048576 + a * 16384 + b * 256 + o * 4 + s) (by omega) eq
theorem WordSize.amoDMin (d a b o s : Nat) : Statement (.amoDMin d a b o s) :=
  fun (wf : d < 64 ∧ a < 64 ∧ b < 64 ∧ o < 4 ∧ s < 4) _ eq => of_le (v := 1879048288 + d * 1048576 + a * 16384 + b * 256 + o * 4 + s) (by omega) eq
theorem WordSize.amoDMax (d a b o s : Nat) : Statement (.amoDMax d a b o s) :=
  fun (wf : d < 64 ∧ a < 64 ∧ b < 64 ∧ o < 4 ∧ s < 4) _ eq => of_le (v := 1879048304 + d * 1048576 + a * 16384 + b * 256 + o * 4 + s) (by omega) eq
theorem WordSize.amoDMinn (d a b o s : Nat) : Statement (.amoDMinn d a b o s) :=
  fun (wf : d < 64 ∧ a < 64 ∧ b < 64 ∧ o < 4 ∧ s < 4) _ eq => of_le (v := 1879048320 + d * 1048576 + a * 16384 + b * 256 + o * 4 + s) (by omega) eq
theorem WordSize.amoDMaxn (d a b o s : Nat) : Statement (.amoDMaxn d a b o s) :=
  fun (wf : d < 64 ∧ a < 64 ∧ b < 64 ∧ o < 4 ∧ s < 4) _ eq => of_le (v := 1879048336 + d * 1048576 + a * 16384 + b * 256 + o * 4 + s) (by omega) eq
theorem WordSize.amoDCas (d a b o s : Nat) : Statement (.amoDCas d a b o s) :=
  fun (wf : d < 64 ∧ a < 64 ∧ b < 64 ∧ o < 4 ∧ s < 4) _ eq => of_le (v := 1879048352 + d * 1048576 + a * 16384 + b * 256 + o * 4 + s) (by omega) eq
theorem WordSize.updAdd (w a b : Nat) : Statement (.updAdd w a b) :=
  fun (wf : w < 2 ∧ a < 64 ∧ b < 64) _ eq => of_le (v := 1946157057 + w * 1048576 + a * 16384 + b * 256) (by omega) eq
theorem WordSize.updAnd (w a b : Nat) : Statement (.updAnd w a b) :=
  fun (wf : w < 2 ∧ a < 64 ∧ b < 64) _ eq => of_le (v := 1946157058 + w * 1048576 + a * 16384 + b * 256) (by omega) eq
theorem WordSize.updOr (w a b : Nat) : Statement (.updOr w a b) :=
  fun (wf : w < 2 ∧ a < 64 ∧ b < 64) _ eq => of_le (v := 1946157059 + w * 1048576 + a * 16384 + b * 256) (by omega) eq
theorem WordSize.updXor (w a b : Nat) : Statement (.updXor w a b) :=
  fun (wf : w < 2 ∧ a < 64 ∧ b < 64) _ eq => of_le (v := 1946157060 + w * 1048576 + a * 16384 + b * 256) (by omega) eq
theorem WordSize.updMin (w a b : Nat) : Statement (.updMin w a b) :=
  fun (wf : w < 2 ∧ a < 64 ∧ b < 64) _ eq => of_le (v := 1946157061 + w * 1048576 + a * 16384 + b * 256) (by omega) eq
theorem WordSize.updMax (w a b : Nat) : Statement (.updMax w a b) :=
  fun (wf : w < 2 ∧ a < 64 ∧ b < 64) _ eq => of_le (v := 1946157062 + w * 1048576 + a * 16384 + b * 256) (by omega) eq
theorem WordSize.updFadd (a b : Nat) : Statement (.updFadd a b) :=
  fun (wf : a < 64 ∧ b < 64) _ eq => of_le (v := 1946157063 + a * 16384 + b * 256) (by omega) eq
theorem WordSize.updFmin (a b : Nat) : Statement (.updFmin a b) :=
  fun (wf : a < 64 ∧ b < 64) _ eq => of_le (v := 1946157064 + a * 16384 + b * 256) (by omega) eq
theorem WordSize.updFmax (a b : Nat) : Statement (.updFmax a b) :=
  fun (wf : a < 64 ∧ b < 64) _ eq => of_le (v := 1946157065 + a * 16384 + b * 256) (by omega) eq
theorem WordSize.updFlush : Statement .updFlush := fun _ _ e => of_le (v := 1946157066) (by decide) e
theorem WordSize.fence (s k : Nat) : Statement (.fence s k) :=
  fun (wf : s < 8 ∧ k < 4 ∧ (s ≤ 4)) _ eq => of_le (v := 2013265984 + s * 8 + k * 2) (by omega) eq
theorem WordSize.tlwait (d a b l : Nat) : Statement (.tlwait d a b l) :=
  fun (wf : d < 64 ∧ a < 64 ∧ b < 64 ∧ l < 16) _ eq => of_le (v := 2013266048 + d * 1048576 + a * 16384 + b * 256 + l * 4) (by omega) eq
theorem WordSize.tlrd (d a : Nat) : Statement (.tlrd d a) :=
  fun (wf : d < 64 ∧ a < 64) _ eq => of_le (v := 2013266112 + d * 1048576 + a * 16384) (by omega) eq
theorem WordSize.tntRd (d a s : Nat) : Statement (.tntRd d a s) :=
  fun (wf : d < 64 ∧ a < 64 ∧ s < 64 ∧ (s ≤ 2 ∧ (s = 2 ∨ a = 0))) _ eq => of_le (v := 3690987521 + d * 1048576 + a * 16384 + s * 256) (by omega) eq
theorem WordSize.tntSet (a s : Nat) : Statement (.tntSet a s) :=
  fun (wf : a < 64 ∧ s < 64 ∧ (s ≤ 1)) _ eq => of_le (v := 3690987522 + a * 16384 + s * 256) (by omega) eq
theorem WordSize.tntClr (a s : Nat) : Statement (.tntClr a s) :=
  fun (wf : a < 64 ∧ s < 64 ∧ (s ≤ 1)) _ eq => of_le (v := 3690987523 + a * 16384 + s * 256) (by omega) eq
theorem WordSize.tntChk (a s : Nat) : Statement (.tntChk a s) :=
  fun (wf : a < 64 ∧ s < 64 ∧ (s ≤ 1)) _ eq => of_le (v := 3690987524 + a * 16384 + s * 256) (by omega) eq
theorem WordSize.send (a b : Nat) : Statement (.send a b) :=
  fun (wf : a < 64 ∧ b < 64) _ eq => of_le (v := 2080374785 + a * 16384 + b * 256) (by omega) eq
theorem WordSize.sendw (a b : Nat) : Statement (.sendw a b) :=
  fun (wf : a < 64 ∧ b < 64) _ eq => of_le (v := 2080374786 + a * 16384 + b * 256) (by omega) eq
theorem WordSize.recv (d g : Nat) : Statement (.recv d g) :=
  fun (wf : d < 64 ∧ g < 64 ∧ (g ≤ 3)) _ eq => of_le (v := 2080374787 + d * 1048576 + g * 256) (by omega) eq
theorem WordSize.rpoll (d g : Nat) : Statement (.rpoll d g) :=
  fun (wf : d < 64 ∧ g < 64 ∧ (g ≤ 3)) _ eq => of_le (v := 2080374788 + d * 1048576 + g * 256) (by omega) eq
theorem WordSize.radv (g : Nat) : Statement (.radv g) :=
  fun (wf : g < 64 ∧ (g ≤ 3)) _ eq => of_le (v := 2080374789 + g * 256) (by omega) eq
theorem WordSize.dep (a b : Nat) : Statement (.dep a b) :=
  fun (wf : a < 64 ∧ b < 64) _ eq => of_le (v := 2080374790 + a * 16384 + b * 256) (by omega) eq
theorem WordSize.tkrd (d s : Nat) : Statement (.tkrd d s) :=
  fun (wf : d < 64 ∧ s < 64 ∧ (s ≤ 2)) _ eq => of_le (v := 2147483649 + d * 1048576 + s * 256) (by omega) eq
theorem WordSize.tkal (d a : Nat) : Statement (.tkal d a) :=
  fun (wf : d < 64 ∧ a < 64) _ eq => of_le (v := 2147483650 + d * 1048576 + a * 16384) (by omega) eq
theorem WordSize.sync : Statement .sync := fun _ _ e => of_le (v := 2147483651) (by decide) e
theorem WordSize.gsync : Statement .gsync := fun _ _ e => of_le (v := 2147483652) (by decide) e
theorem WordSize.rdone : Statement .rdone := fun _ _ e => of_le (v := 2214592513) (by decide) e
theorem WordSize.tpost (a b : Nat) : Statement (.tpost a b) :=
  fun (wf : a < 64 ∧ b < 64) _ eq => of_le (v := 2214592514 + a * 16384 + b * 256) (by omega) eq
theorem WordSize.tinc (a b : Nat) : Statement (.tinc a b) :=
  fun (wf : a < 64 ∧ b < 64) _ eq => of_le (v := 2214592515 + a * 16384 + b * 256) (by omega) eq
theorem WordSize.vfadd (d a b n m : Nat) : Statement (.vfadd d a b n m) :=
  fun (wf : d < 64 ∧ a < 64 ∧ b < 64 ∧ n < 8 ∧ m < 4) _ eq => of_le (v := 2281701376 + d * 1048576 + a * 16384 + b * 256 + n * 4 + m) (by omega) eq
theorem WordSize.vfsub (d a b n m : Nat) : Statement (.vfsub d a b n m) :=
  fun (wf : d < 64 ∧ a < 64 ∧ b < 64 ∧ n < 8 ∧ m < 4) _ eq => of_le (v := 2281701408 + d * 1048576 + a * 16384 + b * 256 + n * 4 + m) (by omega) eq
theorem WordSize.vfmul (d a b n m : Nat) : Statement (.vfmul d a b n m) :=
  fun (wf : d < 64 ∧ a < 64 ∧ b < 64 ∧ n < 8 ∧ m < 4) _ eq => of_le (v := 2281701440 + d * 1048576 + a * 16384 + b * 256 + n * 4 + m) (by omega) eq
theorem WordSize.vfmin (d a b n m : Nat) : Statement (.vfmin d a b n m) :=
  fun (wf : d < 64 ∧ a < 64 ∧ b < 64 ∧ n < 8 ∧ m < 4) _ eq => of_le (v := 2281701472 + d * 1048576 + a * 16384 + b * 256 + n * 4 + m) (by omega) eq
theorem WordSize.vfmax (d a b n m : Nat) : Statement (.vfmax d a b n m) :=
  fun (wf : d < 64 ∧ a < 64 ∧ b < 64 ∧ n < 8 ∧ m < 4) _ eq => of_le (v := 2281701504 + d * 1048576 + a * 16384 + b * 256 + n * 4 + m) (by omega) eq
theorem WordSize.vfcsgn (d a b n m : Nat) : Statement (.vfcsgn d a b n m) :=
  fun (wf : d < 64 ∧ a < 64 ∧ b < 64 ∧ n < 8 ∧ m < 4) _ eq => of_le (v := 2281701536 + d * 1048576 + a * 16384 + b * 256 + n * 4 + m) (by omega) eq
theorem WordSize.vfabs (d a n m : Nat) : Statement (.vfabs d a n m) :=
  fun (wf : d < 64 ∧ a < 64 ∧ n < 8 ∧ m < 4) _ eq => of_le (v := 2281701568 + d * 1048576 + a * 16384 + n * 4 + m) (by omega) eq
theorem WordSize.vfneg (d a n m : Nat) : Statement (.vfneg d a n m) :=
  fun (wf : d < 64 ∧ a < 64 ∧ n < 8 ∧ m < 4) _ eq => of_le (v := 2281701600 + d * 1048576 + a * 16384 + n * 4 + m) (by omega) eq
theorem WordSize.vfma (d a b n m : Nat) : Statement (.vfma d a b n m) :=
  fun (wf : d < 64 ∧ a < 64 ∧ b < 64 ∧ n < 8 ∧ m < 4) _ eq => of_le (v := 2348810240 + d * 1048576 + a * 16384 + b * 256 + n * 4 + m) (by omega) eq
theorem WordSize.vfms (d a b n m : Nat) : Statement (.vfms d a b n m) :=
  fun (wf : d < 64 ∧ a < 64 ∧ b < 64 ∧ n < 8 ∧ m < 4) _ eq => of_le (v := 2348810272 + d * 1048576 + a * 16384 + b * 256 + n * 4 + m) (by omega) eq
theorem WordSize.vfnma (d a b n m : Nat) : Statement (.vfnma d a b n m) :=
  fun (wf : d < 64 ∧ a < 64 ∧ b < 64 ∧ n < 8 ∧ m < 4) _ eq => of_le (v := 2348810304 + d * 1048576 + a * 16384 + b * 256 + n * 4 + m) (by omega) eq
theorem WordSize.vfnms (d a b n m : Nat) : Statement (.vfnms d a b n m) :=
  fun (wf : d < 64 ∧ a < 64 ∧ b < 64 ∧ n < 8 ∧ m < 4) _ eq => of_le (v := 2348810336 + d * 1048576 + a * 16384 + b * 256 + n * 4 + m) (by omega) eq
theorem WordSize.vfdiv (d a b n m : Nat) : Statement (.vfdiv d a b n m) :=
  fun (wf : d < 64 ∧ a < 64 ∧ b < 64 ∧ n < 8 ∧ m < 4) _ eq => of_le (v := 2348810368 + d * 1048576 + a * 16384 + b * 256 + n * 4 + m) (by omega) eq
theorem WordSize.vfsqrt (d a n m : Nat) : Statement (.vfsqrt d a n m) :=
  fun (wf : d < 64 ∧ a < 64 ∧ n < 8 ∧ m < 4) _ eq => of_le (v := 2348810400 + d * 1048576 + a * 16384 + n * 4 + m) (by omega) eq
theorem WordSize.vfclass (d a n m : Nat) : Statement (.vfclass d a n m) :=
  fun (wf : d < 64 ∧ a < 64 ∧ n < 8 ∧ m < 4) _ eq => of_le (v := 2348810432 + d * 1048576 + a * 16384 + n * 4 + m) (by omega) eq
theorem WordSize.vadd (d a b n m : Nat) : Statement (.vadd d a b n m) :=
  fun (wf : d < 64 ∧ a < 64 ∧ b < 64 ∧ n < 8 ∧ m < 4) _ eq => of_le (v := 2415919104 + d * 1048576 + a * 16384 + b * 256 + n * 4 + m) (by omega) eq
theorem WordSize.vsub (d a b n m : Nat) : Statement (.vsub d a b n m) :=
  fun (wf : d < 64 ∧ a < 64 ∧ b < 64 ∧ n < 8 ∧ m < 4) _ eq => of_le (v := 2415919136 + d * 1048576 + a * 16384 + b * 256 + n * 4 + m) (by omega) eq
theorem WordSize.vmul (d a b n m : Nat) : Statement (.vmul d a b n m) :=
  fun (wf : d < 64 ∧ a < 64 ∧ b < 64 ∧ n < 8 ∧ m < 4) _ eq => of_le (v := 2415919168 + d * 1048576 + a * 16384 + b * 256 + n * 4 + m) (by omega) eq
theorem WordSize.vmulh (d a b n m : Nat) : Statement (.vmulh d a b n m) :=
  fun (wf : d < 64 ∧ a < 64 ∧ b < 64 ∧ n < 8 ∧ m < 4) _ eq => of_le (v := 2415919200 + d * 1048576 + a * 16384 + b * 256 + n * 4 + m) (by omega) eq
theorem WordSize.vmin (d a b n m : Nat) : Statement (.vmin d a b n m) :=
  fun (wf : d < 64 ∧ a < 64 ∧ b < 64 ∧ n < 8 ∧ m < 4) _ eq => of_le (v := 2415919232 + d * 1048576 + a * 16384 + b * 256 + n * 4 + m) (by omega) eq
theorem WordSize.vmax (d a b n m : Nat) : Statement (.vmax d a b n m) :=
  fun (wf : d < 64 ∧ a < 64 ∧ b < 64 ∧ n < 8 ∧ m < 4) _ eq => of_le (v := 2415919264 + d * 1048576 + a * 16384 + b * 256 + n * 4 + m) (by omega) eq
theorem WordSize.vminn (d a b n m : Nat) : Statement (.vminn d a b n m) :=
  fun (wf : d < 64 ∧ a < 64 ∧ b < 64 ∧ n < 8 ∧ m < 4) _ eq => of_le (v := 2415919296 + d * 1048576 + a * 16384 + b * 256 + n * 4 + m) (by omega) eq
theorem WordSize.vmaxn (d a b n m : Nat) : Statement (.vmaxn d a b n m) :=
  fun (wf : d < 64 ∧ a < 64 ∧ b < 64 ∧ n < 8 ∧ m < 4) _ eq => of_le (v := 2415919328 + d * 1048576 + a * 16384 + b * 256 + n * 4 + m) (by omega) eq
theorem WordSize.vand (d a b n m : Nat) : Statement (.vand d a b n m) :=
  fun (wf : d < 64 ∧ a < 64 ∧ b < 64 ∧ n < 8 ∧ m < 4) _ eq => of_le (v := 2483027968 + d * 1048576 + a * 16384 + b * 256 + n * 4 + m) (by omega) eq
theorem WordSize.vor (d a b n m : Nat) : Statement (.vor d a b n m) :=
  fun (wf : d < 64 ∧ a < 64 ∧ b < 64 ∧ n < 8 ∧ m < 4) _ eq => of_le (v := 2483028000 + d * 1048576 + a * 16384 + b * 256 + n * 4 + m) (by omega) eq
theorem WordSize.vxor (d a b n m : Nat) : Statement (.vxor d a b n m) :=
  fun (wf : d < 64 ∧ a < 64 ∧ b < 64 ∧ n < 8 ∧ m < 4) _ eq => of_le (v := 2483028032 + d * 1048576 + a * 16384 + b * 256 + n * 4 + m) (by omega) eq
theorem WordSize.vsll (d a b n m : Nat) : Statement (.vsll d a b n m) :=
  fun (wf : d < 64 ∧ a < 64 ∧ b < 64 ∧ n < 8 ∧ m < 4) _ eq => of_le (v := 2483028064 + d * 1048576 + a * 16384 + b * 256 + n * 4 + m) (by omega) eq
theorem WordSize.vsrl (d a b n m : Nat) : Statement (.vsrl d a b n m) :=
  fun (wf : d < 64 ∧ a < 64 ∧ b < 64 ∧ n < 8 ∧ m < 4) _ eq => of_le (v := 2483028096 + d * 1048576 + a * 16384 + b * 256 + n * 4 + m) (by omega) eq
theorem WordSize.vsra (d a b n m : Nat) : Statement (.vsra d a b n m) :=
  fun (wf : d < 64 ∧ a < 64 ∧ b < 64 ∧ n < 8 ∧ m < 4) _ eq => of_le (v := 2483028128 + d * 1048576 + a * 16384 + b * 256 + n * 4 + m) (by omega) eq
theorem WordSize.vabs (d a n m : Nat) : Statement (.vabs d a n m) :=
  fun (wf : d < 64 ∧ a < 64 ∧ n < 8 ∧ m < 4) _ eq => of_le (v := 2483028160 + d * 1048576 + a * 16384 + n * 4 + m) (by omega) eq
theorem WordSize.vsel (d a b n m : Nat) : Statement (.vsel d a b n m) :=
  fun (wf : d < 64 ∧ a < 64 ∧ b < 64 ∧ n < 8 ∧ m < 4) _ eq => of_le (v := 2483028192 + d * 1048576 + a * 16384 + b * 256 + n * 4 + m) (by omega) eq
theorem WordSize.vfeq (d a b n m : Nat) : Statement (.vfeq d a b n m) :=
  fun (wf : d < 64 ∧ a < 64 ∧ b < 64 ∧ n < 8 ∧ m < 4) _ eq => of_le (v := 2550136832 + d * 1048576 + a * 16384 + b * 256 + n * 4 + m) (by omega) eq
theorem WordSize.vflt (d a b n m : Nat) : Statement (.vflt d a b n m) :=
  fun (wf : d < 64 ∧ a < 64 ∧ b < 64 ∧ n < 8 ∧ m < 4) _ eq => of_le (v := 2550136864 + d * 1048576 + a * 16384 + b * 256 + n * 4 + m) (by omega) eq
theorem WordSize.vfle (d a b n m : Nat) : Statement (.vfle d a b n m) :=
  fun (wf : d < 64 ∧ a < 64 ∧ b < 64 ∧ n < 8 ∧ m < 4) _ eq => of_le (v := 2550136896 + d * 1048576 + a * 16384 + b * 256 + n * 4 + m) (by omega) eq
theorem WordSize.vfun (d a b n m : Nat) : Statement (.vfun d a b n m) :=
  fun (wf : d < 64 ∧ a < 64 ∧ b < 64 ∧ n < 8 ∧ m < 4) _ eq => of_le (v := 2550136928 + d * 1048576 + a * 16384 + b * 256 + n * 4 + m) (by omega) eq
theorem WordSize.veq (d a b n m : Nat) : Statement (.veq d a b n m) :=
  fun (wf : d < 64 ∧ a < 64 ∧ b < 64 ∧ n < 8 ∧ m < 4) _ eq => of_le (v := 2550136960 + d * 1048576 + a * 16384 + b * 256 + n * 4 + m) (by omega) eq
theorem WordSize.vlt (d a b n m : Nat) : Statement (.vlt d a b n m) :=
  fun (wf : d < 64 ∧ a < 64 ∧ b < 64 ∧ n < 8 ∧ m < 4) _ eq => of_le (v := 2550136992 + d * 1048576 + a * 16384 + b * 256 + n * 4 + m) (by omega) eq
theorem WordSize.vltn (d a b n m : Nat) : Statement (.vltn d a b n m) :=
  fun (wf : d < 64 ∧ a < 64 ∧ b < 64 ∧ n < 8 ∧ m < 4) _ eq => of_le (v := 2550137024 + d * 1048576 + a * 16384 + b * 256 + n * 4 + m) (by omega) eq
theorem WordSize.vle (d a b n m : Nat) : Statement (.vle d a b n m) :=
  fun (wf : d < 64 ∧ a < 64 ∧ b < 64 ∧ n < 8 ∧ m < 4) _ eq => of_le (v := 2550137056 + d * 1048576 + a * 16384 + b * 256 + n * 4 + m) (by omega) eq
theorem WordSize.mand (d a b n m : Nat) : Statement (.mand d a b n m) :=
  fun (wf : d < 64 ∧ a < 64 ∧ b < 64 ∧ n < 8 ∧ m < 4) _ eq => of_le (v := 2617245696 + d * 1048576 + a * 16384 + b * 256 + n * 4 + m) (by omega) eq
theorem WordSize.mor (d a b n m : Nat) : Statement (.mor d a b n m) :=
  fun (wf : d < 64 ∧ a < 64 ∧ b < 64 ∧ n < 8 ∧ m < 4) _ eq => of_le (v := 2617245728 + d * 1048576 + a * 16384 + b * 256 + n * 4 + m) (by omega) eq
theorem WordSize.mxor (d a b n m : Nat) : Statement (.mxor d a b n m) :=
  fun (wf : d < 64 ∧ a < 64 ∧ b < 64 ∧ n < 8 ∧ m < 4) _ eq => of_le (v := 2617245760 + d * 1048576 + a * 16384 + b * 256 + n * 4 + m) (by omega) eq
theorem WordSize.mnot (d a n m : Nat) : Statement (.mnot d a n m) :=
  fun (wf : d < 64 ∧ a < 64 ∧ n < 8 ∧ m < 4) _ eq => of_le (v := 2617245792 + d * 1048576 + a * 16384 + n * 4 + m) (by omega) eq
theorem WordSize.mpop (d a n m : Nat) : Statement (.mpop d a n m) :=
  fun (wf : d < 64 ∧ a < 64 ∧ n < 8 ∧ m < 4) _ eq => of_le (v := 2617245824 + d * 1048576 + a * 16384 + n * 4 + m) (by omega) eq
theorem WordSize.mfirst (d a n m : Nat) : Statement (.mfirst d a n m) :=
  fun (wf : d < 64 ∧ a < 64 ∧ n < 8 ∧ m < 4) _ eq => of_le (v := 2617245856 + d * 1048576 + a * 16384 + n * 4 + m) (by omega) eq
theorem WordSize.msetl (d a n m : Nat) : Statement (.msetl d a n m) :=
  fun (wf : d < 64 ∧ a < 64 ∧ n < 8 ∧ m < 4) _ eq => of_le (v := 2617245888 + d * 1048576 + a * 16384 + n * 4 + m) (by omega) eq
theorem WordSize.mmovMm (d a n m : Nat) : Statement (.mmovMm d a n m) :=
  fun (wf : d < 64 ∧ a < 64 ∧ n < 8 ∧ m < 4) _ eq => of_le (v := 2617245920 + d * 1048576 + a * 16384 + n * 4 + m) (by omega) eq
theorem WordSize.mmovXm (d a n m : Nat) : Statement (.mmovXm d a n m) :=
  fun (wf : d < 64 ∧ a < 64 ∧ n < 8 ∧ m < 4) _ eq => of_le (v := 2617246176 + d * 1048576 + a * 16384 + n * 4 + m) (by omega) eq
theorem WordSize.mmovMx (d a n m : Nat) : Statement (.mmovMx d a n m) :=
  fun (wf : d < 64 ∧ a < 64 ∧ n < 8 ∧ m < 4) _ eq => of_le (v := 2617246432 + d * 1048576 + a * 16384 + n * 4 + m) (by omega) eq
theorem WordSize.vfsum (d a n m : Nat) : Statement (.vfsum d a n m) :=
  fun (wf : d < 64 ∧ a < 64 ∧ n < 8 ∧ m < 4) _ eq => of_le (v := 2684354560 + d * 1048576 + a * 16384 + n * 4 + m) (by omega) eq
theorem WordSize.vfrmax (d a n m : Nat) : Statement (.vfrmax d a n m) :=
  fun (wf : d < 64 ∧ a < 64 ∧ n < 8 ∧ m < 4) _ eq => of_le (v := 2684354592 + d * 1048576 + a * 16384 + n * 4 + m) (by omega) eq
theorem WordSize.vfrmin (d a n m : Nat) : Statement (.vfrmin d a n m) :=
  fun (wf : d < 64 ∧ a < 64 ∧ n < 8 ∧ m < 4) _ eq => of_le (v := 2684354624 + d * 1048576 + a * 16384 + n * 4 + m) (by omega) eq
theorem WordSize.vrsum (d a n m : Nat) : Statement (.vrsum d a n m) :=
  fun (wf : d < 64 ∧ a < 64 ∧ n < 8 ∧ m < 4) _ eq => of_le (v := 2684354656 + d * 1048576 + a * 16384 + n * 4 + m) (by omega) eq
theorem WordSize.vrmax (d a n m : Nat) : Statement (.vrmax d a n m) :=
  fun (wf : d < 64 ∧ a < 64 ∧ n < 8 ∧ m < 4) _ eq => of_le (v := 2684354688 + d * 1048576 + a * 16384 + n * 4 + m) (by omega) eq
theorem WordSize.vrmin (d a n m : Nat) : Statement (.vrmin d a n m) :=
  fun (wf : d < 64 ∧ a < 64 ∧ n < 8 ∧ m < 4) _ eq => of_le (v := 2684354720 + d * 1048576 + a * 16384 + n * 4 + m) (by omega) eq
theorem WordSize.vrand (d a n m : Nat) : Statement (.vrand d a n m) :=
  fun (wf : d < 64 ∧ a < 64 ∧ n < 8 ∧ m < 4) _ eq => of_le (v := 2684354752 + d * 1048576 + a * 16384 + n * 4 + m) (by omega) eq
theorem WordSize.vror (d a n m : Nat) : Statement (.vror d a n m) :=
  fun (wf : d < 64 ∧ a < 64 ∧ n < 8 ∧ m < 4) _ eq => of_le (v := 2684354784 + d * 1048576 + a * 16384 + n * 4 + m) (by omega) eq
theorem WordSize.vsplat (d a n m : Nat) : Statement (.vsplat d a n m) :=
  fun (wf : d < 64 ∧ a < 64 ∧ n < 8 ∧ m < 4) _ eq => of_le (v := 2751463424 + d * 1048576 + a * 16384 + n * 4 + m) (by omega) eq
theorem WordSize.vslu (d a b n m : Nat) : Statement (.vslu d a b n m) :=
  fun (wf : d < 64 ∧ a < 64 ∧ b < 64 ∧ n < 8 ∧ m < 4) _ eq => of_le (v := 2751463456 + d * 1048576 + a * 16384 + b * 256 + n * 4 + m) (by omega) eq
theorem WordSize.vsld (d a b n m : Nat) : Statement (.vsld d a b n m) :=
  fun (wf : d < 64 ∧ a < 64 ∧ b < 64 ∧ n < 8 ∧ m < 4) _ eq => of_le (v := 2751463488 + d * 1048576 + a * 16384 + b * 256 + n * 4 + m) (by omega) eq
theorem WordSize.vperm (d a b n m : Nat) : Statement (.vperm d a b n m) :=
  fun (wf : d < 64 ∧ a < 64 ∧ b < 64 ∧ n < 8 ∧ m < 4) _ eq => of_le (v := 2751463520 + d * 1048576 + a * 16384 + b * 256 + n * 4 + m) (by omega) eq
theorem WordSize.vext (d a b n m : Nat) : Statement (.vext d a b n m) :=
  fun (wf : d < 64 ∧ a < 64 ∧ b < 64 ∧ n < 8 ∧ m < 4) _ eq => of_le (v := 2751463552 + d * 1048576 + a * 16384 + b * 256 + n * 4 + m) (by omega) eq
theorem WordSize.vins (d a b n m : Nat) : Statement (.vins d a b n m) :=
  fun (wf : d < 64 ∧ a < 64 ∧ b < 64 ∧ n < 8 ∧ m < 4) _ eq => of_le (v := 2751463584 + d * 1048576 + a * 16384 + b * 256 + n * 4 + m) (by omega) eq
theorem WordSize.vzip (d a b n m : Nat) : Statement (.vzip d a b n m) :=
  fun (wf : d < 64 ∧ a < 64 ∧ b < 64 ∧ n < 8 ∧ m < 4) _ eq => of_le (v := 2751463616 + d * 1048576 + a * 16384 + b * 256 + n * 4 + m) (by omega) eq
theorem WordSize.vunzip (d a b n m : Nat) : Statement (.vunzip d a b n m) :=
  fun (wf : d < 64 ∧ a < 64 ∧ b < 64 ∧ n < 8 ∧ m < 4) _ eq => of_le (v := 2751463648 + d * 1048576 + a * 16384 + b * 256 + n * 4 + m) (by omega) eq
theorem WordSize.vrcp (d a n m : Nat) : Statement (.vrcp d a n m) :=
  fun (wf : d < 64 ∧ a < 64 ∧ n < 8 ∧ m < 4) _ eq => of_le (v := 2818572288 + d * 1048576 + a * 16384 + n * 4 + m) (by omega) eq
theorem WordSize.vrsq (d a n m : Nat) : Statement (.vrsq d a n m) :=
  fun (wf : d < 64 ∧ a < 64 ∧ n < 8 ∧ m < 4) _ eq => of_le (v := 2818572320 + d * 1048576 + a * 16384 + n * 4 + m) (by omega) eq
theorem WordSize.vex2 (d a n m : Nat) : Statement (.vex2 d a n m) :=
  fun (wf : d < 64 ∧ a < 64 ∧ n < 8 ∧ m < 4) _ eq => of_le (v := 2818572352 + d * 1048576 + a * 16384 + n * 4 + m) (by omega) eq
theorem WordSize.vlg2 (d a n m : Nat) : Statement (.vlg2 d a n m) :=
  fun (wf : d < 64 ∧ a < 64 ∧ n < 8 ∧ m < 4) _ eq => of_le (v := 2818572384 + d * 1048576 + a * 16384 + n * 4 + m) (by omega) eq
theorem WordSize.vtanh (d a n m : Nat) : Statement (.vtanh d a n m) :=
  fun (wf : d < 64 ∧ a < 64 ∧ n < 8 ∧ m < 4) _ eq => of_le (v := 2818572416 + d * 1048576 + a * 16384 + n * 4 + m) (by omega) eq
theorem WordSize.vld (d a b l n h : Nat) : Statement (.vld d a b l n h) :=
  fun (wf : d < 64 ∧ a < 64 ∧ b < 64 ∧ l < 16 ∧ n < 8 ∧ h < 2) _ eq => of_le (v := 2885681152 + d * 1048576 + a * 16384 + b * 256 + l * 16 + n * 2 + h) (by omega) eq
theorem WordSize.vst (s a b n m h : Nat) : Statement (.vst s a b n m h) :=
  fun (wf : s < 64 ∧ a < 64 ∧ b < 64 ∧ n < 8 ∧ m < 4 ∧ h < 2) _ eq => of_le (v := 2952790016 + s * 1048576 + a * 16384 + b * 256 + n * 32 + m * 8 + h * 4) (by omega) eq
theorem WordSize.vgather (d a b l n : Nat) : Statement (.vgather d a b l n) :=
  fun (wf : d < 64 ∧ a < 64 ∧ b < 64 ∧ l < 16 ∧ n < 8) _ eq => of_le (v := 3019898880 + d * 1048576 + a * 16384 + b * 256 + l * 16 + n * 2) (by omega) eq
theorem WordSize.vscatter (s a b n : Nat) : Statement (.vscatter s a b n) :=
  fun (wf : s < 64 ∧ a < 64 ∧ b < 64 ∧ n < 8) _ eq => of_le (v := 3019898881 + s * 1048576 + a * 16384 + b * 256 + n * 2) (by omega) eq
theorem WordSize.vcvt (d a n m : Nat) : Statement (.vcvt d a n m) :=
  fun (wf : d < 64 ∧ a < 64 ∧ n < 8 ∧ m < 4) _ eq => of_le (v := 3087007744 + d * 1048576 + a * 16384 + n * 4 + m) (by omega) eq
theorem WordSize.vpack (d a b n m : Nat) : Statement (.vpack d a b n m) :=
  fun (wf : d < 64 ∧ a < 64 ∧ b < 64 ∧ n < 8 ∧ m < 4) _ eq => of_le (v := 3087007776 + d * 1048576 + a * 16384 + b * 256 + n * 4 + m) (by omega) eq
theorem WordSize.vunpk (d a h n m : Nat) : Statement (.vunpk d a h n m) :=
  fun (wf : d < 64 ∧ a < 64 ∧ h < 64 ∧ n < 8 ∧ m < 4 ∧ (h ≤ 1)) _ eq => of_le (v := 3087007808 + d * 1048576 + a * 16384 + h * 256 + n * 4 + m) (by omega) eq
theorem WordSize.vqnt (d a b n m : Nat) : Statement (.vqnt d a b n m) :=
  fun (wf : d < 64 ∧ a < 64 ∧ b < 64 ∧ n < 8 ∧ m < 4) _ eq => of_le (v := 3154116608 + d * 1048576 + a * 16384 + b * 256 + n * 4 + m) (by omega) eq
theorem WordSize.vdqt (d a b n m : Nat) : Statement (.vdqt d a b n m) :=
  fun (wf : d < 64 ∧ a < 64 ∧ b < 64 ∧ n < 8 ∧ m < 4) _ eq => of_le (v := 3154116640 + d * 1048576 + a * 16384 + b * 256 + n * 4 + m) (by omega) eq
theorem WordSize.vrotFwd (d a n m : Nat) : Statement (.vrotFwd d a n m) :=
  fun (wf : d < 64 ∧ a < 64 ∧ n < 8 ∧ m < 4) _ eq => of_le (v := 3154116672 + d * 1048576 + a * 16384 + n * 4 + m) (by omega) eq
theorem WordSize.vrotInv (d a n m : Nat) : Statement (.vrotInv d a n m) :=
  fun (wf : d < 64 ∧ a < 64 ∧ n < 8 ∧ m < 4) _ eq => of_le (v := 3154116928 + d * 1048576 + a * 16384 + n * 4 + m) (by omega) eq
theorem WordSize.vscl (d a n m : Nat) : Statement (.vscl d a n m) :=
  fun (wf : d < 64 ∧ a < 64 ∧ n < 8 ∧ m < 4) _ eq => of_le (v := 3154116704 + d * 1048576 + a * 16384 + n * 4 + m) (by omega) eq
theorem WordSize.pfx (d a b t r s : Nat) : Statement (.pfx d a b t r s) :=
  fun (wf : d < 16 ∧ a < 16 ∧ b < 16 ∧ t < 16 ∧ r < 4 ∧ s < 2) _ eq => of_le (v := 3221225472 + d * 4194304 + a * 262144 + b * 16384 + t * 1024 + r * 256 + s * 128) (by omega) eq
theorem WordSize.mld (d a b : Nat) : Statement (.mld d a b) :=
  fun (wf : d < 64 ∧ a < 64 ∧ b < 64 ∧ (a = 0 ∨ d = 0)) _ eq => of_le (v := 3288334337 + d * 1048576 + a * 16384 + b * 256) (by omega) eq
theorem WordSize.mldT (d a b : Nat) : Statement (.mldT d a b) :=
  fun (wf : d < 64 ∧ a < 64 ∧ b < 64 ∧ (a ≠ 0 ∧ d = 0)) _ eq => of_le (v := 3288334353 + d * 1048576 + a * 16384 + b * 256) (by omega) eq
theorem WordSize.mswap : Statement .mswap := fun _ _ e => of_le (v := 3288334338) (by decide) e
theorem WordSize.mmac (d a b : Nat) : Statement (.mmac d a b) :=
  fun (wf : d < 64 ∧ a < 64 ∧ b < 64) _ eq => of_le (v := 3355443201 + d * 1048576 + a * 16384 + b * 256) (by omega) eq
theorem WordSize.mmacz (d a b : Nat) : Statement (.mmacz d a b) :=
  fun (wf : d < 64 ∧ a < 64 ∧ b < 64) _ eq => of_le (v := 3355443202 + d * 1048576 + a * 16384 + b * 256) (by omega) eq
theorem WordSize.mst (d a b : Nat) : Statement (.mst d a b) :=
  fun (wf : d < 64 ∧ a < 64 ∧ b < 64) _ eq => of_le (v := 3422552065 + d * 1048576 + a * 16384 + b * 256) (by omega) eq
theorem WordSize.mrd (d a b l : Nat) : Statement (.mrd d a b l) :=
  fun (wf : d < 64 ∧ a < 64 ∧ b < 64 ∧ l < 16) _ eq => of_le (v := 3422552066 + d * 1048576 + a * 16384 + b * 256 + l * 16) (by omega) eq
theorem WordSize.mwr (d a b : Nat) : Statement (.mwr d a b) :=
  fun (wf : d < 64 ∧ a < 64 ∧ b < 64) _ eq => of_le (v := 3422552067 + d * 1048576 + a * 16384 + b * 256) (by omega) eq
theorem WordSize.mzero (d b : Nat) : Statement (.mzero d b) :=
  fun (wf : d < 64 ∧ b < 64) _ eq => of_le (v := 3422552068 + d * 1048576 + b * 256) (by omega) eq
theorem WordSize.ecpy (d a b : Nat) : Statement (.ecpy d a b) :=
  fun (wf : d < 64 ∧ a < 64 ∧ b < 64) _ eq => of_le (v := 3489660929 + d * 1048576 + a * 16384 + b * 256) (by omega) eq
theorem WordSize.ecpy2 (d a b : Nat) : Statement (.ecpy2 d a b) :=
  fun (wf : d < 64 ∧ a < 64 ∧ b < 64) _ eq => of_le (v := 3489660930 + d * 1048576 + a * 16384 + b * 256) (by omega) eq
theorem WordSize.estrm (d a b : Nat) : Statement (.estrm d a b) :=
  fun (wf : d < 64 ∧ a < 64 ∧ b < 64) _ eq => of_le (v := 3489660931 + d * 1048576 + a * 16384 + b * 256) (by omega) eq
theorem WordSize.enode (d a b : Nat) : Statement (.enode d a b) :=
  fun (wf : d < 64 ∧ a < 64 ∧ b < 64) _ eq => of_le (v := 3489660932 + d * 1048576 + a * 16384 + b * 256) (by omega) eq
theorem WordSize.csrr (d n : Nat) : Statement (.csrr d n) :=
  fun (wf : d < 64 ∧ n < 1024 ∧ (csrAssigned n = true)) _ eq => of_le (v := 3556769792 + d * 1048576 + n) (by omega) eq
theorem WordSize.csrw (a n : Nat) : Statement (.csrw a n) :=
  fun (wf : a < 64 ∧ n < 1024 ∧ (csrAssigned n = true ∧ csrReadOnly n = false)) _ eq => of_le (v := 3556773888 + a * 16384 + n) (by omega) eq
theorem WordSize.csrs (a n : Nat) : Statement (.csrs a n) :=
  fun (wf : a < 64 ∧ n < 1024 ∧ (csrAssigned n = true ∧ csrReadOnly n = false)) _ eq => of_le (v := 3556777984 + a * 16384 + n) (by omega) eq
theorem WordSize.csrc (a n : Nat) : Statement (.csrc a n) :=
  fun (wf : a < 64 ∧ n < 1024 ∧ (csrAssigned n = true ∧ csrReadOnly n = false)) _ eq => of_le (v := 3556782080 + a * 16384 + n) (by omega) eq
theorem WordSize.trap (h l : Nat) : Statement (.trap h l) :=
  fun (wf : h < 64 ∧ l < 64) _ eq => of_le (v := 3623878657 + h * 16384 + l * 256) (by omega) eq
theorem WordSize.tret : Statement .tret := fun _ _ e => of_le (v := 3623878658) (by decide) e
theorem WordSize.uret : Statement .uret := fun _ _ e => of_le (v := 3623878659) (by decide) e
theorem WordSize.wfi : Statement .wfi := fun _ _ e => of_le (v := 3623878660) (by decide) e
theorem WordSize.halt : Statement .halt := fun _ _ e => of_le (v := 3623878661) (by decide) e
theorem WordSize.frz (a : Nat) : Statement (.frz a) :=
  fun (wf : a < 64) _ eq => of_le (v := 3623878662 + a * 16384) (by omega) eq
theorem WordSize.brk (h l : Nat) : Statement (.brk h l) :=
  fun (wf : h < 64 ∧ l < 64) _ eq => of_le (v := 3623878663 + h * 16384 + l * 256) (by omega) eq
theorem WordSize.mark (a c : Nat) : Statement (.mark a c) :=
  fun (wf : a < 64 ∧ c < 64) _ eq => of_le (v := 3623878664 + a * 16384 + c * 256) (by omega) eq
theorem WordSize.route (n e s w c l b q t : Nat) : Statement (.route n e s w c l b q t) :=
  fun (wf : c < 16 ∧ l < 2 ∧ b < 2 ∧ q < 32 ∧ routeOk n e s w c l b q t = true) _ eq => of_le (v := 268435456 + n * 33554432 + e * 4194304 + s * 524288 + w * 65536 + c * 4096 + l * 2048 + b * 1024 + q * 32 + t * 4)
    (by simp only [routeOk, repOk, Bool.and_eq_true, decide_eq_true_eq] at wf; omega) eq
theorem WordSize.rep (n e s w c k : Nat) : Statement (.rep n e s w c k) :=
  fun (wf : c < 16 ∧ k < 4096 ∧ repOk n e s w = true) _ eq => of_le (v := 536870912 + n * 33554432 + e * 4194304 + s * 524288 + w * 65536 + c * 4096 + k)
    (by simp only [routeOk, repOk, Bool.and_eq_true, decide_eq_true_eq] at wf; omega) eq
theorem WordSize.ring (f i p : Nat) : Statement (.ring f i p) :=
  fun (wf : f < 32 ∧ i < 32 ∧ p < 65536 ∧ f + i + 1 ≤ 32) _ eq => of_le (v := 805306368 + f * 8388608 + i * 262144 + p) (by omega) eq
theorem WordSize.jmp (t : Nat) : Statement (.jmp t) :=
  fun (wf : t < 2048) _ eq => of_le (v := 1073741824 + t) (by omega) eq
theorem WordSize.bnz (c t : Nat) : Statement (.bnz c t) :=
  fun (wf : c < 4 ∧ t < 2048) _ eq => of_le (v := 1342177280 + c * 67108864 + t) (by omega) eq
theorem WordSize.setc (c v : Nat) : Statement (.setc c v) :=
  fun (wf : c < 4 ∧ v < 65536) _ eq => of_le (v := 1610612736 + c * 67108864 + v) (by omega) eq
theorem WordSize.tkwt (b v : Nat) : Statement (.tkwt b v) :=
  fun (wf : b < 2 ∧ v < 65536) _ eq => of_le (v := 1879048192 + b * 134217728 + v) (by omega) eq
theorem WordSize.bus (b s r k : Nat) : Statement (.bus b s r k) :=
  fun (wf : b < 2 ∧ s < 32 ∧ 1 ≤ r ∧ r ≤ 9 ∧ k < 4096) _ eq => of_le (v := 2147483648 + b * 134217728 + s * 4194304 + r * 262144 + k) (by omega) eq
theorem WordSize.switchHalt : Statement .switchHalt := fun _ _ e => of_le (v := 2415919104) (by decide) e
theorem WordSize.nop : Statement .nop := fun _ _ e => of_le (v := 2684354560) (by decide) e
theorem WordSize.atomicComplete (tile ctx : Nat) : Statement (.atomicComplete tile ctx) := fun _ _ e => nomatch e
theorem WordSize.updateMerge (i : Nat) : Statement (.updateMerge i) := fun _ _ e => nomatch e
theorem WordSize.recvWake (tile ctx : Nat) : Statement (.recvWake tile ctx) := fun _ _ e => nomatch e
theorem WordSize.tkalRelease (tile ctx : Nat) : Statement (.tkalRelease tile ctx) := fun _ _ e => nomatch e
theorem WordSize.routineStart (tile : Nat) : Statement (.routineStart tile) := fun _ _ e => nomatch e
theorem WordSize.mldExec (tile : Nat) : Statement (.mldExec tile) := fun _ _ e => nomatch e
theorem WordSize.mswapExec (tile : Nat) : Statement (.mswapExec tile) := fun _ _ e => nomatch e
theorem WordSize.mmacExec (tile : Nat) : Statement (.mmacExec tile) := fun _ _ e => nomatch e
theorem WordSize.mmaczExec (tile : Nat) : Statement (.mmaczExec tile) := fun _ _ e => nomatch e
theorem WordSize.mstExec (tile : Nat) : Statement (.mstExec tile) := fun _ _ e => nomatch e
theorem WordSize.mrdExec (tile : Nat) : Statement (.mrdExec tile) := fun _ _ e => nomatch e
theorem WordSize.mwrExec (tile : Nat) : Statement (.mwrExec tile) := fun _ _ e => nomatch e
theorem WordSize.mzeroExec (tile : Nat) : Statement (.mzeroExec tile) := fun _ _ e => nomatch e
theorem WordSize.tokenPass (die : Nat) : Statement (.tokenPass die) := fun _ _ e => nomatch e
theorem WordSize.burstEnd (tile : Nat) : Statement (.burstEnd tile) := fun _ _ e => nomatch e
theorem WordSize.ecpyExec (eng ctx : Nat) : Statement (.ecpyExec eng ctx) := fun _ _ e => nomatch e
theorem WordSize.ecpy2Exec (eng ctx : Nat) : Statement (.ecpy2Exec eng ctx) := fun _ _ e => nomatch e
theorem WordSize.estrmExec (eng ctx : Nat) : Statement (.estrmExec eng ctx) := fun _ _ e => nomatch e
theorem WordSize.nodeFire (eng ctx node : Nat) : Statement (.nodeFire eng ctx node) := fun _ _ e => nomatch e
theorem WordSize.engineCommandComplete (eng ctx : Nat) : Statement (.engineCommandComplete eng ctx) := fun _ _ e => nomatch e
theorem WordSize.hashdomWrite (dom : Nat) (val : Word) : Statement (.hashdomWrite dom val) := fun _ _ e => nomatch e
theorem WordSize.hashdomWriteComplete (dom : Nat) : Statement (.hashdomWriteComplete dom) := fun _ _ e => nomatch e
theorem WordSize.rehomeReply (i : Nat) : Statement (.rehomeReply i) := fun _ _ e => nomatch e
theorem WordSize.asidon : Statement .asidon := fun _ _ e => nomatch e
theorem WordSize.asidoff : Statement .asidoff := fun _ _ e => nomatch e
theorem WordSize.map : Statement .map := fun _ _ e => nomatch e
theorem WordSize.mapreq : Statement .mapreq := fun _ _ e => nomatch e
theorem WordSize.unmap : Statement .unmap := fun _ _ e => nomatch e
theorem WordSize.migrate : Statement .migrate := fun _ _ e => nomatch e
theorem WordSize.query : Statement .query := fun _ _ e => nomatch e
theorem WordSize.presp : Statement .presp := fun _ _ e => nomatch e
theorem WordSize.wfiWake (tile ctx : Nat) : Statement (.wfiWake tile ctx) := fun _ _ e => nomatch e
theorem WordSize.longLatencyLanding (tile ctx win : Nat) : Statement (.longLatencyLanding tile ctx win) := fun _ _ e => nomatch e
theorem WordSize.commitPoint (tile ctx : Nat) : Statement (.commitPoint tile ctx) := fun _ _ e => nomatch e
theorem WordSize.storeConfirm (tile entry : Nat) : Statement (.storeConfirm tile entry) := fun _ _ e => nomatch e
theorem WordSize.storeEntryFault (tile entry : Nat) : Statement (.storeEntryFault tile entry) := fun _ _ e => nomatch e
theorem WordSize.raceCheckReply (tile ctx : Nat) : Statement (.raceCheckReply tile ctx) := fun _ _ e => nomatch e
theorem WordSize.l2Fill (i : Nat) : Statement (.l2Fill i) := fun _ _ e => nomatch e
theorem WordSize.retryReissue (i : Nat) : Statement (.retryReissue i) := fun _ _ e => nomatch e
theorem WordSize.walk (i : Nat) : Statement (.walk i) := fun _ _ e => nomatch e
theorem WordSize.pageRequestRecordWrite (ctl slot : Nat) : Statement (.pageRequestRecordWrite ctl slot) := fun _ _ e => nomatch e
theorem WordSize.migrationCopyLine (ctl i : Nat) (err : Bool) : Statement (.migrationCopyLine ctl i err) := fun _ _ e => nomatch e
theorem WordSize.remoteStoreLand (i : Nat) : Statement (.remoteStoreLand i) := fun _ _ e => nomatch e
theorem WordSize.sendArrive (i : Nat) : Statement (.sendArrive i) := fun _ _ e => nomatch e
theorem WordSize.sendwArrive (i : Nat) : Statement (.sendwArrive i) := fun _ _ e => nomatch e
theorem WordSize.depositArrive (i : Nat) : Statement (.depositArrive i) := fun _ _ e => nomatch e
theorem WordSize.msgAck (i : Nat) : Statement (.msgAck i) := fun _ _ e => nomatch e
theorem WordSize.interruptPacketArrive (i : Nat) : Statement (.interruptPacketArrive i) := fun _ _ e => nomatch e
theorem WordSize.interruptTake (tile ctx : Nat) : Statement (.interruptTake tile ctx) := fun _ _ e => nomatch e
theorem WordSize.scWindowResolve (window : Nat) : Statement (.scWindowResolve window) := fun _ _ e => nomatch e
theorem WordSize.firstBarrierComplete (forme : Nat) : Statement (.firstBarrierComplete forme) := fun _ _ e => nomatch e
theorem WordSize.exchangeEntrySend (tile : Nat) : Statement (.exchangeEntrySend tile) := fun _ _ e => nomatch e
theorem WordSize.exchangeWriteLand (i : Nat) : Statement (.exchangeWriteLand i) := fun _ _ e => nomatch e
theorem WordSize.secondBarrierComplete (forme : Nat) : Statement (.secondBarrierComplete forme) := fun _ _ e => nomatch e
theorem WordSize.bankSwap (tile : Nat) : Statement (.bankSwap tile) := fun _ _ e => nomatch e
theorem WordSize.groupBarrierComplete (forme block : Nat) : Statement (.groupBarrierComplete forme block) := fun _ _ e => nomatch e
theorem WordSize.fpxCollection (forme : Nat) (window : Word) : Statement (.fpxCollection forme window) := fun _ _ e => nomatch e
theorem WordSize.wdog (forme : Nat) : Statement (.wdog forme) := fun _ _ e => nomatch e
theorem WordSize.throughLaneForward (tile conn : Nat) : Statement (.throughLaneForward tile conn) := fun _ _ e => nomatch e
theorem WordSize.edgeFlitArrive (i : Nat) : Statement (.edgeFlitArrive i) := fun _ _ e => nomatch e
theorem WordSize.holdArrive (i : Nat) : Statement (.holdArrive i) := fun _ _ e => nomatch e
theorem WordSize.tickUpdateSend (die : Nat) : Statement (.tickUpdateSend die) := fun _ _ e => nomatch e
theorem WordSize.tickUpdateArrive (i : Nat) : Statement (.tickUpdateArrive i) := fun _ _ e => nomatch e
theorem WordSize.register (queue : Nat) : Statement (.register queue) := fun _ _ e => nomatch e
theorem WordSize.unregister (queue : Nat) : Statement (.unregister queue) := fun _ _ e => nomatch e
theorem WordSize.launch (queue : Nat) : Statement (.launch queue) := fun _ _ e => nomatch e
theorem WordSize.makeReady (forme : Nat) : Statement (.makeReady forme) := fun _ _ e => nomatch e
theorem WordSize.stop (queue : Nat) : Statement (.stop queue) := fun _ _ e => nomatch e
theorem WordSize.preempt (queue : Nat) : Statement (.preempt queue) := fun _ _ e => nomatch e
theorem WordSize.contextSave (forme : Nat) : Statement (.contextSave forme) := fun _ _ e => nomatch e
theorem WordSize.resume (queue : Nat) : Statement (.resume queue) := fun _ _ e => nomatch e
theorem WordSize.kill (queue : Nat) : Statement (.kill queue) := fun _ _ e => nomatch e
theorem WordSize.copy (queue : Nat) : Statement (.copy queue) := fun _ _ e => nomatch e
theorem WordSize.mapcmd (queue : Nat) : Statement (.mapcmd queue) := fun _ _ e => nomatch e
theorem WordSize.nopRecord (queue : Nat) : Statement (.nopRecord queue) := fun _ _ e => nomatch e
theorem WordSize.intr (queue : Nat) : Statement (.intr queue) := fun _ _ e => nomatch e
theorem WordSize.hqtailWrite (queue : Nat) (val : Word) : Statement (.hqtailWrite queue val) := fun _ _ e => nomatch e
theorem WordSize.recordFetch (queue : Nat) : Statement (.recordFetch queue) := fun _ _ e => nomatch e
theorem WordSize.recordAccept (queue : Nat) : Statement (.recordAccept queue) := fun _ _ e => nomatch e
theorem WordSize.tailwordPoll (queue : Nat) : Statement (.tailwordPoll queue) := fun _ _ e => nomatch e
theorem WordSize.queueEnable (queue : Nat) (cfg : Word) : Statement (.queueEnable queue cfg) := fun _ _ e => nomatch e
theorem WordSize.queueDestroy (queue : Nat) : Statement (.queueDestroy queue) := fun _ _ e => nomatch e
theorem WordSize.attgo : Statement .attgo := fun _ _ e => nomatch e
theorem WordSize.barRegisterWrite (off : Nat) (val : Word) : Statement (.barRegisterWrite off val) := fun _ _ e => nomatch e
theorem WordSize.traceFrameWrite (tile : Nat) : Statement (.traceFrameWrite tile) := fun _ _ e => nomatch e
theorem WordSize.functionLevelReset : Statement .functionLevelReset := fun _ _ e => nomatch e
theorem WordSize.powerOn : Statement .powerOn := fun _ _ e => nomatch e
theorem WordSize.clusterRamp (die : Nat) : Statement (.clusterRamp die) := fun _ _ e => nomatch e
theorem WordSize.thermalThrottle (die : Nat) : Statement (.thermalThrottle die) := fun _ _ e => nomatch e
theorem WordSize.throttleClear (die : Nat) : Statement (.throttleClear die) := fun _ _ e => nomatch e
theorem WordSize.thermalFatal (die : Nat) : Statement (.thermalFatal die) := fun _ _ e => nomatch e
theorem WordSize.uncorrectableError (site : ErrSite) : Statement (.uncorrectableError site) := fun _ _ e => nomatch e
theorem WordSize.scrub (found : List ErrSite) : Statement (.scrub found) := fun _ _ e => nomatch e
theorem WordSize.linkDown (port : Nat) : Statement (.linkDown port) := fun _ _ e => nomatch e
theorem WordSize.localTick (die : Nat) : Statement (.localTick die) := fun _ _ e => nomatch e
theorem WordSize.eventRecordWrite : Statement .eventRecordWrite := fun _ _ e => nomatch e
theorem WordSize.rangeOperationComplete (tile ctx : Nat) : Statement (.rangeOperationComplete tile ctx) := fun _ _ e => nomatch e
theorem WordSize.tlrdReply (tile ctx : Nat) : Statement (.tlrdReply tile ctx) := fun _ _ e => nomatch e
theorem WordSize.taintLineReadReply (tile ctx : Nat) : Statement (.taintLineReadReply tile ctx) := fun _ _ e => nomatch e
theorem WordSize.rollbackCounterRaise (val : Lane) : Statement (.rollbackCounterRaise val) := fun _ _ e => nomatch e

end Sys2Proof.Laws
end

