-- ==== Sys2Proof/Tests/Slice0.lean ====
section
/-! SUPPORT. Tests of the model: that WellFormed refuses, that words decode as the spec's text gives them, results of single
instructions worked out by hand from the spec's tables, and for every statement a state and operands that meet its
hypotheses. -/

namespace Sys2Proof.Tests

set_option Elab.async false

open Sys2Proof.Machine Sys2Proof.Safety Sys2Proof.Claims

/-! ### States -/

/-- A tile whose context 0 runs a thread in user mode, and acts. -/
def base : State := (State.reset.placeWord 32 1).as 0 0

/-- That context in privileged mode. -/
def priv (s : State) : State := s.onCtx (fun c => c.setStat stPM true)

/-- With a value in a scalar register. -/
def withX (s : State) (n : Nat) (v : Word) : State := s.onCtx (fun c => { c with x := vset c.x n v })

/-- With a tainted scalar register. -/
def taintX (s : State) (n : Nat) : State := s.onCtx (fun c => { c with taint := { c.taint with x := bvSet c.taint.x n true } })

/-- The state that an instruction leaves. -/
def after (i : Instr) (s : State) : State :=
  match exec i s with
  | .next t => t
  | _ => s

/-- A span with every right over the page at 0x200000, homed at logical tile 0; its further attribute bits. -/
def dataSpan (more : Word) : Span := { b := 0x200000, l := 0x200000, a := 0xF400000000000000 ||| more }

/-- That span in span register 1. -/
def withSpan (s : State) (more : Word) : State := s.onCtx (fun c => { c with spans := vset c.spans 1 (dataSpan more) })

def chkBit : Word := 0x0200000000000000
def sinkBit : Word := 0x0100000000000000
def ncBit : Word := 0x0080000000000000

/-- Register 6 holds an address of main store, register 7 a number. -/
def atLocal (off : Nat) (v : Word) : State := withX (withX base 6 (BitVec.ofNat 64 (localBase + off))) 7 v

/-- Register 6 holds an address that the data span covers. -/
def atSpan (more : Word) (off : Nat) (v : Word) : State :=
  withX (withX (withSpan base more) 6 (0x200000 + BitVec.ofNat 64 off)) 7 v

/-- Bytes in the main store of the acting tile. -/
def withMain (s : State) (m : Memory) : State := s.onTile (fun t => { t with main := m })

/-- A flit at the head of the acting tile's in-queue d. -/
def withFlit (s : State) (d : Nat) (f : Flit) : State :=
  s.onTile (fun t => { t with fab := { t.fab with coreIn := vset t.fab.coreIn d [f] } })


/-! ### Words and well-formedness -/

/-- The instruction that a word stands for, by the core's decoder and by the switch's; none where it is refused. -/
def reads (w : Nat) : Option Instr :=
  match decode w with
  | .ok i => some i
  | .error _ => none
def readsRoute (w : Nat) : Option Instr :=
  match decodeRoute w with
  | .ok i => some i
  | .error _ => none

/-- Words of scalar arithmetic and control, by Tables 2-3 to 2-9 and 2-11. -/
theorem test_words_scalar :
    reads 0x02EA4401 = some (.add 46 41 4) ∧ reads 0x3451FFFF = some (.bne 5 7 16383) ∧ reads 0x245048D1 = some (.lui 5 18641) ∧
    reads 0x2C914622 = some (.mulh 9 5 6 2) ∧ reads 0x49F00010 = some (.jal 31 16) := by decide +kernel

/-- Words of the memory, ordering, message, task and tick majors, by Tables 2-3 to 2-11. -/
theorem test_words_memory :
    reads 0x54518F02 = some (.ld 5 6 3 6 2) ∧ reads 0x58518728 = some (.ldx 5 6 7 2 4 0) ∧ reads 0x5C72E002 = some (.st 7 11 2 2) ∧
    reads 0x64128B03 = some (.wbinvR 1 10 11) ∧ reads 0x68920013 = some (.sbstat 9 8 1) ∧ reads 0x70518725 = some (.amoDAdd 5 6 7 1 1) ∧
    reads 0x6C5187AF = some (.amoWCas 5 6 7 3 3) ∧ reads 0x74128B01 = some (.updAdd 1 10 11) ∧ reads 0x74028B07 = some (.updFadd 10 11) ∧
    reads 0x7800005A = some (.fence 3 1) ∧ reads 0x78518788 = some (.tlwait 5 6 7 2) ∧ reads 0x785180C0 = some (.tlrd 5 6) ∧
    reads 0x80500101 = some (.tkrd 5 1) ∧ reads 0x80518002 = some (.tkal 5 6) ∧ reads 0x7C014601 = some (.send 5 6) ∧
    reads 0x7C700203 = some (.recv 7 2) ∧ reads 0x84014602 = some (.tpost 5 6) ∧ reads 0x84000001 = some (.rdone) := by decide +kernel

/-- Words of the vector majors and the prefix, by Tables 2-7, 2-8, 2-10 and 2-11. -/
theorem test_words_vector :
    reads 0x8810831D = some (.vfadd 1 2 3 7 1) ∧ reads 0xC1040400 = some (.pfx 4 1 0 1 0 0) ∧ reads 0xA05A4004 = some (.vfsum 5 41 1 0) ∧
    reads 0xBC204064 = some (.vscl 2 1 1 0) ∧ reads 0xAC21804E = some (.vld 2 6 0 4 7 0) ∧ reads 0x88306140 = some (.vfmul 3 1 33 0 0) ∧
    reads 0x8AEA2200 = some (.vfadd 46 40 34 0 0) ∧ reads 0x8C40621C = some (.vfma 4 1 34 7 0) ∧ reads 0x9810832C = some (.vflt 1 2 3 3 0) ∧
    reads 0xB05280E8 = some (.vst 5 10 0 7 1 0) ∧ reads 0xB431872E = some (.vgather 3 6 7 2 7) ∧ reads 0xB431870F = some (.vscatter 3 6 7 7) ∧
    reads 0xBC304204 = some (.vqnt 3 1 2 1 0) ∧ reads 0xBC40C224 = some (.vdqt 4 3 2 1 0) ∧
    reads 0xC2400400 = some (.pfx 9 0 0 1 0 0) := by decide +kernel

/-- Words of the matrix, engine, CSR, trap and taint majors, by Tables 2-3 to 2-11. -/
theorem test_words_system :
    reads 0xDC500101 = some (.tntRd 5 0 1) ∧ reads 0xDC018004 = some (.tntChk 6 0) ∧ reads 0xD8000501 = some (.trap 0 5) ∧
    reads 0xD4500000 = some (.csrr 5 0) ∧ reads 0xD4019010 = some (.csrw 6 16) ∧ reads 0xD401A000 = some (.csrs 6 0) ∧
    reads 0xD0518701 = some (.ecpy 5 6 7) ∧ reads 0xD0518704 = some (.enode 5 6 7) ∧ reads 0xC4018711 = some (.mldT 0 6 7) ∧
    reads 0xC401C001 = some (.mld 0 7 0) ∧ reads 0xC4000002 = some (.mswap) ∧ reads 0xC8228B01 = some (.mmac 2 10 11) ∧
    reads 0xC8030B02 = some (.mmacz 0 12 11) ∧ reads 0xCC230D01 = some (.mst 2 12 13) ∧ reads 0xCC130003 = some (.mwr 1 12 0) ∧
    reads 0xCC300004 = some (.mzero 3 0) ∧ reads 0xCC408532 = some (.mrd 4 2 5 3) ∧ reads 0xD8014006 = some (.frz 5) ∧
    reads 0xD8000307 = some (.brk 0 3) ∧ reads 0xD8014208 = some (.mark 5 2) := by decide +kernel

/-- Route words, by Tables 6-3 to 6-5. -/
theorem test_words_route :
    readsRoute 0x11400000 = some (.route 0 5 0 0 0 0 0 0 0) ∧ readsRoute 0x21404004 = some (.rep 0 5 0 0 4 4) ∧
    readsRoute 0x110008A4 = some (.route 0 4 0 0 0 1 0 5 1) ∧ readsRoute 0x815C0000 = some (.bus 0 5 7 0) ∧
    readsRoute 0x300C0064 = some (.ring 0 3 100) ∧ readsRoute 0x54000010 = some (.bnz 1 16) ∧ readsRoute 0x68000007 = some (.setc 2 7) ∧
    readsRoute 0x78000120 = some (.tkwt 1 288) ∧ readsRoute 0x90000000 = some (.switchHalt) ∧ readsRoute 0x40000010 = some (.jmp 16) ∧
    readsRoute 0xA0000000 = some (.nop) := by decide +kernel

/-- Words that encode nothing: major 0x3F, function 0 of ALU, a Z field that is not 0, a SHI function of 0, an unassigned CSR, a CSR
that is only read, span register 64 of lctx, a route word's source code 7. -/
theorem test_words_refused :
    reads 0xFFFFFFFF = none ∧ reads 0x02EA4400 = none ∧ reads 0x02EA4411 = none ∧ reads 0x20000000 = none ∧ reads 0xD400000C = none ∧
    reads 0xD4019009 = none ∧ readsRoute 0x1E000000 = none ∧ readsRoute 0xF0000000 = none := by decide +kernel

/-- An ill-formed term for each kind of check, which the check refuses: a register, an immediate, an access size, a variant, a span
register or galley number, a scope, a subfield, a taint selector, a prefix field, a plane command's fields, a CSR, a route word's sources, a ring's rows,
a bus's source, a tile, a context, a die, an engine, a domain, a controller, a slot, a queue, a BAR offset, a link. -/
theorem test_well_formed_refuses :
    ¬ Instr.WellFormed (.add 64 0 0) ∧ ¬ Instr.WellFormed (.add 0 64 0) ∧ ¬ Instr.WellFormed (.add 0 0 64) ∧ ¬ Instr.WellFormed (.addi 0 0 16384) ∧
    ¬ Instr.WellFormed (.slli 0 0 64) ∧ ¬ Instr.WellFormed (.lui 0 1048576) ∧ ¬ Instr.WellFormed (.mul 0 0 0 16) ∧ ¬ Instr.WellFormed (.loopM 0 0 4) ∧
    ¬ Instr.WellFormed (.lctx 0 6) ∧ ¬ Instr.WellFormed (.ld 0 0 0 7 0) ∧ ¬ Instr.WellFormed (.ld 0 0 0 0 128) ∧ ¬ Instr.WellFormed (.ldx 0 0 0 0 0 2) ∧
    ¬ Instr.WellFormed (.st 0 0 4 0) ∧ ¬ Instr.WellFormed (.stx 0 0 0 0 4) ∧ ¬ Instr.WellFormed (.wbR 2 0 0) ∧ ¬ Instr.WellFormed (.amoWAdd 0 0 0 4 0) ∧
    ¬ Instr.WellFormed (.amoWAdd 0 0 0 0 4) ∧ ¬ Instr.WellFormed (.updAdd 2 0 0) ∧ ¬ Instr.WellFormed (.fence 5 0) ∧ ¬ Instr.WellFormed (.fence 0 4) ∧
    ¬ Instr.WellFormed (.tntRd 0 1 0) ∧ ¬ Instr.WellFormed (.tntRd 0 0 3) ∧ ¬ Instr.WellFormed (.tntSet 0 2) ∧ ¬ Instr.WellFormed (.recv 0 4) ∧
    ¬ Instr.WellFormed (.tkrd 0 3) ∧ ¬ Instr.WellFormed (.vfadd 0 0 0 8 0) ∧ ¬ Instr.WellFormed (.vfadd 0 0 0 0 4) ∧ ¬ Instr.WellFormed (.vld 0 0 0 0 0 2) ∧
    ¬ Instr.WellFormed (.vunpk 0 0 2 0 0) ∧ ¬ Instr.WellFormed (.pfx 16 0 0 0 0 0) ∧ ¬ Instr.WellFormed (.pfx 0 0 0 0 4 0) ∧
    ¬ Instr.WellFormed (.mld 1 1 0) ∧ ¬ Instr.WellFormed (.mldT 0 0 0) ∧ ¬ Instr.WellFormed (.csrr 0 0x00C) ∧ ¬ Instr.WellFormed (.csrw 0 0x009) :=
  ⟨(by decide : ¬ (64 < 64 ∧ 0 < 64 ∧ 0 < 64)),
    (by decide : ¬ (0 < 64 ∧ 64 < 64 ∧ 0 < 64)),
    (by decide : ¬ (0 < 64 ∧ 0 < 64 ∧ 64 < 64)),
    (by decide : ¬ (0 < 64 ∧ 0 < 64 ∧ 16384 < 16384)),
    (by decide : ¬ (0 < 64 ∧ 0 < 64 ∧ 64 < 64)),
    (by decide : ¬ (0 < 64 ∧ 1048576 < 1048576)),
    (by decide : ¬ (0 < 64 ∧ 0 < 64 ∧ 0 < 64 ∧ 16 < 16)),
    (by decide : ¬ (0 < 64 ∧ 0 < 64 ∧ 4 < 4)),
    (by decide : ¬ (0 < 64 ∧ 6 < 64 ∧ (6 ≤ 5))),
    (by decide : ¬ (0 < 64 ∧ 0 < 64 ∧ 0 < 16 ∧ 7 < 8 ∧ 0 < 128 ∧ (7 < 7))),
    (by decide : ¬ (0 < 64 ∧ 0 < 64 ∧ 0 < 16 ∧ 0 < 8 ∧ 128 < 128 ∧ (0 < 7))),
    (by decide : ¬ (0 < 64 ∧ 0 < 64 ∧ 0 < 64 ∧ 0 < 16 ∧ 0 < 8 ∧ 2 < 2 ∧ (0 < 7))),
    (by decide : ¬ (0 < 64 ∧ 0 < 64 ∧ 4 < 4 ∧ 0 < 4096)),
    (by decide : ¬ (0 < 64 ∧ 0 < 64 ∧ 0 < 64 ∧ 0 < 4 ∧ 4 < 4)),
    (by decide : ¬ (2 < 4 ∧ 0 < 64 ∧ 0 < 64 ∧ (2 ≤ 1))),
    (by decide : ¬ (0 < 64 ∧ 0 < 64 ∧ 0 < 64 ∧ 4 < 4 ∧ 0 < 4)),
    (by decide : ¬ (0 < 64 ∧ 0 < 64 ∧ 0 < 64 ∧ 0 < 4 ∧ 4 < 4)),
    (by decide : ¬ (2 < 2 ∧ 0 < 64 ∧ 0 < 64)),
    (by decide : ¬ (5 < 8 ∧ 0 < 4 ∧ (5 ≤ 4))),
    (by decide : ¬ (0 < 8 ∧ 4 < 4 ∧ (0 ≤ 4))),
    (by decide : ¬ (0 < 64 ∧ 1 < 64 ∧ 0 < 64 ∧ (0 ≤ 2 ∧ (0 = 2 ∨ 1 = 0)))),
    (by decide : ¬ (0 < 64 ∧ 0 < 64 ∧ 3 < 64 ∧ (3 ≤ 2 ∧ (3 = 2 ∨ 0 = 0)))),
    (by decide : ¬ (0 < 64 ∧ 2 < 64 ∧ (2 ≤ 1))),
    (by decide : ¬ (0 < 64 ∧ 4 < 64 ∧ (4 ≤ 3))),
    (by decide : ¬ (0 < 64 ∧ 3 < 64 ∧ (3 ≤ 2))),
    (by decide : ¬ (0 < 64 ∧ 0 < 64 ∧ 0 < 64 ∧ 8 < 8 ∧ 0 < 4)),
    (by decide : ¬ (0 < 64 ∧ 0 < 64 ∧ 0 < 64 ∧ 0 < 8 ∧ 4 < 4)),
    (by decide : ¬ (0 < 64 ∧ 0 < 64 ∧ 0 < 64 ∧ 0 < 16 ∧ 0 < 8 ∧ 2 < 2)),
    (by decide : ¬ (0 < 64 ∧ 0 < 64 ∧ 2 < 64 ∧ 0 < 8 ∧ 0 < 4 ∧ (2 ≤ 1))),
    (by decide : ¬ (16 < 16 ∧ 0 < 16 ∧ 0 < 16 ∧ 0 < 16 ∧ 0 < 4 ∧ 0 < 2)),
    (by decide : ¬ (0 < 16 ∧ 0 < 16 ∧ 0 < 16 ∧ 0 < 16 ∧ 4 < 4 ∧ 0 < 2)),
    (by decide : ¬ (1 < 64 ∧ 1 < 64 ∧ 0 < 64 ∧ (1 = 0 ∨ 1 = 0))),
    (by decide : ¬ (0 < 64 ∧ 0 < 64 ∧ 0 < 64 ∧ (0 ≠ 0 ∧ 0 = 0))),
    (by decide : ¬ (0 < 64 ∧ 0x00C < 1024 ∧ (csrAssigned 0x00C = true))),
    (by decide : ¬ (0 < 64 ∧ 0x009 < 1024 ∧ (csrAssigned 0x009 = true ∧ csrReadOnly 0x009 = false)))⟩
theorem test_well_formed_refuses_the_rest :
    ¬ Instr.WellFormed (.route 7 0 0 0 0 0 0 0 0) ∧ ¬ Instr.WellFormed (.route 0 0 0 0 0 0 1 0 0) ∧ ¬ Instr.WellFormed (.route 0 0 0 0 8 1 0 0 1) ∧
    ¬ Instr.WellFormed (.rep 0 0 0 7 0 0) ∧ ¬ Instr.WellFormed (.rep 0 0 0 0 0 4096) ∧ ¬ Instr.WellFormed (.ring 16 16 0) ∧ ¬ Instr.WellFormed (.jmp 2048) ∧
    ¬ Instr.WellFormed (.bnz 4 0) ∧ ¬ Instr.WellFormed (.setc 0 65536) ∧ ¬ Instr.WellFormed (.tkwt 2 0) ∧ ¬ Instr.WellFormed (.bus 0 0 0 0) ∧
    ¬ Instr.WellFormed (.bus 0 32 1 0) ∧ ¬ Instr.WellFormed (.atomicComplete 4096 0) ∧ ¬ Instr.WellFormed (.atomicComplete 0 4) ∧
    ¬ Instr.WellFormed (.tokenPass 4) ∧ ¬ Instr.WellFormed (.ecpyExec 48 0) ∧ ¬ Instr.WellFormed (.ecpyExec 0 8) ∧ ¬ Instr.WellFormed (.nodeFire 0 0 16) ∧
    ¬ Instr.WellFormed (.hashdomWrite 16 0) ∧ ¬ Instr.WellFormed (.pageRequestRecordWrite 12 0) ∧ ¬ Instr.WellFormed (.pageRequestRecordWrite 0 64) ∧
    ¬ Instr.WellFormed (.register 64) ∧ ¬ Instr.WellFormed (.barRegisterWrite 4 0) ∧ ¬ Instr.WellFormed (.barRegisterWrite 0x100000 0) ∧
    ¬ Instr.WellFormed (.linkDown 16) :=
  ⟨(by decide : ¬ (0 < 16 ∧ 0 < 2 ∧ 0 < 2 ∧ 0 < 32 ∧ routeOk 7 0 0 0 0 0 0 0 0 = true)),
    (by decide : ¬ (0 < 16 ∧ 0 < 2 ∧ 1 < 2 ∧ 0 < 32 ∧ routeOk 0 0 0 0 0 0 1 0 0 = true)),
    (by decide : ¬ (8 < 16 ∧ 1 < 2 ∧ 0 < 2 ∧ 0 < 32 ∧ routeOk 0 0 0 0 8 1 0 0 1 = true)),
    (by decide : ¬ (0 < 16 ∧ 0 < 4096 ∧ repOk 0 0 0 7 = true)),
    (by decide : ¬ (0 < 16 ∧ 4096 < 4096 ∧ repOk 0 0 0 0 = true)),
    (by decide : ¬ (16 < 32 ∧ 16 < 32 ∧ 0 < 65536 ∧ 16 + 16 + 1 ≤ 32)),
    (by decide : ¬ (2048 < 2048)),
    (by decide : ¬ (4 < 4 ∧ 0 < 2048)),
    (by decide : ¬ (0 < 4 ∧ 65536 < 65536)),
    (by decide : ¬ (2 < 2 ∧ 0 < 65536)),
    (by decide : ¬ (0 < 2 ∧ 0 < 32 ∧ 1 ≤ 0 ∧ 0 ≤ 9 ∧ 0 < 4096)),
    (by decide : ¬ (0 < 2 ∧ 32 < 32 ∧ 1 ≤ 1 ∧ 1 ≤ 9 ∧ 0 < 4096)),
    (by decide : ¬ (4096 < 4096 ∧ 0 < 4)),
    (by decide : ¬ (0 < 4096 ∧ 4 < 4)),
    (by decide : ¬ (4 < 4)),
    (by decide : ¬ (48 < 48 ∧ 0 < 8)),
    (by decide : ¬ (0 < 48 ∧ 8 < 8)),
    (by decide : ¬ (0 < 48 ∧ 0 < 8 ∧ 16 < 16)),
    (by decide : ¬ (16 < 16)),
    (by decide : ¬ (12 < 12 ∧ 0 < 64)),
    (by decide : ¬ (0 < 12 ∧ 64 < 64)),
    (by decide : ¬ (64 < 64)),
    (by decide : ¬ (4 < 0x100000 ∧ 4 % 8 = 0)),
    (by decide : ¬ (0x100000 < 0x100000 ∧ 0x100000 % 8 = 0)),
    (by decide : ¬ (16 < 16))⟩

theorem test_well_formed_takes :
    Instr.WellFormed (.add 63 63 63) ∧ Instr.WellFormed (.lctx 63 5) ∧ Instr.WellFormed (.ld 63 63 15 6 127) ∧ Instr.WellFormed (.fence 4 3) ∧
    Instr.WellFormed (.csrw 63 0x29F) ∧ Instr.WellFormed (.ring 16 15 65535) ∧ Instr.WellFormed (.route 6 5 4 0 7 1 1 31 1) :=
  ⟨(by decide : (63 < 64 ∧ 63 < 64 ∧ 63 < 64)),
    (by decide : (63 < 64 ∧ 5 < 64 ∧ (5 ≤ 5))),
    (by decide : (63 < 64 ∧ 63 < 64 ∧ 15 < 16 ∧ 6 < 8 ∧ 127 < 128 ∧ (6 < 7))),
    (by decide : (4 < 8 ∧ 3 < 4 ∧ (4 ≤ 4))),
    (by decide : (63 < 64 ∧ 0x29F < 1024 ∧ (csrAssigned 0x29F = true ∧ csrReadOnly 0x29F = false))),
    (by decide : (16 < 32 ∧ 15 < 32 ∧ 65535 < 65536 ∧ 16 + 15 + 1 ≤ 32)),
    (by decide : (7 < 16 ∧ 1 < 2 ∧ 1 < 2 ∧ 31 < 32 ∧ routeOk 6 5 4 0 7 1 1 31 1 = true))⟩
/-! ### Scalar instructions -/

theorem witness_ScalarArithmeticResults :
    (∀ i ∈ ([.add 5 6 7, .sub 5 6 6, .and 0 6 7, .or 46 31 0, .xor 5 6 7, .andn 5 6 7, .orn 5 6 7, .sll 5 6 7, .srl 5 6 7, .sra 5 6 7,
      .slt 5 6 7, .sltn 5 6 7, .min 5 6 7, .max 5 6 7, .minn 5 6 7, .maxn 5 6 7, .addw 5 6 7, .subw 5 6 7, .sllw 5 6 7,
      .srlw 5 6 7, .sraw 5 6 7, .czero 5 6 7, .clz 5 6, .ctz 5 6, .popc 5 6, .bswap 5 6, .addi 5 6 16383, .andi 5 6 0, .ori 5 6 1,
      .xori 5 6 8192, .slti 5 6 8191, .sltni 5 6 16383, .addiw 5 6 1, .slli 5 6 63, .srli 5 6 0, .srai 5 6 63, .lui 5 0x80000,
      .adpc 31 0xFFFFF] : List Instr), Issues i base) ∧
    Issues (.add 46 41 4) (withFlit base 0 { val := 3, taint := false }) := by
  unfold Issues; decide +kernel

theorem witness_LongLatencyResults :
    (∀ i ∈ ([.mul 5 6 7 0, .mulh 5 6 7 15, .mulhn 5 6 7 1, .mulhsn 5 6 7 1, .mulw 5 6 7 1] : List Instr), Issues i base) ∧
    (∀ i ∈ ([.div 5 6 0 1, .divn 5 6 7 1, .rem 5 6 7 1, .remn 5 6 7 1, .divw 5 6 7 1, .divnw 5 6 7 1] : List Instr),
      Issues i base ∧ base.tile.divBusy = false ∧
      Issues i (base.onTile (fun t => { t with divBusy := true })) ∧ (base.onTile (fun t => { t with divBusy := true })).tile.divBusy = true) := by
  unfold Issues; decide +kernel

/-- A divide's window whose value is known and which no instruction is left to hold open. -/
def dividing : State :=
  base.onTile (fun t => { t.modCtx 0 (fun c => { c with
    nextWin := 1
    wins := [{ id := 0, ipc := 0x100000, step := 0, rem := 0, dst := 31, vec := false, n := 0, kind := .value, st := .bound 9 false
               addr := 0, aux := 1, tnt := false }] }) with divBusy := true })

theorem witness_BoundResultLandsAndCloses :
    (dividing.tileAt 0).isSome = true ∧ (dividing.tileD 0).ctxs[(0 : Fin 4)].wins.length = 1 ∧
    (dividing.tileD 0).ctxs[(0 : Fin 4)].wins.all (fun w => w.st == .bound 9 false && w.rem == 0 && !w.vec && w.written == 0 &&
      decide (w.dst < 32) && w.kind == .value && w.aux == 1) = true ∧
    (after (.longLatencyLanding 0 0 0) dividing).ctx.x[31] = 9 ∧ (after (.longLatencyLanding 0 0 0) dividing).tile.divBusy = false := by
  decide +kernel

theorem witness_ControlTransfers :
    (∀ i ∈ ([.beq 5 5 8191, .bne 5 6 8192, .blt 5 6 0, .bge 5 6 16383, .bltn 5 6 1, .bgen 5 6 1, .jal 31 0x80000, .jalr 0 31 0,
      .jalr 1 31 2] : List Instr), Issues i base) ∧
    ((base.readXs 31).1 + (BitVec.ofNat 14 0).signExtend 64).toNat % 4 = 0 ∧
    ((base.readXs 31).1 + (BitVec.ofNat 14 2).signExtend 64).toNat % 4 ≠ 0 := by
  unfold Issues; decide +kernel

/-- An inner loop that holds PC. -/
def looping (modulo : Bool) : State :=
  base.onCtx (fun c => { c with loops := [{ modulo, sm1 := 0, beg := 0x0FFFFC, len := 7, v := 1, cnt := 2, n := 3, j := 1, dr := false
                                            stages := [0, 0, 0, 0, 0, 0, 0, 0] }] })

/-- PC at the last word of a counted body of two words, CNT of N iterations done; inside an outer loop that ends there too. -/
def bodyEnd (cnt n : Lane) (nested : Bool) : State :=
  base.onCtx (fun c => { c with loops :=
    { modulo := false, sm1 := 0, beg := 0x0FFFFC, len := 1, v := 0, cnt, n, j := 0, dr := false, stages := [] } ::
    (if nested then [{ modulo := false, sm1 := 0, beg := 0x0FFFF8, len := 2, v := 0, cnt := 0, n := 2, j := 0, dr := false, stages := [] }] else []) })

/-- The end of the body of the inner loop. -/
def bodyFin (s : State) : Word := match s.ctx.loops with
  | l :: _ => l.beg + BitVec.ofNat 64 (4 * (l.len + 1))
  | [] => 0

/-- Slot j of a modulo body of three slots, two stages: slots 0 and 2 in stage 0, slot 1 in stage 1. -/
def slotted (j : Nat) (v : BitVec 4) (cnt n : Lane) : State :=
  base.onCtx (fun c => { c with
    pc := 0x0FFFFC + BitVec.ofNat 64 (4 * j)
    loops := [{ modulo := true, sm1 := 1, beg := 0x0FFFFC, len := 2, v, cnt, n, j, dr := false, stages := [0, 1, 0] }] })

theorem witness_CountedLoopResults :
    (Issues (.loopC 0 6 63) base ∧ base.ctx.loops = [] ∧ low (base.ctx.readX 6).1 = 0) ∧
    (Issues (.loopC 1 6 0) (withX base 6 1) ∧ (withX base 6 1).ctx.loops = [] ∧ low ((withX base 6 1).ctx.readX 6).1 ≠ 0) ∧
    (∀ m : Bool, Issues (.lbrk 6) (looping m) ∧ (looping m).ctx.loops.length = 1 ∧ ((looping m).ctx.readX 6).1 = 0) ∧
    Issues (.lbrk 6) (withX (looping false) 6 1) ∧
    Issues (.lctx 5 0) (looping false) ∧ Issues (.lctx 5 5) base := by
  unfold Issues; decide +kernel

theorem witness_CountedLoopResults_nested :
    Issues (.lctx 5 2) (looping true) ∧ Issues (.loopC 0 6 2) (withX (looping false) 6 1) ∧ Issues (.lctx 5 3) (bodyEnd 0 3 true) ∧
    (bodyEnd 0 3 true).ctx.loops.length = 2 := by
  unfold Issues; decide +kernel

theorem witness_CountedBodiesRepeat :
    (∀ s ∈ [looping false, bodyEnd 0 2 false, bodyEnd 1 2 false, bodyEnd 1 2 true], Acts s ∧ s.ctx.loops.map LoopCtx.modulo ≠ []) ∧
    (looping false).ctx.pc + 4 ≠ bodyFin (looping false) ∧
    (bodyEnd 0 2 false).ctx.pc + 4 = bodyFin (bodyEnd 0 2 false) ∧
    (after (.add 0 0 0) (bodyEnd 0 2 false)).ctx.pc = 0x0FFFFC ∧ (after (.add 0 0 0) (bodyEnd 0 2 false)).ctx.loops.map LoopCtx.cnt = [1] ∧
    (after (.add 0 0 0) (bodyEnd 1 2 false)).ctx.pc = 0x100004 ∧ (after (.add 0 0 0) (bodyEnd 1 2 false)).ctx.loops = [] ∧
    (after (.add 0 0 0) (bodyEnd 1 2 true)).ctx.pc = 0x0FFFF8 ∧ (after (.add 0 0 0) (bodyEnd 1 2 true)).ctx.loops.map LoopCtx.cnt = [1] := by
  unfold Acts; decide +kernel

theorem witness_ModuloPassesFollow :
    (∀ j < 3, Acts (slotted j 1 0 5)) ∧
    (after (.add 0 0 0) (slotted 0 3 0 5)).ctx.pc = 0x100000 ∧ (after (.add 0 0 0) (slotted 0 3 0 5)).ctx.loops.map LoopCtx.j = [1] ∧
    (after (.add 0 0 0) (slotted 2 3 0 5)).ctx.pc = 0x0FFFFC ∧
    (after (.add 0 0 0) (slotted 2 3 0 5)).ctx.loops.map (fun l => (l.cnt, l.v, l.j)) = [(1, 3, 0)] ∧
    (after (.add 0 0 0) (slotted 2 2 4 5)).ctx.pc = 0x100008 ∧ (after (.add 0 0 0) (slotted 2 2 4 5)).ctx.loops = [] := by
  unfold Acts; decide +kernel

/-- A line of code whose second word is a stage map of one word: slot 0 has stage 0 and slot 1 stage 1. -/
def staged : State :=
  base.onTile (fun t => { t with l1i := [{ asid := 0, line := 0x4000, dom := 0, data := 0x400000000, taint := 0 }] })

theorem witness_ModuloLoopBegins :
    (Issues (.loopM 1 6 1) staged ∧ staged.ctx.loops = [] ∧ Issues (.loopM 1 6 1) (withX staged 6 1) ∧
      stagesOk [4] 2 1 = true ∧ (stagesOf [4] 2).getD 0 1 = 0) ∧
    ∃ w, fetchWords ((1 + 16) / 16) staged (staged.ctx.pc + 4) [] = (.ok [w], staged) ∧ w = 4 := by
  refine ⟨by unfold Issues; decide +kernel, ?_⟩
  have hc : (match checkAccess staged .fetch (staged.ctx.pc + 4) 4 with | .ok (.span _ _) => true | _ => false) = true := by decide +kernel
  have hl : (staged.tile.l1i.find? (fun l => l.asid == staged.forme.asid && l.line == (staged.ctx.pc + 4).toNat / 64)).map
      (fun l => (lineLane l.data ((staged.ctx.pc + 4).toNat % 64), lineTaint l.poison ((staged.ctx.pc + 4).toNat % 64) 4)) = some (4, false) := by
    decide +kernel
  split at hc
  case h_2 => simp at hc
  case h_1 i p h =>
    obtain ⟨l, h1, h2⟩ := Option.map_eq_some_iff.mp hl
    obtain ⟨h3, h4⟩ := Prod.mk.inj h2
    exact ⟨_, by rw [fetchWords_succ (fetchAt_hit h h1 h4)]; rfl, h3⟩

theorem witness_ScalarArithmeticFrame : Issues (.lui 31 0) base ∧ Issues (.adpc 0 1) base ∧ Issues (.sub 31 31 31) base := by
  unfold Issues; decide +kernel

theorem test_sll_by_64 : (after (.sll 5 6 7) (withX (withX base 6 1) 7 64)).ctx.x[5] = 0 := by decide +kernel
theorem test_sra_by_large : (after (.sra 5 6 7) (withX (withX base 6 0x8000000000000000) 7 0xFFFFFFFFFFFFFFFF)).ctx.x[5] = 0xFFFFFFFFFFFFFFFF := by
  decide +kernel
theorem test_srlw_by_0_sign_extends : (after (.srlw 5 6 0) (withX base 6 0x80000000)).ctx.x[5] = 0xFFFFFFFF80000000 := by decide +kernel
theorem test_clz_of_0 : (after (.clz 5 6) base).ctx.x[5] = 64 := by decide +kernel
theorem test_czero_of_0 : (after (.czero 5 6 7) (withX base 6 9)).ctx.x[5] = 0 := by decide +kernel
theorem test_sltni_1_of_0 : (after (.sltni 5 6 1) base).ctx.x[5] = 1 := by decide +kernel
theorem test_lui_addi : (after (.addi 5 5 5752) (after (.lui 5 18641) base)).ctx.x[5] = 0x12345678 := by decide +kernel
theorem test_x0_discards : (after (.addi 0 6 1) base).ctx.x[0] = 0 ∧ (after (.addi 0 6 1) base).ctx.pc = 0x100004 := by decide +kernel

/-- R78's example: mulh of 2^62 and 2^62 is 2^60. -/
theorem test_mulh : (match (after (.mulh 9 5 6 2) (withX (withX base 5 0x4000000000000000) 6 0x4000000000000000)).ctx.wins with
    | [w] => w.st == .bound 0x1000000000000000 false && w.rem == 2
    | _ => false) = true := by decide +kernel
theorem test_div_saturates : (match (after (.div 9 5 6 0) (withX (withX base 5 0x8000000000000000) 6 0xFFFFFFFFFFFFFFFF)).ctx.wins with
    | [w] => w.st == .bound 0x7FFFFFFFFFFFFFFF false
    | _ => false) = true := by decide +kernel
theorem test_divnw_sign_extends : (match (after (.divnw 9 5 6 0) (withX (withX base 5 0xFFFFFFFF) 6 1)).ctx.wins with
    | [w] => w.st == .bound 0xFFFFFFFFFFFFFFFF false
    | _ => false) = true := by decide +kernel
theorem test_jal_links : (after (.jal 31 16) base).ctx.pc = 0x100040 ∧ (after (.jal 31 16) base).ctx.x[31] = 0x100004 := by decide +kernel
theorem test_bne_taken_back : (after (.bne 5 7 16383) (withX base 5 1)).ctx.pc = 0xFFFFC := by decide +kernel
theorem test_branch_on_taint : (after (.beq 5 7 2) (taintX base 5)).ctx.stat stCTNT = true := by decide +kernel

/-! ### Loads, stores, atomics and updates -/

/-- The base of the local region. -/
def localVa : Word := 0x01FFFFFF00000000

/-- With handlers at 0x100000, and frames at offsets 0 and 2,048 of main store. -/
def handled (s : State) : State :=
  s.onCtx (fun c => { c with tvec := 0x100000, tfp := localVa, uvec := 0x100000, ufp := localVa + 0x800 })

/-- The local offset that the checks accept. -/
def locOf (s : State) (k : AccKind) (a : Word) (n : Nat) : Option Nat :=
  match checkDecl s k a n with
  | .ok (.loc off) => some off
  | _ => none

theorem witness_LoadsFromLocalStore :
    LoadForm (.ld 5 6 1 6 127) (atLocal 8 0) 5 1 6 localVa false (atLocal 8 0) ∧ Issues (.ld 5 6 1 6 127) (atLocal 8 0) ∧
    localVa.toNat % 8 = 0 ∧ locOf (atLocal 8 0) .read localVa 8 = some 0 ∧ (atLocal 8 0).tile.poisoned 0 8 = false :=
  ⟨.inl ⟨6, 127, rfl, by decide +kernel, by decide +kernel, rfl⟩, by unfold Issues; decide +kernel, by decide +kernel, by decide +kernel,
    by decide +kernel⟩

theorem witness_LoadsFromLocalStore_ldx :
    LoadForm (.ldx 5 6 7 15 0 0) (atLocal 0 0x3FFFF) 5 15 0 (localVa + 0x3FFFF) false (atLocal 0 0x3FFFF) ∧
    Issues (.ldx 5 6 7 15 0 0) (atLocal 0 0x3FFFF) ∧ locOf (atLocal 0 0x3FFFF) .read (localVa + 0x3FFFF) 1 = some 0x3FFFF :=
  ⟨.inr ⟨6, 7, 0, rfl, by decide +kernel, by decide +kernel, rfl⟩, by unfold Issues; decide +kernel, by decide +kernel⟩

/-- A pending entry of context 0 that covers the first eight bytes of the data span. -/
def pendEntry : SbEntry :=
  { idx := 0, ctx := 0, gen := 0, asid := 0, va := 0x200000, mask := 0xFF, data := 0x1122334455667788, taint := false, pc := 0x100000
    step := 0, seq := 1, home := 0, dom := 0, hash := false, st := .pending, reported := false, ord := 0 }

/-- An L1D copy of the first line of the data span. -/
def dataLine : L1Line := { asid := 0, line := 0x8000, dom := 0, data := 0x80, taint := 0 }

def withSb (s : State) (l : List SbEntry) : State := s.onTile (fun t => { t with sb := l })
def withL1 (s : State) (l : List L1Line) : State := s.onTile (fun t => { t with l1d := l })

/-- The first line of the data span, valid at its home slice, with 0x80 in its first byte. -/
def spanLine : L2Line :=
  { slice := 0, asid := 0, line := 0x8000, dom := 0, fill := .valid, data := 0x80, taint := 0, dirty := false, poison := 0, shadow := [] }

def withLines (s : State) (l : List L2Line) : State := { s with l2 := l }

/-- The page of the data span, present at controller 0 in the frame of its own number, cached or uncached. -/
def pageIn (uc : Bool) (s : State) : State :=
  s.modCtl 0 (fun _ => { roots := [0], leaves := [{ asid := 0, va := 0x200000, entry := leafWord 0 0 0 uc 0x200 0, used := false }] })

theorem witness_LoadsThroughSpans :
    LoadForm (.ld 5 6 1 6 0) (atSpan 0 0 0) 5 1 6 0x200000 false (atSpan 0 0 0) ∧
    (∀ s ∈ [atSpan 0 0 0, atSpan chkBit 0 0, atSpan ncBit 0 0, withSb (atSpan 0 0 0) [pendEntry], withL1 (atSpan 0 0 0) [dataLine]],
      Issues (.ld 5 6 1 6 0) s ∧ s.tile.upd = [] ∧
      (match checkDecl s .read 0x200000 8 with | .ok (.span 1 p) => p == s.ctx.spans[1] | _ => false) = true) ∧
    sbCover (withSb (atSpan 0 0 0) [pendEntry]).tile 0 0 0x200000 8 = some ([0x88, 0x77, 0x66, 0x55, 0x44, 0x33, 0x22, 0x11], false) ∧
    sbCover (withL1 (atSpan 0 0 0) [dataLine]).tile 0 0 0x200000 8 = none ∧
    l1Find (withL1 (atSpan 0 0 0) [dataLine]) (withL1 (atSpan 0 0 0) [dataLine]).tile 0 0x200000 = some dataLine ∧
    sbCover (atSpan 0 0 0).tile 0 0 0x200000 8 = none ∧ l1Find (atSpan 0 0 0) (atSpan 0 0 0).tile 0 0x200000 = none :=
  ⟨.inl ⟨6, 0, rfl, by decide +kernel, by decide +kernel, rfl⟩, by unfold Issues; decide +kernel⟩

/-- A push of the tile on the first line of the data span is under way. -/
def pushedLine (s : State) : State :=
  { s with pushes := [{ id := 0, upd := { asid := 0, line := 0x8000, home := 0, dom := 0, hash := false, fn := 1, wide := false, valid := 1
                                          vals := List.replicate 16 5, taint := 0 }, dom := none, tile := 0, ofu := false, forme := 0 }], nextReq := 1 }

/-- A poisoned copy freezes the core; a load under an open push or request goes to the home slice. -/
theorem witness_LoadsThroughSpans_others :
    (after (.ld 5 6 1 6 0) (withL1 (atSpan 0 0 0) [{ dataLine with poison := 1 }])).ctx.pc = 0x100000 ∧
    pushOn (pushedLine (withL1 (atSpan 0 0 0) [dataLine])) 0 0 0x8000 = true ∧
    (after (.ld 5 6 1 6 0) (pushedLine (withL1 (atSpan 0 0 0) [dataLine]))).reqs.length = 1 := by
  decide +kernel

/-- A load's window and its request, answered as given. -/
def loading (st : ReqState) : State :=
  { base.onCtx (fun c => { c with
      nextWin := 1
      wins := [{ id := 0, ipc := 0x100000, step := 0, rem := 1, dst := 5, vec := false, n := 0, kind := .load 1 true, st := .waiting
                 addr := 0x200000, aux := 0, tnt := false }] }) with
    nextReq := 1
    reqs := [{ id := 0, tile := 0, ctx := 0, gen := 0, asid := 0, va := 0x200000, size := 1, home := 0, dom := none, domIdx := 0
               chk := false, nc := false, pc := 0x100000, step := 0, seq := 0, kind := .load 0, st }] }

theorem witness_AnsweredLoadLands :
    (∀ st ∈ ([.done 0x80 false, .failed { code := 0x10, kind := 1 }] : List ReqState),
      ((loading st).tileAt 0).isSome = true ∧ (loading st).winReqs 0 0 0 = (loading st).reqs ∧
      (loading st).reqs.map Req.st = [st] ∧
      ((loading st).tileD 0).ctxs[(0 : Fin 4)].wins.map (fun w => (w.st, w.kind, w.rem)) = [(.waiting, .load 1 true, 1)]) ∧
    (after (.longLatencyLanding 0 0 0) (loading (.done 0x80 false))).ctx.wins.map Window.st = [.landed 0xFFFFFFFFFFFFFF80 false] := by
  decide +kernel

/-- The request of `loading`, sent. -/
def sentLoad (chk : Bool) : Req :=
  { id := 0, tile := 0, ctx := 0, gen := 0, asid := 0, va := 0x200000, size := 1, home := 0, dom := none, domIdx := 0
    chk, nc := false, pc := 0x100000, step := 0, seq := 0, kind := .load 0, st := .sent }

/-- A load, CHECKED or not, its line valid at the home slice with the given race records. -/
def servedLoad (chk : Bool) (sh : List Shadow) : State :=
  { loading .sent with reqs := [sentLoad chk], l2 := [{ spanLine with shadow := sh }] }

theorem findsLine_of {s : State} {r : Req} {l : L2Line} (hd : r.dom = none)
    (h : s.reqAt r.id = some r ∧ r.st = .sent ∧ pushAhead s r = false ∧ loadAhead s r = false ∧ storeAhead s r = false ∧
      s.l2At r.home r.asid r.line = some l ∧ l.fill = .valid ∧ s.ofu = []) : FindsLine s r l :=
  ⟨h.1, h.2.1, h.2.2.1, h.2.2.2.1, h.2.2.2.2.1, (by rw [hd]; intro d g h; cases h), h.2.2.2.2.2⟩

theorem servedLoad_finds :
    FindsLine (servedLoad false []) (sentLoad false) spanLine ∧ FindsLine (servedLoad true []) (sentLoad true) spanLine ∧
    FindsLine (servedLoad true [{ word := 0, writer := 3, phase := 0 }]) (sentLoad true)
      { spanLine with shadow := [{ word := 0, writer := 3, phase := 0 }] } :=
  ⟨findsLine_of rfl (by decide +kernel), findsLine_of rfl (by decide +kernel), findsLine_of rfl (by decide +kernel)⟩

theorem witness_HomeSlicesServeLoads :
    ∀ k ∈ ([(false, []), (true, []), (true, [{ word := 0, writer := 3, phase := 0 }])] : List (Bool × List Shadow)),
      let s := servedLoad k.1 k.2
      (s.tileAt 0).isSome = true ∧ (s.tileD 0).ctxs[(0 : Fin 4)].wins.map (fun w => (w.st, w.id)) = [(.waiting, 0)] ∧
      s.winReqs 0 0 0 = [sentLoad k.1] ∧ readsPoison spanLine 0 1 = false ∧
      raceOther k.2 (wordsOf 0 1) (s.tileD 0).logical (s.phaseOf 0) = (if k.2 = [] then none else some 3) := by
  decide +kernel

theorem test_home_slice_answers_load :
    (after (.longLatencyLanding 0 0 0) (servedLoad false [])).reqs.map Req.st = [.done 0x80 false] ∧
    (after (.longLatencyLanding 0 0 0) (servedLoad true [{ word := 0, writer := 3, phase := 0 }])).reqs.map Req.st =
      [.failed { code := 0x20, tval := 0x200000, ipc := 0x100000, info0 := 3 }] := by
  decide +kernel

theorem witness_StoresToLocalStore :
    StoreForm (.st 7 6 3 4095) (atLocal 8 1) 7 3 localVa false (atLocal 8 1) ∧ Issues (.st 7 6 3 4095) (atLocal 8 1) ∧
    TileCanonical (atLocal 8 1).tile ∧ locOf (atLocal 8 1) .write localVa 8 = some 0 ∧ (atLocal 8 1).tile.windowAt 0 = none ∧
    (∀ a < 8, Memory.get (after (.st 7 6 3 4095) (atLocal 8 0x1122334455667788)).tile.main a = 0x88 - 0x11 * BitVec.ofNat 8 a) :=
  ⟨.inl ⟨6, 4095, rfl, by decide +kernel, by decide +kernel, rfl⟩, by unfold Issues; decide +kernel, by unfold TileCanonical; decide +kernel,
    by decide +kernel, by decide +kernel, by decide +kernel⟩

theorem witness_StoresToLocalStore_stx :
    StoreForm (.stx 7 6 0 0 0) (atLocal 0x3FFFF 5) 7 0 (localVa + 0x3FFFF) false (atLocal 0x3FFFF 5) ∧
    Issues (.stx 7 6 0 0 0) (atLocal 0x3FFFF 5) ∧ locOf (atLocal 0x3FFFF 5) .write (localVa + 0x3FFFF) 1 = some 0x3FFFF ∧
    Memory.get (after (.stx 7 6 0 0 0) (atLocal 0x3FFFF 5)).tile.main 0x3FFFF = 5 :=
  ⟨.inr ⟨6, 0, 0, rfl, by decide +kernel, by decide +kernel, rfl⟩, by unfold Issues; decide +kernel, by decide +kernel, by decide +kernel⟩

/-- A tile of logical number 1 in the forme of the acting one; register 6 addresses offset 8 of its exchange window. -/
def twoTiles : State :=
  let s := withX (withX base 6 0x01FFFFFE00010008) 7 0x1122
  { s with tiles := s.tiles ++ [{ s.tile with phys := 1, logical := 1 }], formes := s.formes.map (fun f => { f with img := { f.img with w := 2 } }) }

theorem witness_StoresToTheRemoteRegion :
    StoreForm (.st 7 6 1 0) twoTiles 7 1 0x01FFFFFE00010008 false twoTiles ∧ Issues (.st 7 6 1 0) twoTiles ∧
    (match checkDecl twoTiles .write 0x01FFFFFE00010008 2 with | .ok (.remote 1 8) => true | _ => false) = true ∧
    twoTiles.tile.injq.length < 8 ∧ (twoTiles.logicalTile twoTiles.tile.forme 1).map Tile.phys = some 1 ∧
    twoTiles.holding twoTiles.tile = false ∧
    (after (.st 7 6 1 0) twoTiles).net.map Packet.kind = [.remoteStore 8 [0x22, 0x11] 0 0x100000] :=
  ⟨.inl ⟨6, 0, rfl, by decide +kernel, by decide +kernel, rfl⟩, by unfold Issues; decide +kernel⟩

theorem witness_StoresThroughSpans :
    StoreForm (.st 7 6 2 0) (atSpan 0 4 9) 7 2 0x200004 false (atSpan 0 4 9) ∧
    (∀ s ∈ [atSpan 0 4 9, atSpan chkBit 4 9], Issues (.st 7 6 2 0) s ∧ s.tile.sb.length < 32 ∧ s.tile.upd = [] ∧
      (match checkDecl s .write 0x200004 4 with | .ok (.span 1 p) => !p.sink && p.a == s.ctx.spans[1].a | _ => false) = true ∧
      faultedOn s.tile.sb 0 0 0x8000 = none ∧ s.ctx.wait ≠ .raceOk) ∧
    (dataSpan 0).chk = false ∧ (dataSpan chkBit).chk = true ∧
    (after (.st 7 6 2 0) (atSpan 0 4 9)).tile.sb.map (fun e => (e.mask, e.data, e.va)) = [(0xF0, 0x900000000, 0x200000)] ∧
    (after (.st 7 6 2 0) (atSpan chkBit 4 9)).ctx.wait = .race 0 ∧
    Issues (.st 7 6 2 0) ((atSpan chkBit 4 9).onCtx (fun c => { c with wait := .raceOk })) ∧
    (after (.st 7 6 2 0) ((atSpan chkBit 4 9).onCtx (fun c => { c with wait := .raceOk }))).tile.sb.map (fun e => (e.mask, e.data)) =
      [(0xF0, 0x900000000)] :=
  ⟨.inl ⟨6, 0, rfl, by decide +kernel, by decide +kernel, rfl⟩, by unfold Issues; decide +kernel⟩

theorem witness_MisalignedAccessRaisesAlign :
    Issues (.ld 5 6 0 2 0) (atLocal 1 0) ∧ Issues (.st 7 6 1 0) (atLocal 1 0) ∧ (localVa + 1).toNat % 2 ^ (2 / 2) ≠ 0 ∧ (localVa + 1).toNat % 2 ^ 1 ≠ 0 := by
  unfold Issues; decide +kernel

theorem witness_RangeOperations :
    (∀ i ∈ ([.wbR 0 6 7, .invR 1 6 7, .wbinvR 1 6 7, .iinvR 0 6 7, .pfr 0 6 7] : List Instr), Issues i (atSpan 0 0 0) ∧ Issues i (atSpan 0 0 64)) ∧
    ((atSpan 0 0 0).ctx.readX 7).1 = 0 ∧ ((atSpan 0 0 64).ctx.readX 7).1 ≠ 0 ∧
    (∀ f ∈ [(1, 0), (2, 1), (3, 1), (4, 0), (6, 0)],
      (match rangeCheck (atSpan 0 0 64) f.1 f.2 0x200000 64 with | .ok (1, _) => true | _ => false) = true) ∧
    rangeUndecl (atSpan 0 0 64) 1 0x200000 = none ∧ (atSpan 0 0 64).tile.upd = [] ∧
    (match rangeCheck (atLocal 0 64) 6 0 (localVa.toNat) 64 with | .error _ => true | _ => false) = true ∧
    (after (.wbR 0 6 7) (atSpan 0 0 64)).ctx.wait = .range 1 0 0x200000 0x20003F (dataSpan 0) ∧
    (after (.pfr 0 6 7) (atLocal 0 64)).ctx.pc = 0x100004 := by
  unfold Issues; decide +kernel

/-- A context that waits in a range operation. -/
def ranging (fn lv : Nat) : State := base.onCtx (fun c => { c with wait := .range fn lv 0x200000 0x20003F (dataSpan 0) })

theorem witness_RangeOperationsComplete :
    ∀ f ∈ [(1, 0), (2, 1), (3, 1), (4, 0)],
      ((ranging f.1 f.2).as 0 0).ctx.wait = .range f.1 f.2 0x200000 0x20003F (dataSpan 0) ∧
      rangeReady ((ranging f.1 f.2).as 0 0) f.1 0 0x200000 0x20003F = true := by decide +kernel

/-- With the one line of the range dirty at its home slice and its page present. -/
def rangingDirty (fn : Nat) : State := withLines (pageIn false (ranging fn 1)) [{ spanLine with dirty := true }]

theorem witness_RangeOperationsComplete_writeBack :
    ∀ fn ∈ [1, 3],
      (rangingDirty fn).l2.filter (rangeLine ((rangingDirty fn).as 0 0) (rangingDirty fn).tile 0 0x200000 0x20003F (dataSpan 0)) =
        [{ spanLine with dirty := true }] ∧
      (translate ((rangingDirty fn).as 0 0) 0 0x200000 1 none).1 = .at (.hbm 0x200000) false ∧
      (after (.rangeOperationComplete 0 0) (rangingDirty fn)).readLoc (.hbm 0x200000) 64 = Line.bytes spanLine.data 0 64 ∧
      (after (.rangeOperationComplete 0 0) (rangingDirty fn)).l2 = (if fn = 1 then [spanLine] else []) := by
  decide +kernel

theorem witness_FetchbDiscardsFetchedWords :
    Issues .fetchb (base.onCtx (fun c => { c with fetched := [(0x100004, 1)] })) ∧
    (after .fetchb (base.onCtx (fun c => { c with fetched := [(0x100004, 1)] }))).ctx.fetched = [] := by
  unfold Issues; decide +kernel

/-- A faulted entry of context 0. -/
def badEntry : SbEntry := { pendEntry with st := .faulted 0x10 }

theorem witness_StoreBufferInstructions :
    (∀ i ∈ ([.sbdrop 6, .sbreplay 6, .sbstat 9 6 1] : List Instr), Issues i (withX (withSb base [badEntry]) 6 1)) ∧
    (after (.sbdrop 6) (withX (withSb base [badEntry]) 6 1)).tile.sb = [] ∧
    (after (.sbdrop 6) (withX (withSb base [badEntry]) 6 2)).tile.sb = [badEntry] := by
  unfold Issues; decide +kernel

/-- What sbreplay makes of a faulted entry: pending again, faulted afresh where no span covers it, faulted with TAINTSINK, and
faulted with the cause of an earlier entry of its line. -/
theorem witness_StoreBufferInstructions_sbreplay :
    (∀ s ∈ [withX (withSb base [badEntry]) 6 1, withX (withSb (withSpan base 0) [badEntry]) 6 1,
        withX (withSb (withSpan base sinkBit) [{ badEntry with taint := true }]) 6 1,
        withX (withSb (withSpan base 0) [{ badEntry with st := .faulted 0x22 }, { badEntry with idx := 1 }]) 6 2], Issues (.sbreplay 6) s) ∧
    (after (.sbreplay 6) (withX (withSb (withSpan base 0) [badEntry]) 6 1)).tile.sb.map SbEntry.st = [.pending] ∧
    (after (.sbreplay 6) (withX (withSb (withSpan base sinkBit) [{ badEntry with taint := true }]) 6 1)).tile.sb.map SbEntry.st =
      [.faulted 0x21] ∧
    (after (.sbreplay 6) (withX (withSb (withSpan base 0) [{ badEntry with st := .faulted 0x22 }, { badEntry with idx := 1 }]) 6 2)).tile.sb.map
      SbEntry.st = [.faulted 0x22, .faulted 0x22] := by
  unfold Issues; decide +kernel

theorem witness_AtomicsOnLocalStore :
    AmoForm (.amoDAdd 5 6 7 1 0) 2 8 5 6 7 1 0 ∧ AmoForm (.amoWCas 0 6 7 0 0) 10 4 0 6 7 0 0 ∧
    (∀ i ∈ ([.amoDAdd 5 6 7 1 0, .amoWCas 0 6 7 0 0] : List Instr), Issues i (atLocal 0x3FFF8 1)) ∧ TileCanonical (atLocal 0x3FFF8 1).tile ∧
    (atLocal 0x3FFF8 1).ctx.wins = [] ∧ locOf (atLocal 0x3FFF8 1) .atomic (localVa + 0x3FFF8) 8 = some 0x3FFF8 ∧
    (atLocal 0x3FFF8 1).tile.poisoned 0x3FFF8 8 = false ∧
    Memory.get (after (.amoDAdd 5 6 7 1 0) (atLocal 0x3FFF8 0x1FF)).tile.main 0x3FFF9 = 1 ∧
    (after (.amoDAdd 5 6 7 1 0) (atLocal 0x3FFF8 0x1FF)).ctx.readX 5 = (0, true) :=
  ⟨by unfold AmoForm; decide, by unfold AmoForm; decide, by unfold Issues; decide +kernel, by unfold TileCanonical; decide +kernel, by decide +kernel,
    by decide +kernel, by decide +kernel, by decide +kernel, by decide +kernel⟩

theorem witness_AtomicsThroughSpans :
    AmoForm (.amoWMax 5 6 7 0 1) 7 4 5 6 7 0 1 ∧ Issues (.amoWMax 5 6 7 0 1) (atSpan 0 4092 1) ∧
    (match checkDecl (atSpan 0 4092 1) .atomic 0x200FFC 4 with | .ok (.span 1 p) => !p.sink | _ => false) = true ∧
    (atSpan 0 4092 1).tile.upd = [] ∧ (after (.amoWMax 5 6 7 0 1) (atSpan 0 4092 1)).ctx.wait = .atomic 0 none :=
  ⟨by unfold AmoForm; decide, by unfold Issues; decide +kernel, by decide +kernel, by decide +kernel, by decide +kernel⟩

/-- A context that waits for an atomic, its request answered as given. -/
def awaiting (st : ReqState) : State :=
  { base.onCtx (fun c => { c with wait := .atomic 0 none }) with
    nextReq := 1
    reqs := [{ id := 0, tile := 0, ctx := 0, gen := 0, asid := 0, va := 0x200000, size := 4, home := 0, dom := none, domIdx := 0
               chk := false, nc := false, pc := 0x100000, step := 0, seq := 0, kind := .atomic 2 false 1 0 false 5 0 1, st }] }

theorem witness_HomeSlicesServeAtomics :
    let s := withLines (awaiting .sent) [{ spanLine with data := 0x3800000080 }]
    (s.as 0 0).ctx.wait = .atomic 0 none ∧ (∀ r ∈ s.reqs, readsPoison { spanLine with data := 0x3800000080 } (r.va.toNat % 64) 4 = false ∧
      r.va.toNat % 4 = 0 ∧ r.id = 0) ∧
    (∀ r ∈ s.reqs, r.dom = none ∧ s.reqAt r.id = some r ∧ r.st = .sent ∧ pushAhead s r = false ∧ loadAhead s r = false ∧
      storeAhead s r = false ∧ s.l2At r.home r.asid r.line = some { spanLine with data := 0x3800000080 }) ∧ s.ofu = [] ∧
    (after (.atomicComplete 0 0) s).l2.map (fun l => (l.data, l.taint, l.dirty)) = [(0x3800000081, 0, true)] ∧
    (after (.atomicComplete 0 0) s).reqs.map Req.st = [.done 0x80 true] := by
  decide +kernel

theorem witness_AtomicCompletes :
    (∀ st ∈ ([.done 7 true, .failed { code := 0x22 }] : List ReqState),
      Acts ((awaiting st).as 0 0) ∧ ((awaiting st).as 0 0).ctx.wait = .atomic 0 none ∧ (awaiting st).reqAt 0 = (awaiting st).reqs.head? ∧
      ((awaiting st).as 0 0).ctx.wins = [] ∧ (awaiting st).reqs.map Req.st = [st]) ∧
    (after (.atomicComplete 0 0) (awaiting (.done 7 true))).ctx.readX 5 = (7, true) ∧
    (after (.atomicComplete 0 0) (awaiting (.done 7 true))).ctx.pc = 0x100004 := by
  unfold Acts; decide +kernel

theorem witness_UpdatesOnLocalStore :
    (∀ i ∈ ([.updAdd 1 6 7, .updAnd 0 6 7, .updOr 0 6 7, .updXor 0 6 7, .updMin 0 6 7, .updMax 1 6 7, .updFadd 6 7, .updFmin 6 7,
      .updFmax 6 7] : List Instr), Issues i (atLocal 0x3FFF8 5)) ∧
    locOf (atLocal 0x3FFF8 5) .upd (localVa + 0x3FFF8) 8 = some 0x3FFF8 ∧
    locOf (atLocal 0x3FFF8 5) .upd (localVa + 0x3FFF8) 4 = some 0x3FFF8 ∧
    Memory.get (after (.updAdd 1 6 7) (atLocal 0x3FFF8 5)).tile.main 0x3FFF8 = 5 := by
  unfold Issues; decide +kernel

/-- An update-only line of the data span with one word. -/
def heldLine : UpdLine :=
  { asid := 0, line := 0x8000, home := 0, dom := 0, hash := false, fn := 1, wide := false, valid := 1, vals := List.replicate 16 5, taint := 0 }

theorem witness_UpdatesAreHeldAndFlushed :
    (∀ i ∈ ([.updAdd 0 6 7, .updAnd 0 6 7, .updOr 0 6 7, .updXor 0 6 7, .updMin 0 6 7, .updMax 0 6 7, .updFadd 6 7, .updFmin 6 7,
      .updFmax 6 7] : List Instr), Issues i (atSpan 0 60 5)) ∧
    (match checkDecl (atSpan 0 60 5) .upd 0x20003C 4 with | .ok (.span 1 p) => !p.sink && !p.nc && !p.chk | _ => false) = true ∧
    (atSpan 0 60 5).forme.ofuMode = false ∧ (atSpan 0 60 5).uncachedPage 0 0x20003C = false ∧
    (pageIn true (atSpan 0 60 5)).uncachedPage 0 0x20003C = true ∧ Issues (.updAdd 0 6 7) (pageIn true (atSpan 0 60 5)) ∧
    (after (.updAdd 0 6 7) (pageIn true (atSpan 0 60 5))).pushes.map (fun q => (q.upd.fn, q.upd.valid)) = [(1, 0x8000)] ∧ (atSpan 0 60 5).tile.upd = [] ∧
    Issues .updFlush base ∧ base.tile.upd = [] ∧ base.pushes.all (fun u => u.tile != base.actor.tile) = true ∧
    Issues .updFlush (base.onTile (fun t => { t with upd := [heldLine] })) ∧
    (after (.updAdd 0 6 7) (atSpan 0 60 5)).tile.upd.map UpdLine.valid = [0x8000] ∧
    (after .updFlush (base.onTile (fun t => { t with upd := [heldLine] }))).pushes.map Push.upd = [heldLine] := by
  unfold Issues; decide +kernel

/-! ### Fences, timelines, taint, messages -/

/-- The context has announced an SC operation. -/
def announced (resolved : Bool) : State := { base with sc := [{ id := 0, window := 0, tile := 0, ctx := 0, va := none, resolved }] }

theorem witness_FencesOrder :
    (∀ i ∈ ([.fence 0 0, .fence 4 1, .fence 2 2, .fence 3 3, .fence 4 3] : List Instr), Issues i base) ∧
    commitCheck base = .go ∧ base.ctx.wins = [] ∧ base.tile.upd = [] ∧ base.writesAcked = true ∧ base.ownSc = none ∧
    Issues (.fence 3 1) (withSb base [pendEntry]) ∧ pendEntry.st = .pending ∧
    (∀ b : Bool, Issues (.fence 4 3) (announced b) ∧ commitCheck (announced b) = .go ∧
      ((announced b).sc.find? (fun o => o.tile == (announced b).actor.tile && o.ctx == (announced b).actor.ctx)).map ScOp.resolved = some b) ∧
    (after (.fence 3 1) base).ctx.pc = 0x100004 ∧ (after (.fence 4 3) base).sc.length = 1 ∧
    (after (.fence 3 1) (withSb base [pendEntry])).ctx.stall = some .commit := by
  unfold Issues; decide +kernel

/-- Engine context 0 of engine 5, which belongs to the forme and has completed three commands. -/
def engOf (forme : Nat) : EngCtx :=
  { eng := 5, ctx := 0, forme, queue := [], enq := 3, tl := 3, finished := [], ahead := [], nodes := Vector.replicate 16 {}, fired := [],
    faults := [], frozen := false }

def withEng (s : State) : State := { s with engs := [engOf 0] }

theorem witness_TimelinesAreReadAndAwaited :
    (∀ s ∈ [withEng base, withX (withEng base) 6 0x4000, withX (withEng base) 6 0x8028], Issues (.tlwait 5 6 7 2) s ∧ Issues (.tlrd 5 6) s) ∧
    ((withEng base).timeline 0).isSome = true ∧ ((withEng base).timeline 0x4000).isSome = true ∧ ((withEng base).timeline 0x8028).isSome = true ∧
    Issues (.tlwait 5 6 7 15) (withX base 6 0x8028) ∧ (withX base 6 0x8028).timeline 0x8028 = none ∧
    (after (.tlrd 5 6) (withX (withEng base) 6 0x8028)).ctx.wait = .tlrd 3 5 ∧
    (after (.tlrdReply 0 0) (base.onCtx (fun c => { c with wait := .tlrd 3 5 }))).ctx.readX 5 = (3, true) ∧
    Acts ((base.onCtx (fun c => { c with wait := .tlrd 3 5 })).as 0 0) ∧
    (after (.tlwait 5 6 7 2) base).ctx.wins.map (fun w => (w.kind, w.st, w.rem)) = [(.tlwait, .waiting, 2)] := by
  unfold Issues Acts; decide +kernel

theorem witness_TaintIsRead :
    (∀ i ∈ ([.tntRd 5 0 0, .tntRd 5 0 1] : List Instr), Issues i (taintX base 9)) ∧ (taintX base 9).ctx.wins = [] ∧
    (after (.tntRd 5 0 0) (taintX base 9)).ctx.readX 5 = (0x200, false) ∧
    Issues (.tntRd 5 6 2) (atLocal 0 0) ∧ (match checkAccess (atLocal 0 0) .read localVa 1 with | .ok (.loc 0) => true | _ => false) = true ∧
    Issues (.tntRd 5 6 2) (atSpan 0 0 0) ∧ (match checkAccess (atSpan 0 0 0) .read 0x200000 1 with | .ok (.span 1 _) => true | _ => false) = true ∧
    (after (.tntRd 5 6 2) (atSpan 0 0 0)).ctx.wait = .taintRead 0 5 := by
  unfold Issues; decide +kernel

/-- A context whose taint-line read has been answered. -/
def tainting : State :=
  { base.onCtx (fun c => { c with wait := .taintRead 0 5 }) with
    reqs := [{ id := 0, tile := 0, ctx := 0, gen := 0, asid := 0, va := 0x200000, size := 8, home := 0, dom := none, domIdx := 0
               chk := false, nc := false, pc := 0x100000, step := 0, seq := 0, kind := .taintRead 5, st := .done 0x81 false }] }

theorem witness_TaintIsRead_reply :
    Acts (tainting.as 0 0) ∧ (tainting.as 0 0).ctx.wait = .taintRead 0 5 ∧ (tainting.reqAt 0).map Req.st = some (.done 0x81 false) ∧
    (tainting.as 0 0).ctx.wins = [] ∧ (after (.taintLineReadReply 0 0) tainting).ctx.readX 5 = (0x81, false) := by
  unfold Acts; decide +kernel

theorem witness_TaintIsSetClearedAndChecked :
    (∀ i ∈ ([.tntSet 6 0, .tntSet 6 1, .tntChk 6 0] : List Instr), Issues i (withX base 6 0x280)) ∧
    (∀ i ∈ ([.tntClr 6 0, .tntClr 6 1] : List Instr), Issues i (priv (withX base 6 0x280))) ∧
    (withX base 6 0x280).taintMap 0 &&& 0x280 = 0 ∧ Issues (.tntChk 6 0) (taintX (withX base 6 0x280) 9) ∧
    (taintX (withX base 6 0x280) 9).taintMap 0 &&& 0x280 ≠ 0 ∧
    gate base = .go ∧ base.ctx.stat stPM = false ∧ base.ctx.stat stTCLRU = false ∧
    (after (.tntSet 6 0) (withX base 6 0x281)).ctx.taint.x = 0x280 := by
  unfold Issues; decide +kernel

/-- A packet of the tile to itself. -/
def pkt (kind : PktKind) : Packet :=
  { src := 0, srcLog := 0, srcCtx := 0, srcGen := 0, dst := 0, taint := false, step := 0, kind, byteTaint := [] }

/-- Register 6 holds a descriptor and register 7 an address of main store; n packets stand in the injection queue. -/
def sending (d : Word) (n : Nat) : State :=
  (withX (withX base 6 d) 7 localVa).onTile (fun t => { t with injq := List.replicate n (pkt (.intr 0 0 0)) })

theorem witness_MessagesAreInjected :
    (∀ n ∈ [0, 8], Issues (.send 6 7) (sending 0x0F001000 n) ∧ Word.field (0x0F001000 : Word) 0 12 < (sending 0x0F001000 n).forme.count ∧
      bodyOk (sending 0x0F001000 n).forme localVa 256 = true ∧ undeclFault (sending 0x0F001000 n) (.loc 0) localVa 256 false = none ∧
      (sending 0x0F001000 n).tile.poisoned 0 256 = false ∧ (sending 0x0F001000 n).tile.injq.length = n) ∧
    Issues (.sendw 6 7) (sending 0x0003FF0001000000 0) ∧ Word.field (0x0003FF0001000000 : Word) 20 5 = 16 ∧
    Word.field (0x0003FF0001000000 : Word) 32 19 + 16 * 16 ≤ (sending 0 0).forme.mainSize ∧
    Issues (.dep 6 7) (sending 0 0) ∧ (sending 0 0).holding (sending 0 0).tile = false ∧
    (after (.send 6 7) (sending 0x0F001000 8)).ctx.stall = some .msg ∧ (after (.send 6 7) (sending 0x0F001000 0)).net.length = 1 ∧
    (after (.sendw 6 7) (sending 0x0003FF0001000000 0)).net.length = 1 ∧ (after (.dep 6 7) (sending 0 0)).net.length = 1 := by
  unfold Issues; decide +kernel

/-- Galley 2 of the tile, of 4 KiB at offset 0, owned by context 0, with HEAD and TAIL. -/
def galleyed (head tail : Nat) : State :=
  base.onTile (fun t => { t with gal := vset t.gal 2 { cfg := 0x80C0000000000000, ptr := BitVec.ofNat 64 (tail * 2 ^ 32 + head) } })

theorem witness_GalleysAreReceived :
    (∀ i ∈ ([.recv 7 2, .rpoll 7 2, .radv 2] : List Instr), Issues i base ∧ Issues i (galleyed 0 0) ∧ Issues i (galleyed 4080 4096)) ∧
    galEnabled base.forme (base.tile.galley 2).cfg = false ∧ galEnabled (galleyed 0 0).forme ((galleyed 0 0).tile.galley 2).cfg = true ∧
    galOWNER ((galleyed 0 0).tile.galley 2).cfg = 0 ∧ (galleyed 4080 4096).tile.headPad 2 = false ∧ (galleyed 4080 4096).tile.headPoison 2 = false ∧
    galHEAD ((galleyed 4080 4096).tile.galley 2).ptr ≠ galTAIL ((galleyed 4080 4096).tile.galley 2).ptr ∧
    (after (.recv 7 2) (galleyed 4080 4096)).ctx.readX 7 = (localVa + 4080, true) ∧
    (after (.recv 7 2) (galleyed 0 0)).ctx.wait = .recv 2 7 ∧ (after (.rpoll 7 2) (galleyed 0 0)).ctx.readX 7 = (0, true) ∧
    Acts (((galleyed 4080 4096).onCtx (fun c => { c with wait := .recv 2 7 })).as 0 0) ∧
    (after (.recvWake 0 0) ((galleyed 4080 4096).onCtx (fun c => { c with wait := .recv 2 7 }))).ctx.readX 7 = (localVa + 4080, true) := by
  unfold Issues Acts; decide +kernel


/-- A tlwait window on the engine timeline of `engOf`, for a threshold, with rem instructions left; faults stand in the context. -/
def awaitTl (thr : Word) (rem : Nat) (fs : List CmdFault) : State :=
  let s := withL1 base [dataLine]
  { s.onCtx (fun c => { c with
      nextWin := 1
      wins := [{ id := 0, ipc := 0x100000, step := 0, rem, dst := 5, vec := false, n := 0, kind := .tlwait, st := .waiting
                 addr := thr, aux := 0x8028, tnt := false }] }) with
    engs := [{ engOf 0 with faults := fs }] }

/-- A fault of command 2, not yet reported. -/
def cmdFault : CmdFault := { num := 2, tile := 0, ctx := 0, gen := 0, exc := { code := 0x80, sub := 3 } }

theorem witness_TimelinesAreReadAndAwaited_landing :
    (∀ s ∈ [awaitTl 4 1 [], awaitTl 3 1 [], awaitTl 3 0 [], awaitTl 3 1 [cmdFault]], Acts (s.as 0 0) ∧
      (s.as 0 0).ctx.wins.map (fun w => (w.kind, w.st, w.written)) = [(.tlwait, .waiting, 0)] ∧
      (s.as 0 0).timeline 0x8028 = some (3, (s.engs.flatMap EngCtx.faults)) ∧
      (s.as 0 0).tlFaults 0x8028 (s.engs.flatMap EngCtx.faults) = s.engs.flatMap EngCtx.faults ∧ (s.tileD 0).frozen = false) ∧
    after (.longLatencyLanding 0 0 0) (awaitTl 4 1 []) = awaitTl 4 1 [] ∧
    (after (.longLatencyLanding 0 0 0) (awaitTl 3 1 [])).ctx.wins.map Window.st = [.landed 3 true] ∧
    (after (.longLatencyLanding 0 0 0) (awaitTl 3 1 [])).tile.l1d = [] ∧
    (after (.longLatencyLanding 0 0 0) (awaitTl 3 0 [])).ctx.readX 5 = (3, true) ∧
    (after (.longLatencyLanding 0 0 0) (awaitTl 3 1 [cmdFault])).ctx.wins.map Window.st = [.failed cmdFault.exc] := by
  unfold Acts; decide +kernel
/-! ### Ticks, barriers, tasks, arrivals -/

/-- Die 0 at tick l and package-aligned time p. -/
def atTime (s : State) (l p : Word) : State := s.modDie 0 (fun d => { d with l, p })

theorem witness_TicksAndAlignment :
    (∀ i ∈ ([.tkrd 5 0, .tkrd 5 1, .tkrd 5 2, .tkal 5 6] : List Instr), Issues i (atTime base 50 24)) ∧ commitCheck (atTime base 50 24) = .go ∧
    ((atTime base 50 24).ctx.readX 6).1.toNat + 24 ≤ ((atTime base 50 24).die (physDie 0)).p.toNat ∧
    ((atTime base 50 23).die (physDie 0)).p.toNat < ((atTime base 50 23).ctx.readX 6).1.toNat + 24 ∧
    (after (.tkrd 5 0) (atTime base 50 24)).ctx.readX 5 = (50, true) ∧ (after (.tkal 5 6) (atTime base 50 24)).ctx.readX 5 = (0, true) ∧
    (after (.tkal 5 6) (atTime base 50 23)).ctx.wait = .tkal 0 50 5 none ∧
    Acts (((atTime base 57 24).onCtx (fun c => { c with wait := .tkal 0 50 5 none })).as 0 0) ∧
    (after (.tkalRelease 0 0) ((atTime base 57 24).onCtx (fun c => { c with wait := .tkal 0 50 5 none }))).ctx.readX 5 = (7, true) := by
  unfold Issues Acts; decide +kernel

/-- The context runs routine 0, launched by an entry or not. -/
def inRoutine (s : State) (entry : Option Nat) : State := s.onCtx (fun c => { c with running := some { routine := 0, entry } })

/-- The tile belongs to block 0, and context 0 to its group barrier. -/
def inBlock (s : State) : State := s.onTile (fun t => { t with block := some 0, gsMask := 1 })

theorem witness_BarriersAreJoined :
    Issues .sync base ∧ base.ctx.running = none ∧ commitCheck base = .go ∧ base.ctx.wins = [] ∧ base.tile.upd = [] ∧ base.writesAcked = true ∧
    Issues .sync (inRoutine base none) ∧ (inRoutine base none).ctx.running.isSome = true ∧ Issues .gsync (inBlock base) ∧
    (inBlock base).tile.block.isSome = true ∧ (inBlock base).tile.gsMask.getLsbD 0 = true ∧ Issues .gsync base ∧ base.tile.block = none ∧
    (after .sync base).ctx.wait = .sync ∧ (after .sync base).tile.synced = 1 ∧ (after .gsync (inBlock base)).tile.gsynced = 1 := by
  unfold Issues; decide +kernel

/-- The forme's image has one routine, and entry 31 of the tile's table is as given. -/
def tasked (e : TaskE) : State :=
  ((base.modForme 0 (fun f => { f with img := { f.img with routines := [{ entry := 0x100000, rd := [], wr := [], rs := [], ws := [], ports := [] }] } })).onTile
    (fun t => { t with tasks := vset t.tasks 31 e }))

theorem witness_TaskEntriesAreArmedAndRaised :
    (∀ s ∈ [withX (tasked { arm := true }) 6 31, withX (tasked {}) 6 31, withX (withX (tasked {}) 6 0x3F) 7 1,
      withX (withX (tasked { cnt := 65534 }) 6 31) 7 65535, withX (withX (tasked { cnt := 65535 }) 6 31) 7 65535],
      Issues (.tpost 6 7) s ∧ (∀ k < 32, k ≠ 31 → (vget s.tile.tasks k {}).due = false) ∧ s.forme.phase = .compute ∧ s.forme.stopping = false) ∧
    (∀ s ∈ [withX (withX (tasked {}) 6 31) 7 65535, withX (withX (tasked { arm := true, thr := 7, cnt := 5 }) 6 31) 7 2,
      withX (withX (tasked { cnt := 1 }) 6 31) 7 65535], Issues (.tinc 6 7) s ∧ s.tile.upd = [] ∧ s.ownSettled = true ∧
      (∀ k < 32, k ≠ 31 → (vget s.tile.tasks k {}).due = false) ∧ (s.formeAt s.tile.forme).map Forme.fault = some none) ∧
    ((after (.tinc 6 7) (withX (withX (tasked { cnt := 1 }) 6 31) 7 65535)).forme.fault.map (fun e => (e.code, e.sub, e.info1))) =
      some (0x42, 9, 31) ∧
    (tasked {}).forme.img.routines.length ≤ Word.field (0x3F : Word) 5 6 ∧
    (after (.tpost 6 7) (withX (withX (tasked { cnt := 65535 }) 6 31) 7 65535)).tile.ready = [{ routine := 0, entry := some 31 }] ∧
    (after (.tpost 6 7) (withX (withX (tasked { cnt := 65534 }) 6 31) 7 65535)).tile.ready = [] ∧
    (after (.tinc 6 7) (withX (withX (tasked { arm := true, thr := 7, cnt := 5 }) 6 31) 7 2)).tile.ready = [{ routine := 0, entry := some 31 }] := by
  unfold Issues; decide +kernel

/-- A launch of routine 0 stands in the ready queue, and context 3 is a free dispatch context. -/
def readied : State := (tasked {}).onTile (fun t => { t with dispMask := 8, ready := [{ routine := 0, entry := none }] })

theorem witness_RoutinesStartAndEnd :
    Issues .rdone base ∧ base.ctx.running = none ∧ Issues .rdone (inRoutine (tasked {}) none) ∧
    (inRoutine (tasked {}) none).ctx.running = some { routine := 0, entry := none } ∧ commitCheck (inRoutine (tasked {}) none) = .go ∧
    (inRoutine (tasked {}) none).tile.upd = [] ∧ (inRoutine (tasked {}) none).ownSettled = true ∧
    (∀ k < 32, (vget (inRoutine (tasked {}) none).tile.tasks k {}).due = false) ∧
    (after .rdone (inRoutine (tasked {}) none)).ctx.st = .noThread ∧
    (readied.formeOf readied.tile).phase = .compute ∧ readied.tile.frozen = false ∧ readied.tile.ready.head? = some { routine := 0, entry := none } ∧
    readied.startable readied.tile 0 = true ∧ readied.tile.freeDispatch = some 3 ∧
    ((readied.formeOf readied.tile).img.routines[(0 : Nat)]?).isSome = true ∧
    ((after (.routineStart 0) readied).tile.ctxs[(3 : Fin 4)]).pc = 0x100000 := by
  unfold Issues; decide +kernel

/-- A packet is the only one in the network. -/
def netted (s : State) (k : PktKind) : State := { s with net := [pkt k] }

theorem witness_RemoteStoresLand :
    (netted base (.remoteStore 0xFFFC [1, 2, 3, 4] 0 0)).inOrder 0 (pkt (.remoteStore 0xFFFC [1, 2, 3, 4] 0 0)) = true ∧
    TileCanonical ((netted base (.remoteStore 0xFFFC [1, 2, 3, 4] 0 0)).tileD 0) ∧
    base.tile.shadowRace 0xFFFC 4 0 (base.phaseOf 0) = none ∧
    ((base.onTile (fun t => { t with shadow := [{ word := 0x3FFF, writer := 5, phase := 0 }] })).tile).shadowRace 0xFFFC 4 0 (base.phaseOf 0) = some 5 ∧
    Memory.get (after (.remoteStoreLand 0) (netted base (.remoteStore 0xFFFC [1, 2, 3, 4] 0 0))).tile.shadowBank 0xFFFF = 4 ∧
    (after (.remoteStoreLand 0) (netted base (.remoteStore 0xFFFC [1, 2, 3, 4] 0 0))).acks.map Ack.fault = [none] := by
  unfold TileCanonical; decide +kernel

/-- A send of one 16-byte unit to galley 2. -/
def sendKind (gen : Nat) : PktKind := .send 2 gen 1 7 0 (List.replicate 16 9) 0 0x100000

theorem witness_SendsArrive :
    (∀ s ∈ [galleyed 0 0, galleyed 0 4064, galleyed 0 4096, base], (netted s (sendKind 0)).inOrder 0 (pkt (sendKind 0)) = true ∧ TileCanonical s.tile) ∧
    galEnabled (galleyed 0 0).forme ((galleyed 0 0).tile.galley 2).cfg = true ∧ ((galleyed 0 0).tile.ctxs[(0 : Fin 4)]).gen.toNat = 0 ∧
    galFits ((galleyed 0 4064).tile.galley 2).cfg ((galleyed 0 4064).tile.galley 2).ptr 1 = true ∧
    galTAIL ((galleyed 0 4064).tile.galley 2).ptr % 2 ^ galSIZE ((galleyed 0 4064).tile.galley 2).cfg + 16 * (1 + 1) ≤
      2 ^ galSIZE ((galleyed 0 4064).tile.galley 2).cfg ∧
    galFits ((galleyed 0 4096).tile.galley 2).cfg ((galleyed 0 4096).tile.galley 2).ptr 1 = false ∧
    galEnabled base.forme (base.tile.galley 2).cfg = false ∧
    Memory.get (after (.sendArrive 0) (netted (galleyed 0 0) (sendKind 0))).tile.main 16 = 9 ∧
    galTAIL ((after (.sendArrive 0) (netted (galleyed 0 0) (sendKind 0))).tile.galley 2).ptr = 32 ∧
    (after (.sendArrive 0) (netted (galleyed 0 4096) (sendKind 0))).acks.map (fun a => a.fault.map Exc.code) = [some 0x41] := by
  unfold TileCanonical; decide +kernel

theorem witness_OtherMessagesArrive :
    (netted base (.sendw 0x3FFF0 15 31 (List.replicate 16 3))).inOrder 0 (pkt (.sendw 0x3FFF0 15 31 (List.replicate 16 3))) = true ∧
    TileCanonical base.tile ∧ (vget base.tile.tasks 31 {}).arm = false ∧ (∀ m < 32, (vget base.tile.tasks m {}).due = false) ∧
    (netted base (.dep 0 3 0 0 5 0)).inOrder 0 (pkt (.dep 0 3 0 0 5 0)) = true ∧ base.savedCtx base.tile = false ∧
    (netted base (.intr 0 15 0)).inOrder 0 (pkt (.intr 0 15 0)) = true ∧
    (vget (after (.sendwArrive 0) (netted base (.sendw 0x3FFF0 15 31 (List.replicate 16 3)))).tile.tasks 31 {}).cnt = 15 ∧
    (after (.depositArrive 0) (netted base (.dep 0 3 0 0 5 0))).ctx.mb[3] = 5 ∧
    (after (.interruptPacketArrive 0) (netted base (.intr 0 15 0))).ctx.intp = 0x8000 := by
  unfold TileCanonical; decide +kernel

/-- One acknowledgement is on its way to the tile, which waits for it. -/
def acked (fault : Option Exc) : State :=
  { base.onTile (fun t => { t with unacked := 1 }) with acks := [{ dst := 0, ctx := 0, gen := 0, xnum := none, fault }] }

theorem witness_AcknowledgementsReachTheirSender :
    (∀ f ∈ [none, some { code := 0x41 }], ((acked f).acks.map Ack.fault = [f] ∧ ((acked f).tileAt 0).isSome = true)) ∧
    (after (.msgAck 0) (acked none)).tile.unacked = 0 ∧
    (after (.msgAck 0) (acked (some { code := 0x41 }))).ctx.deferred = [{ code := 0x41 }] := by
  decide +kernel


/-- The forme stands stopped, its contexts saved. -/
def saved (s : State) : State := s.modForme 0 (fun f => { f with phase := .stopped, saved := true })

theorem witness_OtherMessagesArrive_saved :
    (saved base).savedCtx (saved base).tile = true ∧ (netted (saved base) (.dep 0 3 0 0 5 0)).inOrder 0 (pkt (.dep 0 3 0 0 5 0)) = true ∧
    (after (.depositArrive 0) (netted (saved base) (.dep 0 3 0 0 5 0))).acks.map Ack.fault = [none] ∧
    (after (.depositArrive 0) (netted (saved base) (.dep 0 3 0 0 5 0))).ctx.mb[3] = 0 ∧
    after (.interruptPacketArrive 0) (netted (saved base) (.intr 0 15 0)) = netted (saved base) (.intr 0 15 0) := by
  decide +kernel
/-! ### Vector instructions -/

/-- Elements 0 to 7 of v register r. -/
def withV (s : State) (r : Nat) (l : List Lane) : State :=
  s.onCtx (fun c => { c with v := vset c.v r (Vector.ofFn (fun (i : Fin 64) => l.getD i.val 0)) })

/-- Mask m1 selects the even elements. -/
def evens (s : State) : State := s.onCtx (fun c => { c with m := vset c.m 1 0x5555555555555555 })

theorem witness_LaneInstructions :
    (∀ op ∈ floatLaneOps 1 2 3 1 7 0 ++ intLaneOps 39 40 32 0 1 ++ plainLaneOps 0 31 31 7 7,
      Issues op.1 base ∧ (op.2.1 = none ∨ op.2.1 = some 3 ∨ op.2.1 = some 32 ∨ op.2.1 = some 31)) ∧
    base.ctx.wins = [] ∧ base.ctx.stat stPFXP = false ∧ Issues (.vsel 1 2 3 7 1) base ∧
    Issues (.vfadd 45 41 40 0 0) (withFlit base 0 { val := 1, taint := false }) ∧ base.ctx.vAct = false ∧
    vPorts [41, 40] (some 45) base.tile = false ∧ vPorts [41, 40] (some 45) (withFlit base 0 { val := 1, taint := false }).tile = true := by
  unfold Issues; decide +kernel

theorem test_vfadd_rounds :
    (after (.vfadd 1 2 3 0 0) (withV (withV base 2 [0x3F800000, 0x7F800000]) 3 [0x33800001, 0xFF800000])).ctx.v[1][0] = 0x3F800001 ∧
    (after (.vfadd 1 2 3 0 0) (withV (withV base 2 [0x3F800000, 0x7F800000]) 3 [0x33800001, 0xFF800000])).ctx.v[1][1] = 0x7FC00000 := by
  decide +kernel

theorem test_vfma_is_fused :
    (after (.vfma 1 2 3 0 0) (withV (withV (withV base 1 [0xBF800000]) 2 [0x3F800001]) 3 [0x3F7FFFFE])).ctx.v[1][0] = 0xA8800000 := by
  decide +kernel

theorem test_vmulh_signed : (after (.vmulh 1 2 3 0 0) (withV (withV base 2 [0xFFFFFFFF]) 3 [2])).ctx.v[1][0] = 0xFFFFFFFF := by decide +kernel
theorem test_vadd_masked : (after (.vadd 1 2 2 0 1) (evens (withV (withV base 1 [9, 9]) 2 [1, 1]))).ctx.v[1][0] = 2 ∧
    (after (.vadd 1 2 2 0 1) (evens (withV (withV base 1 [9, 9]) 2 [1, 1]))).ctx.v[1][1] = 9 := by decide +kernel
theorem test_vfsqrt_of_2 : (after (.vfsqrt 1 2 0 0) (withV base 2 [0x40000000])).ctx.v[1][0] = 0x3FB504F3 := by decide +kernel
theorem test_vfdiv_1_by_3 : (after (.vfdiv 1 2 3 0 0) (withV (withV base 2 [0x3F800000]) 3 [0x40400000])).ctx.v[1][0] = 0x3EAAAAAB := by
  decide +kernel

theorem witness_ComparisonsAndMasks :
    (∀ i ∈ ([.veq 7 40 32 0 0, .vlt 1 2 3 7 1, .vltn 1 2 3 7 0, .vle 1 2 3 7 0, .vfeq 1 2 3 7 0, .vflt 1 2 3 7 0, .vfle 1 2 3 7 0,
      .vfun 1 2 3 7 0, .mand 1 2 3 7 0, .mor 1 2 3 7 0, .mxor 1 2 3 7 0, .mnot 1 2 7 0, .mmovMm 7 0 7 0, .msetl 1 6 7 0, .mmovXm 1 6 7 0,
      .mpop 5 1 7 0, .mfirst 5 1 7 0, .mmovMx 31 1 0 0] : List Instr), Issues i base) ∧ base.ctx.wins = [] ∧ base.ctx.vAct = false ∧
    vget (after (.vlt 1 2 3 0 0) (withV base 2 [0xFFFFFFFF, 1])).ctx.m 1 0 = 1 ∧ (after (.mpop 5 1 7 0) (evens base)).ctx.x[5] = 32 ∧
    (after (.mfirst 5 1 7 0) base).ctx.x[5] = 64 := by
  unfold Issues; decide +kernel

theorem witness_ReductionsAndPermutations :
    (∀ i ∈ ([.vrsum 5 2 7 0, .vrmax 5 2 7 1, .vrmin 5 2 7 0, .vrand 5 2 7 0, .vror 5 40 7 0, .vfsum 31 2 7 0, .vfrmax 5 2 7 0, .vfrmin 5 2 7 0,
      .vslu 1 2 7 7 0, .vsld 1 2 7 7 0, .vperm 1 2 3 7 0, .vzip 1 2 3 7 0, .vunzip 1 2 3 7 0, .vsplat 39 6 0 0, .vins 1 6 7 7 0,
      .vext 5 2 7 7 0] : List Instr), Issues i base) ∧
    (after (.vrsum 5 2 0 0) (withV base 2 [0xFFFFFFFF, 3])).ctx.x[5] = 2 ∧ (after (.vfsum 5 2 0 0) (withV base 2 [0x3F800000, 0x40000000])).ctx.x[5] = 0x40400000 ∧
    (after (.vslu 1 2 7 0 0) (withX (withV base 2 [4, 5]) 7 1)).ctx.v[1][2] = 5 ∧ (after (.vext 5 2 7 0 0) (withX (withV base 2 [4, 5]) 7 1)).ctx.x[5] = 5 := by
  unfold Issues; decide +kernel

/-! ### Vector memory, prefixes and block formats -/

/-- Four windows with a vector destination are open. -/
def fullVec (s : State) : State :=
  s.onCtx (fun c => { c with
    nextWin := 4
    wins := (List.range 4).map (fun k => { id := k, ipc := 0, step := 0, rem := 9, dst := k, vec := true, n := 8, kind := .vld, st := .waiting
                                           addr := 0, aux := 0, tnt := false }) })

theorem witness_VectorLoads :
    (∀ i ∈ ([.vld 2 6 0 4 0 0, .vgather 2 6 7 4 0] : List Instr), Issues i (atLocal 0x3FFE0 0) ∧ Issues i (atSpan ncBit 0 0) ∧
      Issues i (fullVec (atLocal 0x3FFE0 0))) ∧
    (match checkElems (atLocal 0x3FFE0 0) .read ((List.range 8).map (fun e => localVa + 0x3FFE0 + BitVec.ofNat 64 (4 * e))) with
      | .ok l => l.length == 8 | .error _ => false) = true ∧
    (match checkElems (atSpan ncBit 0 0) .read ((List.range 8).map (fun e => 0x200000 + BitVec.ofNat 64 (4 * e))) with
      | .ok l => l.all (fun t => match t with | .span 1 p => p.nc | _ => false) | .error _ => false) = true ∧
    (atLocal 0 0).ctx.vecFull = false ∧ (fullVec (atLocal 0 0)).ctx.vecFull = true ∧ (atSpan ncBit 0 0).tile.upd = [] ∧
    Issues (.vld 2 6 0 4 7 0) (atLocal 2 0) ∧ (localVa + 2).toNat % 4 ≠ 0 ∧
    (after (.vld 2 6 0 4 0 0) (withMain (atLocal 0 0) [(4, 7)])).ctx.wins.map Window.st = [.boundV [0, 7, 0, 0, 0, 0, 0, 0] false] ∧
    (after (.vld 2 6 0 4 0 0) (atSpan ncBit 0 0)).reqs.length = 8 ∧ (after (.vld 2 6 0 4 0 0) (fullVec (atLocal 0 0))).ctx.stall = some .mem := by
  unfold Issues; decide +kernel

/-- A vector window whose lanes are known. -/
def vecLanding : State :=
  base.onCtx (fun c => { c with
    nextWin := 1
    wins := [{ id := 0, ipc := 0, step := 0, rem := 0, dst := 31, vec := true, n := 64, kind := .vld, st := .boundV (List.replicate 64 3) false
               addr := 0, aux := 0, tnt := false }] })

theorem witness_BoundLanesLandAndClose :
    (vecLanding.tileAt 0).isSome = true ∧ (List.replicate 64 (3 : Lane)).length = 64 ∧
    (after (.longLatencyLanding 0 0 0) vecLanding).ctx.v[31][63] = 3 ∧ (after (.longLatencyLanding 0 0 0) vecLanding).ctx.wins = [] := by
  decide +kernel

theorem witness_VectorStores :
    (∀ i ∈ ([.vst 5 6 0 0 1 0, .vscatter 39 6 7 0] : List Instr), Issues i (evens (atLocal 0 0)) ∧ Issues i (atSpan 0 0 0)) ∧
    (atLocal 0 0).ctx.vAct = false ∧ (atLocal 0 0).ctx.running = none ∧ (atLocal 0 0).tile.mqwin.getLsbD 63 = false ∧
    TileCanonical (atLocal 0 0).tile ∧
    (match checkElems (atSpan 0 0 0) .write ((List.range 8).map (fun e => 0x200000 + BitVec.ofNat 64 (4 * e))) with
      | .ok l => l.all (fun t => match t with | .span 1 p => !p.chk && !p.sink | _ => false) | .error _ => false) = true ∧
    (atSpan 0 0 0).tile.sb.length + 8 * (0 + 1) ≤ 32 ∧ (atSpan 0 0 0).tile.upd = [] ∧
    (∀ e < 8, ∀ k < 8, 4 * e = 4 * k → e = k) ∧
    Memory.get (after (.vst 5 6 0 0 0 0) (withV (atLocal 0 0) 5 [1, 2])).tile.main 4 = 2 ∧
    (after (.vst 5 6 0 0 0 0) (atSpan 0 0 0)).tile.sb.map SbEntry.mask = [0xFFFFFFFF] := by
  unfold Issues TileCanonical; decide +kernel

theorem witness_PrefixesAndBlockFormats :
    Issues (.pfx 4 1 0 1 0 0) base ∧ Issues (.pfx 15 15 15 15 3 1) base ∧ (base.tileAt base.actor.tile).isSome = true ∧
    (instrShape (.add 5 6 7)).isPfx = false ∧ base.ctx.stat stPFXP = false ∧ base.ctx.wins = [] ∧
    (∀ i ∈ ([.vscl 2 1 1 0, .vqnt 3 1 2 1 0, .vdqt 4 3 2 1 0, .vrotFwd 2 1 7 0, .vrotInv 2 1 0 0] : List Instr), Issues i base) ∧
    8 * (1 + 1) % blockLen base.ctx.qctl 0 1 = 0 ∧ (∀ j < 1, swTag (base.ctx.scaleAt 2 j) = 0 ∧ swBad (base.ctx.scaleAt 2 j) = false ∧
      swKtype (base.ctx.scaleAt 2 j) = 0) ∧
    (after (.pfx 4 1 0 1 0 0) base).ctx.stat stPFXP = true := by
  unfold Issues; decide +kernel


/-- Every line of an access to the data span is held by the tile: a copy, and the context's own store over two elements. -/
def cached : State := withSb (withL1 (atSpan 0 0 0) [{ dataLine with data := 0x900000080 }]) [pendEntry]

theorem witness_VectorLoads_cached :
    Issues (.vld 2 6 0 4 0 0) cached ∧ cached.ctx.vecFull = false ∧ cached.ctx.wins = [] ∧ cached.tile.upd = [] ∧
    (match checkElems cached .read ((List.range 8).map (fun e => 0x200000 + BitVec.ofNat 64 (4 * e))) with
      | .ok l => l.all (fun t => match t with | .span 1 p => !p.nc && !p.chk | _ => false) | .error _ => false) = true ∧
    pushOn cached 0 0 0x8000 = false ∧ cached.reqs = [] ∧
    sbCover cached.tile 0 0 0x200004 4 = some ([0x44, 0x33, 0x22, 0x11], false) ∧ sbCover cached.tile 0 0 0x200008 4 = none ∧
    l1Find cached cached.tile 0 0x200008 = some { dataLine with data := 0x900000080 } ∧
    (after (.vld 2 6 0 4 0 0) cached).ctx.wins.map Window.st = [.boundV [0x55667788, 0x11223344, 0, 0, 0, 0, 0, 0] false] := by
  unfold Issues; decide +kernel

/-- The request of element e of a vector load, answered as given. -/
def elemReq (e : Nat) (st : ReqState) : Req :=
  { id := e, tile := 0, ctx := 0, gen := 0, asid := 0, va := 0x200000 + BitVec.ofNat 64 (4 * e), size := 4, home := 0, dom := none, domIdx := 0
    chk := false, nc := false, pc := 0x100000, step := 0, seq := 0, kind := .vload 0 e, st }

/-- A vector load's window that waits, and its eight requests. -/
def vecLoading (st : Nat → ReqState) : State :=
  { base.onCtx (fun c => { c with
      nextWin := 1
      wins := [{ id := 0, ipc := 0, step := 0, rem := 1, dst := 31, vec := true, n := 8, kind := .vld, st := .waiting
                 addr := 0, aux := 0, tnt := false }] }) with
    nextReq := 8
    reqs := (List.range 8).map (fun e => elemReq e (st e)) }

theorem witness_AnsweredLanesLand :
    let all := vecLoading (fun e => .done (BitVec.ofNat 64 (e + 1)) false)
    let some := vecLoading (fun e => if e < 6 then .done 1 false else .failed { code := 0x22, info0 := BitVec.ofNat 64 e })
    (∀ s ∈ [all, some], (s.tileAt 0).isSome = true ∧ s.winReqs 0 0 0 = s.reqs ∧ s.reqs.length = 8 ∧ s.reqs.all Req.isDone = true ∧
      (s.tileD 0).ctxs[(0 : Fin 4)].wins.map (fun w => (w.st, w.vec, w.rem)) = [(.waiting, true, 1)]) ∧
    (after (.longLatencyLanding 0 0 0) all).ctx.wins.map Window.st = [.landedV [1, 2, 3, 4, 5, 6, 7, 8] false] ∧
    (after (.longLatencyLanding 0 0 0) all).reqs = [] ∧
    (after (.longLatencyLanding 0 0 0) some).ctx.wins.map Window.st = [.failed { code := 0x22, info0 := 6 }] := by
  decide +kernel

theorem witness_VectorStoresToTheRemoteRegion :
    Issues (.vst 5 6 0 0 0 0) twoTiles ∧ twoTiles.ctx.vAct = false ∧ twoTiles.tile.injq = [] ∧
    (match checkElems twoTiles .write ((List.range 8).map (fun e => 0x01FFFFFE00010008 + BitVec.ofNat 64 (4 * e))) with
      | .ok l => l == (List.range 8).map (fun e => Target.remote 1 (8 + 4 * e)) | .error _ => false) = true ∧
    (twoTiles.logicalTile twoTiles.tile.forme 1).map Tile.phys = some 1 ∧ twoTiles.holding twoTiles.tile = false ∧
    ((after (.vst 5 6 0 0 0 0) (withV twoTiles 5 [0x201])).net.map Packet.kind).head? = some (.remoteStore 8 [1, 2, 0, 0] 0 0x100000) ∧
    Issues (.vscatter 5 6 7 0) twoTiles ∧ isRemote 0x01FFFFFE00010008 = true ∧
    (after (.vscatter 5 6 7 0) (handled twoTiles)).ctx.stat stEXL = true := by
  unfold Issues; decide +kernel

/-- Tag 5 has a seed, of a rotation length of 32, and its prefix is pending with the given types. -/
def seeded (tag ta td : Nat) : State :=
  (base.modForme 0 (fun f => { f with img := { f.img with seeds := [(tag, 0xA5A5A5A5, false)] } })).onCtx (fun c =>
    ({ c with pfxpay := BitVec.ofNat 64 (td * 2 ^ 15 + ta * 2 ^ 11 + tag * 2 ^ 3) }).setStat stPFXP true)

theorem witness_BlockFormatsComplete :
    (∀ tag ∈ [0, 5, 15],
      (∀ td ∈ [0, 4, 5, 6], Issues (.vscl 2 1 7 0) (seeded tag 0 td) ∧ Issues (.vqnt 3 1 2 7 0) (seeded tag 0 td)) ∧
      (∀ ta ∈ [0, 4, 5, 6], Issues (.vdqt 4 3 2 7 0) (seeded tag ta 0)) ∧
      Issues (.vrotFwd 2 1 7 0) (seeded tag 0 0) ∧ Issues (.vrotInv 2 1 3 0) (seeded tag 0 0) ∧
      ((seeded tag 0 0).forme.seed tag).isSome = true ∧ payRTAG (seeded tag 6 6).ctx.pay = tag) := by
  unfold Issues; decide +kernel

theorem witness_BlockFormatsFault :
    Issues (.vscl 2 1 0 0) (seeded 5 0 0) ∧ 8 % blockLen (seeded 5 0 0).ctx.qctl 5 16 ≠ 0 ∧
    (base.onCtx (fun c => { c with pfxpay := 0x28 })).forme.seed 5 = none ∧
    Issues (.vrotFwd 2 1 7 0) (base.onCtx (fun c => ({ c with pfxpay := 0x28 }).setStat stPFXP true)) ∧
    Issues (.vqnt 3 1 2 7 0) (seeded 5 0 0) ∧ swTag ((seeded 5 0 0).ctx.scaleAt 2 0) ≠ 5 ∧
    (after (.vqnt 3 1 2 7 0) (handled (seeded 5 0 0))).ctx.stat stEXL = true ∧
    (after (.vscl 2 1 0 0) (handled (seeded 5 0 0))).ctx.stat stEXL = true ∧
    (after (.vrotFwd 2 1 7 0) (handled (base.onCtx (fun c => ({ c with pfxpay := 0x28 }).setStat stPFXP true)))).ctx.stat stEXL = true := by
  unfold Issues; decide +kernel
/-! ### The matrix unit and the copy engines -/

/-- n commands stand in the matrix queue. -/
def queued (s : State) (n : Nat) (c : MxCmd) : State := s.onTile (fun t => { t with mx := { t.mx with queue := List.replicate n c, enq := 7 } })

/-- A command of an operation on accumulator 3, of main store from offset 0 with a row stride of 64 bytes. -/
def cmd (opc ty : Nat) (mask : Word) : MxCmd :=
  { num := 7, word0 := base.mxWord0 opc 0 0 3 ty 0 0 0 0, addr := localVa, mask, stride := 64, scale := 0, pc := 0x100000, user := 0, tag0 := 0
    seedOk := true, taint := false, ctx := 0, step := 0 }

theorem witness_MatrixInstructionsEnqueue :
    MatrixForm (.mst 3 6 7) (atLocal 0 0x10001) 5 3 ((atLocal 0 0x10001).mxWord0 5 0 0 3 0 0 0 0 0) localVa 0x10001 0 0 ∧
    (∀ i ∈ ([.mldT 0 6 7, .mld 0 7 0, .mswap, .mmac 2 10 11, .mmacz 0 12 11, .mst 3 6 7, .mwr 3 6 7, .mzero 7 0, .mrd 4 2 5 3] : List Instr),
      Issues i (atLocal 0 0x10001)) ∧
    (atLocal 0 0x10001).ctx.vecFull = false ∧ (atLocal 0 0x10001).ctx.wins = [] ∧
    mxCheck (atLocal 0 0x10001) ((atLocal 0 0x10001).mxWord0 5 0 0 3 0 0 0 0 0) localVa 0x10001 0 0 = none ∧
    (mxCheck (atLocal 2 0x10001) ((atLocal 0 0x10001).mxWord0 5 0 0 3 0 0 0 0 0) (localVa + 2) 0x10001 0 0).map Exc.code = some 0x05 ∧
    (queued (atLocal 0 0x10001) 32 (cmd 5 0 0)).tile.mx.queue.length = 32 ∧ Issues (.mst 3 6 7) (queued (atLocal 0 0x10001) 32 (cmd 5 0 0)) ∧
    (after (.mst 3 6 7) (atLocal 0 0x10001)).tile.mx.queue.length = 1 ∧
    (after (.mst 3 6 7) (queued (atLocal 0 0x10001) 32 (cmd 5 0 0))).ctx.stall = some .engine ∧
    (after (.mrd 4 2 5 3) (atLocal 0 0x10001)).ctx.wins.map Window.kind = [.mrd 1] :=
  ⟨.inr (.inr (.inr (.inl ⟨3, 6, 7, .inl ⟨rfl, rfl⟩, rfl, by decide +kernel, by decide +kernel, rfl, by decide +kernel, rfl⟩))),
    by unfold Issues; decide +kernel⟩

theorem witness_AccumulatorCommandsRun :
    (∀ o ∈ [2, 5, 7, 8, 6], ((queued base 1 (cmd o 0 0x10001)).tileAt 0).isSome = true ∧ mxOpc (cmd o 0 0x10001).word0 = o ∧
      (queued base 1 (cmd o 0 0x10001)).tile.mxPoisoned ((queued base 1 (cmd o 0 0x10001)).cmdRanges 0 (cmd o 0 0x10001)) = false) ∧
    mxAcc (cmd 5 0 0).word0 = 3 ∧ TileCanonical (queued base 1 (cmd 5 0 0)).tile ∧
    accCells (cmd 5 0 0x10001).addr (strideOf (cmd 5 0 0x10001).stride) (cmd 5 0 0x10001).mask = [(0, localVa)] ∧
    (after (.mwrExec 0) (withMain (queued base 1 (cmd 7 0 0x10001)) [(0, 5)])).tile.mx.acc[3][0] = 5 ∧
    (after (.mzeroExec 0) (queued base 1 (cmd 8 0 0x10001))).tile.mx.tl = 7 := by
  unfold TileCanonical; decide +kernel

/-- The forme holds a token on die 0 and its tile bursts or not. -/
def bursting (s : State) (b : Bool) : State :=
  (s.modForme 0 (fun f => { f with tokens := [(0, 0)] })).onTile (fun t => { t with mx := { t.mx with bursting := b, idleTicks := 64 } })

theorem witness_MatrixCommandsRun_products :
    (∀ o ∈ [3, 4, 1], ((bursting (queued base 1 (cmd o 3 0x100010001)) true).tileAt 0).isSome = true ∧ mxOpc (cmd o 3 0x100010001).word0 = o ∧
      (bursting (queued base 1 (cmd o 3 0x100010001)) true).tile.mxPoisoned
        ((bursting (queued base 1 (cmd o 3 0x100010001)) true).cmdRanges 0 (cmd o 3 0x100010001)) = false ∧
      (bursting (queued base 1 (cmd o 3 0x100010001)) true).tokenWait (bursting (queued base 1 (cmd o 3 0x100010001)) true).tile = false) ∧
    (cmd 3 3 0).seedOk = true ∧ mxWidth (mxType (cmd 3 3 0).word0) = 16 ∧ mxWidth base.tile.mx.active.ty = 16 ∧ base.tile.mx.active.tag = 0 ∧
    mxRtag (cmd 3 3 0).word0 = 0 := by decide +kernel

theorem witness_TokensPassAndBurstsEnd :
    ((bursting base false).formes.map Forme.tokens = [[(0, 0)]]) ∧ ((bursting base false).die 0).throt = false ∧
    0 < ((bursting base false).formeClusters 0 0).length ∧ (bursting base false).clusterBursts 0 (((bursting base false).formeClusters 0 0).getD 0 0) = false ∧
    (bursting base true).clusterBursts 0 (((bursting base true).formeClusters 0 0).getD 0 0) = true ∧
    (after (.burstEnd 0) (bursting base true)).tile.mx.bursting = false ∧
    (queued base 1 (cmd 3 3 0)).tokenWait (queued base 1 (cmd 3 3 0)).tile = true := by decide +kernel

/-- A descriptor at offset 64 of main store: 8 bytes from offset 0 to offset 256. -/
def copyDesc (len : Word) : Desc := (Vector.replicate 8 0).set 1 localVa |>.set 2 (localVa + 256) |>.set 3 len

/-- The bytes of a descriptor at offset 64. -/
def descAt (d : Desc) : Memory :=
  ((List.range 64).map (fun k => ((64 + k, (vget d (k / 8) 0).extractLsb' (8 * (k % 8)) 8) : Host.Cell))).filter (fun c => c.2 != 0)

/-- Register 6 holds the descriptor's address and register 7 the handle of engine context 5, 0. -/
def engaged (d : Desc) : State := withX (withX (withMain (withEng base) (descAt d)) 6 (localVa + 64)) 7 0x8028

theorem witness_EngineCommandsEnter :
    (∀ i ∈ ([.ecpy 5 6 7, .ecpy2 5 6 7, .estrm 5 6 7, .enode 5 6 7] : List Instr), Issues i (engaged (copyDesc 8))) ∧
    (engaged (copyDesc 8)).ctx.wins = [] ∧ (localVa + 64).toNat % 64 = 0 ∧ isLocal (localVa + 64) = true ∧ localOk (engaged (copyDesc 8)).forme 64 64 = true ∧
    undeclFault (engaged (copyDesc 8)) (.loc 64) (localVa + 64) 64 false = none ∧ (engaged (copyDesc 8)).tile.poisoned 64 64 = false ∧
    (withX (engaged (copyDesc 8)) 7 0).engOfHandle 0 = none ∧ ((engaged (copyDesc 8)).engOfHandle 0x8028).isSome = true ∧
    (copyDesc 8).bad 1 1 = false ∧ (copyDesc 8).overlaps 1 = false ∧ (copyDesc 257).overlaps 1 = true ∧ Desc.bad ((copyDesc 8).set 0 1) 1 1 = true ∧
    (match engRange (engaged (copyDesc 8)) .read ((copyDesc 8).srcExt 1) with | .ok t => !t.sink | .error _ => false) = true ∧
    (match engRange (engaged (copyDesc 8)) .write ((copyDesc 8).dstExt 1) with | .ok t => !t.sink | .error _ => false) = true ∧
    (engaged (copyDesc 8)).routine = none ∧
    (after (.ecpy 5 6 7) (engaged (copyDesc 8))).ctx.readX 5 = (4, true) := by
  unfold Issues; decide +kernel

/-- A command that stands first in the queue of engine context 5, 0. -/
def engCmd (fn : Nat) (d : Desc) : EngCmd :=
  { num := 4, fn, desc := d, tile := 0, ctx := 0, gen := 0, asid := 0, pc := 0x100000, step := 0, srcHome := none, dstHome := none, pos := 0 }

def engQueue (s : State) (c : EngCmd) : State := { s with engs := [{ engOf 0 with queue := [c], enq := 4 }] }

/-- A copy of one row of eight bytes. -/
def copy2Desc : Desc := (copyDesc (2 ^ 32 + 8)).set 6 0

theorem witness_CopiesMoveTheirBytes :
    (∀ c ∈ [engCmd 1 (copyDesc 8), engCmd 2 copy2Desc, { engCmd 1 (copyDesc 8) with pos := 4 }],
      (∀ x ∈ (engQueue base c).engs, RunsAlone (engQueue base c) x c.fn c) ∧ (engQueue base c).tile.poisoned (c.pos % 8) 4 = false) ∧
    TileCanonical base.tile ∧
    (after (.ecpyExec 5 0) (engQueue base { engCmd 1 (copyDesc 8) with pos := 4 })).engs.map (fun x => (x.queue.length, x.finished.length)) = [(0, 1)] ∧
    (after (.ecpyExec 5 0) (engQueue base (engCmd 1 (copyDesc 8)))).engs.map (fun x => x.queue.map EngCmd.pos) = [[4]] ∧
    Memory.get (after (.ecpyExec 5 0) (engQueue (withMain base [(3, 9)]) (engCmd 1 (copyDesc 8)))).tile.main 259 = 9 ∧
    Memory.get (after (.ecpy2Exec 5 0) (engQueue (withMain base [(3, 9)]) (engCmd 2 copy2Desc))).tile.main 259 = 9 := by
  unfold TileCanonical RunsAlone; decide +kernel

/-- A stream of one flit through the north port of tile 0, out of local store or into it. -/
def streamDesc (sink : Bool) : Desc := (Vector.replicate 8 0).set 1 localVa |>.set 2 (if sink then 512 else 0) |>.set 3 1

theorem witness_StreamsMoveFlits :
    (∀ b : Bool, (∀ x ∈ (engQueue base (engCmd 3 (streamDesc b))).engs, RunsAlone (engQueue base (engCmd 3 (streamDesc b))) x 3 (engCmd 3 (streamDesc b))) ∧
      (streamDesc b).sink = b) ∧
    (streamDesc false).portTile = 0 ∧ neighbour 0 0 = none ∧ base.tile.forme = 0 ∧ (base.portAt 0 0).src = none ∧ (base.portAt 0 0).snk = none ∧
    (base.tile.fifo { dir := 0, thru := false }).length < 16 ∧ base.tile.poisoned 0 32 = false ∧
    ((after (.estrmExec 5 0) (engQueue (withMain base [(0, 7)]) (engCmd 3 (streamDesc false)))).tile.fifo { dir := 0, thru := false }).map Flit.val = [7] ∧
    Memory.get (after (.estrmExec 5 0) { engQueue base (engCmd 3 (streamDesc true)) with
      streams := [{ tile := 0, side := 0, out := [{ val := 7, taint := false }] }] }).tile.main 0 = 7 := by unfold RunsAlone; decide +kernel

/-- A node that has reached its threshold; a finished command that is next in number. -/
def nodeReady : EngCtx := { engOf 0 with nodes := (Vector.replicate 16 ({} : Node)).set 15 { cmd := some (engCmd 1 (copyDesc 8)), cnt := 3, thr := 3 } }
def finishing (e : Option Exc) : EngCtx := { engOf 0 with enq := 4, finished := [(engCmd 1 (copyDesc 8), e)] }

theorem witness_NodesFireAndCommandsComplete :
    (nodeReady.node 15).cmd = some (engCmd 1 (copyDesc 8)) ∧ (nodeReady.node 15).thr ≤ (nodeReady.node 15).cnt ∧ nodeReady.frozen = false ∧
    (engCmd 1 (copyDesc 8)).num = (finishing none).tl + 1 ∧ (finishing none).ahead = [] ∧ (engCmd 1 (copyDesc 8)).desc.nk = 0 ∧
    (base.tile.ctxs[(0 : Fin 4)]).gen = 0 ∧
    (after (.nodeFire 5 0 15) { base with engs := [nodeReady] }).engs.map (fun x => x.fired.length) = [1] ∧
    (after (.engineCommandComplete 5 0) { base with engs := [finishing none] }).engs.map EngCtx.tl = [4] ∧
    (after (.engineCommandComplete 5 0) { base with engs := [finishing (some { code := 0x80 })] }).engs.map (fun x => x.faults.length) = [1] := by
  decide +kernel


/-- An enode for node 15, at the head of the queue behind the last copy to finish. -/
def nodeDesc : Desc := (copyDesc 8).set 6 (15 + 3 * 2 ^ 16)
def nodeBehind : EngCtx := { finishing none with enq := 5, queue := [{ engCmd 4 nodeDesc with num := 5 }] }

theorem witness_EnodesAreSetAside :
    Issues (.enode 5 6 7) (engaged nodeDesc) ∧ nodeDesc.bad 4 1 = false ∧ nodeDesc.overlaps 4 = false ∧
    (after (.enode 5 6 7) (engaged nodeDesc)).engs.map (fun x => (x.queue.length, (x.node 15).thr, (x.node 15).cmd.isSome)) = [(0, 3, true)] ∧
    (nodeBehind.node 15).cmd = none ∧
    (after (.engineCommandComplete 5 0) { base with engs := [nodeBehind] }).engs.map
      (fun x => (x.queue.length, x.tl, (x.node 15).thr, (x.node 15).cmd.isSome)) = [(0, 4, 3, true)] := by
  unfold Issues; decide +kernel

/-- Every token of a die whose clusters do not burst passes. -/
theorem witness_TokensPassAndBurstsEnd_many :
    ∀ f ∈ (bursting base false).formes, ∀ k ∈ f.tokens, k.1 = 0 →
      (bursting base false).clusterBursts f.id (((bursting base false).formeClusters f.id 0).getD k.2 0) = false := by
  decide +kernel

/-! ### Exceptions -/

def withStat (s : State) (n : Nat) (b : Bool) : State := s.onCtx (fun c => c.setStat n b)

def withIntp (s : State) (v : Word) : State := s.onCtx (fun c => { c with intp := v })

/-- XMC0 holds a command. -/
def withXmc (k : Nat) : State := (priv base).onCtx (fun c => { c with xmc := vset c.xmc 0 (BitVec.ofNat 64 (k * 2 ^ 56)) })

theorem witness_CsrInstructions :
    (∀ i ∈ ([.csrr 5 0x000, .csrr 5 0x034, .csrw 6 0x010, .csrw 6 0x000, .csrw 6 0x001, .csrw 6 0x00B, .csrw 6 0x003, .csrs 6 0x008, .csrc 6 0x018,
      .csrw 6 0x034, .csrs 6 0x034, .csrc 6 0x034, .csrw 6 0x290, .csrs 6 0x29F, .csrc 6 0x290] : List Instr), Issues i (priv base)) ∧
    (∀ k, k = 1 ∨ k = 8 → xmCmd (vget (withXmc k).ctx.xmc 0 0) = k ∧ Issues (.csrw 6 0x034) (withXmc k)) ∧
    (priv base).domBusy = false ∧ (priv base).ctx.wins = [] ∧
    (after (.csrw 6 0x010) (withX (priv base) 6 0xFFFFFFFF)).ctx.fpctl = 0x1F1F ∧
    (after (.csrw 6 0x000) (withX (priv base) 6 (-1))).ctx.stat stEXL = true ∧
    (after (.csrs 6 0x008) (withIntp (withX (priv base) 6 5) 7)).ctx.intp = 2 ∧
    (after (.csrr 5 0x00B) (priv (base.onCtx (fun c => { c with tscr := 9 })))).ctx.readX 5 = (9, false) := by
  refine ⟨by unfold Issues; decide +kernel, ?_, by decide +kernel⟩
  rintro k (rfl | rfl) <;> (unfold Issues; decide +kernel)

theorem witness_OperandFieldsAreChecked :
    gate base = .go ∧ base.ctx.stat stPFXP = false ∧
    decodeFault (.add 44 0 0) base = some (base.exc cILLREG (instrWord (.add 44 0 0)) 0 44) ∧
    decodeFault (.add 45 40 0) base = some (base.exc cILLREG (instrWord (.add 45 40 0)) 0 40) ∧
    decodeFault (.add 48 52 45) base = some (base.exc cILLREG (instrWord (.add 48 52 45)) 0 45) ∧
    decodeFault (.vadd 40 0 0 0 0) base = some (base.exc cILLREG (instrWord (.vadd 40 0 0 0 0)) 0 40) ∧
    decodeFault (.vadd 39 44 40 1 0) base = some (base.exc cVLEN (instrWord (.vadd 39 44 40 1 0))) ∧
    decodeFault (.vadd 32 44 49 0 0) base = some (base.exc cILLREG (instrWord (.vadd 32 44 49 0 0)) 0 49) ∧
    decodeFault (.vld 32 31 31 0 1 0) base = some (base.exc cVLEN (instrWord (.vld 32 31 31 0 1 0))) ∧
    decodeFault (.mrd 40 7 31 0) base = some (base.exc cILLREG (instrWord (.mrd 40 7 31 0)) 0 40) ∧
    decodeFault (.mrd 39 7 31 0) base = some (base.exc cVLEN (instrWord (.mrd 39 7 31 0))) ∧
    (after (.mrd 32 0 0 0) base).tile.frozen = true := by decide +kernel

theorem witness_PrivilegeIsChecked :
    gate base = .go ∧ base.ctx.stat stPM = false ∧ csrDenied (base.ctx.stat stPM) 0x001 false = true ∧
    csrDenied (base.ctx.stat stPM) 0x000 true = true ∧ csrDenied ((priv base).ctx.stat stPM) 0x009 true = true ∧ gate (priv base) = .go := by
  decide +kernel

theorem witness_FaultsEnterTheirHandler :
    Acts base ∧ TileCanonical base.tile ∧ (base.exc 1 0).kind ≠ kInterrupt ∧
    (handled base).ctx.route 0x12 = .upcall ∧ frameOk (handled base).forme (handled base).ctx.ufp = true ∧
    (handled base).ctx.route 0x01 = .trap ∧ frameOk (handled base).forme (handled base).ctx.tfp = true ∧ base.ctx.route 0x01 = .freeze ∧
    (handled (priv base)).ctx.stat stPM = true ∧ (handled (priv base)).ctx.stat stEXL = false ∧ (handled base).ctx.tvec ≠ 0 ∧
    (withStat (priv base) stEXL true).ctx.stat stEXL = true ∧ Acts (handled base) ∧ TileCanonical (handled base).tile ∧
    ((handled base).takeFault ((handled base).exc 0x12 7)).ctx.stat stUEXL = true ∧
    ((handled base).takeFault ((handled base).exc 0x01 7)).ctx.pc = 0x100000 ∧
    (base.takeFault (base.exc 0x01 7)).tile.frozen = true := by
  unfold Acts TileCanonical; decide +kernel

/-- An instruction at a traced tile's mark. -/
theorem witness_TrapsAndBreakpoints :
    Issues (.trap 0 5) base ∧ base.ctx.wins = [] ∧ Issues (.trap 63 63) (handled (priv base)) ∧ (handled (priv base)).ctx.stat stPM = true ∧
    (handled (priv base)).ctx.stat stEXL = false ∧ (handled (priv base)).ctx.tvec ≠ 0 ∧
    frameOk (handled (priv base)).forme (handled (priv base)).ctx.tfp = true ∧ TileCanonical (handled (priv base)).tile ∧
    (handled (priv base)).ctx.wins = [] ∧
    Issues (.brk 0 3) base ∧ base.ctx.route 0x07 = .freeze ∧ Issues (.brk 0 3) (handled base) ∧ (handled base).ctx.route 0x07 ≠ .freeze ∧
    (base.formeAt base.tile.forme).isSome = true ∧ Issues (.mark 5 63) base ∧
    (after (.trap 0 5) (handled (priv base))).ctx.stat stEXL = true ∧
    (after (.brk 0 3) base).formes.map (fun f => f.stops.map StopReq.code) = [[3]] ∧ (after (.mark 5 2) base).tile.trace.cur.length = 1 := by
  unfold Issues TileCanonical; decide +kernel

/-- An instruction wfi that waits. -/
def sleeping (v : Word) : State := (withIntp (priv base) v).onCtx (fun c => { c with wait := .wfi })

theorem witness_WaitHaltAndFreeze :
    Issues .wfi (priv base) ∧ (priv base).ctx.intp.toNat % 65536 = 0 ∧ Issues .wfi (withIntp (priv base) 0x8000) ∧
    (withIntp (priv base) 0x8000).ctx.intp.toNat % 65536 ≠ 0 ∧
    Acts ((sleeping 1).as 0 0) ∧ ((sleeping 1).as 0 0).ctx.wait = .wfi ∧ ((sleeping 1).as 0 0).ctx.intp.toNat % 65536 ≠ 0 ∧
    (after .wfi (priv base)).ctx.wait = .wfi ∧ (after (.wfiWake 0 0) (sleeping 1)).ctx.pc = 0x100004 := by
  unfold Issues Acts; decide +kernel

theorem witness_WaitHaltAndFreeze_frozen :
    Issues .halt (priv base) ∧ (priv base).ctx.wins = [] ∧ Issues (.frz 5) (priv base) ∧ (priv base).forme.count = 1 ∧
    ((priv base).logicalTile (priv base).tile.forme 0).map Tile.phys = some 0 ∧
    (((priv base).logicalTile (priv base).tile.forme 0).bind (fun u => (priv base).tileAt u.phys)) = (priv base).logicalTile (priv base).tile.forme 0 ∧
    Issues (.frz 6) (withX (priv (withEng base)) 6 (BitVec.ofNat 64 (2 ^ 62 + 40))) ∧
    ((withEng base).engs.map (fun x => (x.eng, x.ctx, decide (x.forme = base.tile.forme)))) = [(5, 0, true)] ∧
    (after .halt (priv base)).ctx.st = .halted ∧ (after (.frz 5) (priv base)).tile.frozen = true ∧
    (after (.frz 6) (withX (priv (withEng base)) 6 (BitVec.ofNat 64 (2 ^ 62 + 40)))).engs.map EngCtx.frozen = [true] := by
  unfold Issues; decide +kernel

/-- In a handler: a trap handler, or an upcall; both frames give PC 0x100010 and status bit 56. -/
def inHandler : State := withStat (priv (withMain (handled base) [(0, 0x10), (2, 0x10), (15, 1)])) stEXL true
def inUpcall : State := withStat (withMain (handled base) [(2048, 0x10), (2050, 0x10), (2063, 1)]) stUEXL true

theorem witness_ReturnsRestoreTheirFrame :
    Issues .tret inHandler ∧ frameOk inHandler.forme inHandler.ctx.tfp = true ∧ inHandler.ctx.wins = [] ∧ inHandler.tile.localWord 0 = 0x100010 ∧
    inHandler.tile.localWord 88 = 0 ∧ inHandler.tile.localWord 136 = 0 ∧ inHandler.tile.localWord 168 = 0 ∧
    Issues .uret inUpcall ∧ frameOk inUpcall.forme inUpcall.ctx.ufp = true ∧ inUpcall.ctx.wins = [] ∧ inUpcall.tile.localWord 2048 = 0x100010 ∧
    inUpcall.tile.localWord 2136 = 0 ∧ inUpcall.tile.localWord 2184 = 0 ∧ inUpcall.tile.localWord 2216 = 0 ∧
    Issues .tret (inHandler.onCtx (fun c => { c with tfp := 0 })) ∧ frameOk inHandler.forme 0 = false ∧
    Issues .uret (inUpcall.onCtx (fun c => { c with ufp := 0 })) ∧
    gate (priv base) = .go ∧ (priv base).ctx.stat stPM = true ∧ (priv base).ctx.stat stEXL = false ∧ base.ctx.stat stUEXL = false ∧ gate base = .go ∧
    (after .tret inHandler).ctx.pc = 0x100010 ∧ (after .tret inHandler).ctx.status = 0x0100000000000000 ∧
    (after .uret inUpcall).ctx.pc = 0x100010 ∧ (after .uret inUpcall).ctx.stat stCTNT = true := by
  unfold Issues; decide +kernel

/-- An interrupt line is set and interrupts are on. -/
def lineSet (s : State) : State := withStat (withIntp s 4) stIE true

def blockedOn (s : State) (x : Stall) : State := s.onCtx (fun c => { c with stall := some x })

theorem witness_InterruptsAreTaken :
    gate ((blockedOn (lineSet (handled base)) .port).as 0 0) = .go ∧
    ((blockedOn (lineSet (handled base)) .port).as 0 0).ctx.intp.toNat % 65536 ≠ 0 ∧
    ((blockedOn (lineSet (handled base)) .port).as 0 0).ctx.stat stIE = true ∧ ((blockedOn (lineSet (handled base)) .port).as 0 0).ctx.stat stEXL = false ∧
    ((blockedOn (lineSet (handled base)) .port).as 0 0).ctx.fpx = none ∧ ((blockedOn (lineSet (handled base)) .port).as 0 0).ctx.wins = [] ∧
    ((blockedOn (lineSet (handled base)) .port).as 0 0).blocked = true ∧
    frameOk (handled base).forme (handled base).ctx.tfp = true ∧ TileCanonical (handled base).tile ∧
    base.ctx.stat stIE = false ∧ gate (lineSet base) = .go ∧ (lineSet base).ctx.intDue = true ∧ decodeFault (.add 5 6 31) (lineSet base) = none ∧
    windowFault (.add 5 6 31) (lineSet base) = none ∧
    (after (.interruptTake 0 0) (blockedOn (lineSet (handled base)) .port)).ctx.stat stEXL = true ∧
    (after (.add 5 6 31) (lineSet (handled base))).ctx.stat stPM = true := by
  unfold TileCanonical; decide +kernel

theorem witness_CommitPointsDeliver :
    ((blockedOn (withSb base [pendEntry]) .commit).as 0 0).ctx.stall = some .commit ∧ ((blockedOn base .commit).as 0 0).ctx.st = .running ∧
    ((blockedOn base .commit).as 0 0).tile.frozen = false ∧ ((blockedOn base .commit).as 0 0).forme.phase.runs = true ∧
    (((blockedOn (withSb base [pendEntry]) .commit).as 0 0).tile.sb.map (fun e => (e.ctx, e.st)) = [(0, .pending)]) ∧
    ((blockedOn base .commit).as 0 0).tile.sb = [] ∧ ((blockedOn base .commit).as 0 0).ctx.deferred = [] ∧
    ((blockedOn base .commit).as 0 0).tile.mx.faults = [] ∧ (blockedOn base .commit).engs = [] ∧
    firstFaulted ((blockedOn (withSb base [badEntry]) .commit).as 0 0).tile.sb 0 = some badEntry ∧
    (after (.commitPoint 0 0) (blockedOn base .commit)).ctx.stall = none ∧
    (after (.commitPoint 0 0) (handled (blockedOn (withSb base [badEntry]) .commit))).ctx.stat stUEXL = true := by
  decide +kernel

/-- A handler's frame with an inner counted loop of 16 instructions, or with one landed scalar result of x0, one instruction left. -/
def inHandlerLoop : State := inHandler.onTile (fun t => { t with main := [(0, 0x10), (2, 0x10), (15, 1), (168, 1), (175, 0x80)] })
def inHandlerWin : State := inHandler.onTile (fun t => { t with main := [(0, 0x10), (2, 0x10), (15, 1), (88, 1), (263, 0x82), (272, 9)] })

theorem witness_ReturnsRestoreTheirFrame_records :
    (∀ s ∈ [inHandlerLoop, inHandlerWin], Issues .tret s ∧ frameOk s.forme s.ctx.tfp = true ∧ s.ctx.wins = [] ∧ s.tile.localWord 0 = 0x100010 ∧
      (s.tile.localWord 136).getLsbD 63 = false) ∧
    (inHandlerLoop.tile.localWord 168).getLsbD 63 = true ∧ (inHandlerLoop.tile.localWord 168).getLsbD 62 = false ∧
    (inHandlerWin.tile.localWord 88).toNat % 32 = 1 ∧ (inHandlerWin.tile.localWord 168).getLsbD 63 = false ∧
    (inHandlerWin.tile.localWord 256).getLsbD 63 = true ∧ Word.field (inHandlerWin.tile.localWord 256) 61 2 = 0 ∧
    Word.field (inHandlerWin.tile.localWord 256) 57 4 ≠ 0 ∧
    (after .tret inHandlerLoop).ctx.loops.map LoopCtx.len = [16] ∧
    (after .tret inHandlerWin).ctx.wins.map (fun w => (w.rem, w.dst, w.st)) = [(1, 0, .landed 9 false)] ∧
    Issues .tret (inHandler.onTile (fun t => { t with main := [(0, 0x10), (88, 1), (263, 0xE0)] })) ∧
    Issues .tret (inHandler.onTile (fun t => { t with main := [(0, 0x10), (88, 17)] })) ∧
    Issues .tret (inHandler.onTile (fun t => { t with main := [(0, 2)] })) := by
  unfold Issues; decide +kernel

/-- An instruction waits at a window with no instruction left, and a line is set. -/
def atWindow : State :=
  (lineSet (handled base)).onCtx (fun c => { c with
    nextWin := 1
    wins := [{ id := 0, ipc := 0x100000, step := 0, rem := 0, dst := 5, vec := false, n := 0, kind := .value, st := .landed 7 false
               addr := 0, aux := 0, tnt := false }] })

theorem witness_InterruptsAreTaken_waits :
    (∃ k, gate ((atWindow).as 0 0) = .closed k) ∧ ((atWindow).as 0 0).ctx.settled = true ∧ ((atWindow).as 0 0).ctx.fpx = none ∧
    (∀ x ∈ ([.port, .msg, .engine, .muldiv, .near, .matrix] : List Stall), gate ((blockedOn (lineSet (handled base)) x).as 0 0) = .go ∧
      ((blockedOn (lineSet (handled base)) x).as 0 0).ctx.stall = some x) ∧
    (after (.interruptTake 0 0) atWindow).ctx.stat stEXL = true ∧
    (after (.interruptTake 0 0) (blockedOn (lineSet (handled base)) .near)).ctx.pc = 0x100000 :=
  ⟨⟨_, rfl⟩, by decide +kernel⟩

/-- The routes of a fault: an upcall of PAGEF and of a delegated code, a trap of one that is not, a freeze without a handler. -/
def delegated : State := (handled base).onCtx (fun c => { c with udeleg := vset c.udeleg 0 2 })

theorem witness_FaultsEnterTheirHandler_routes :
    (vget delegated.ctx.udeleg 0 0).getLsbD 1 = true ∧ delegated.ctx.stat stPM = false ∧ delegated.ctx.stat stUEXL = false ∧ delegated.ctx.uvec ≠ 0 ∧
    delegated.ctx.route 0x01 = .upcall ∧ delegated.ctx.route 0x02 = .trap ∧ delegated.ctx.route 0x03 = .trap ∧ delegated.ctx.route 0x11 = .upcall ∧
    ((delegated.takeFault (delegated.exc 0x01 7)).ctx.stat stUEXL = true) ∧ ((delegated.takeFault (delegated.exc 0x03 7)).ctx.stat stPM = true) ∧
    (delegated.onCtx (fun c => { c with ufp := 0 })).ctx.route 0x01 = .upcall ∧ frameOk delegated.forme 0 = false ∧
    ((delegated.onCtx (fun c => { c with ufp := 0 })).takeFault (delegated.exc 0x01 7)).tile.frozen = true := by
  decide +kernel

/-! ### The switches and the static network -/

/-- Physical tiles p, which acts, and q of one forme, all link ends straight; the switches run. The flit 9 stands first in
the west FIFO of p, and at its core out-queue N. -/
def straight : Vector (Option LinkEnd) 4 := #v[some { dir := 0, thru := false }, some { dir := 1, thru := false }, some { dir := 2, thru := false }, some { dir := 3, thru := false }]
def flit9 : Flit := { val := 9, taint := false }
def grid (p q : Nat) (f : Tile → Tile) (g : Tile → Tile) : State :=
  let t (n : Nat) : Tile := { base.tile with
    phys := n, sw := { base.tile.sw with halted := false }
    fab := { base.tile.fab with outMap := straight, inMap := straight } }
  { base with
    actor := { tile := p, ctx := 0 }
    tiles := [f { t p with fab := { (t p).fab with sched := vset (t p).fab.sched 3 [flit9], coreOut := vset (t p).fab.coreOut 0 [flit9] } }, g (t q)] }

theorem witness_SwitchControlResults :
    SwitchRuns (grid 0 1 id id) ∧
    vget (grid 0 1 id id).tile.sw.c 1 0 = 0 ∧ vget (grid 0 1 (fun t => { t with sw := { t.sw with c := vset t.sw.c 1 5 } }) id).tile.sw.c 1 0 = 5 ∧
    ((grid 0 1 id id).die (physDie 0)).l.toNat % 65536 = 0 ∧ ((grid 0 1 id id).die (physDie 0)).p.toNat % 65536 ≠ 65535 ∧
    (after (.ring 31 0 100) (grid 0 1 id id)).tile.sw.inRing = some (31, 1) ∧ (after (.jmp 2047) (grid 0 1 id id)).tile.sw.spc = 2047 ∧
    (after (.bnz 1 16) (grid 0 1 id id)).tile.sw.spc = 1 ∧ (after (.setc 3 65535) (grid 0 1 id id)).tile.sw.c[3] = 65535 ∧
    (after .switchHalt (grid 0 1 id id)).tile.sw.halted = true := by
  unfold SwitchRuns Acts; decide +kernel

theorem witness_RouteWordsMoveFlits :
    SwitchRuns (grid 0 1 id id) ∧ SwitchRuns (grid 31 1024 id id) ∧
    FireForm (.route 0 4 0 0 0 0 0 0 0) 0 4 0 0 0 (grid 0 1 id id).tile.sw (nextWord (grid 0 1 id id).tile.sw) ∧
    FireForm (.rep 0 4 0 0 0 0) 0 4 0 0 0 (grid 0 1 id id).tile.sw (nextWord (grid 0 1 id id).tile.sw) ∧
    FireForm (.route 0 0 0 0 1 0 0 0 0) 0 0 0 0 1 (grid 0 1 id id).tile.sw (nextWord (grid 0 1 id id).tile.sw) ∧
    swMoves 0 4 0 0 = [(1, .link 3)] ∧ swMoves 5 0 0 0 = [(0, .core 0)] ∧ swCins 0 = [] ∧ swCins 1 = [3] ∧
    (grid 0 1 id id).tile.srcHead (.link 3) = some flit9 ∧ (grid 0 1 id id).tile.srcHead (.core 0) = some flit9 ∧ (grid 0 1 id id).tile.srcHead .latch = none ∧
    neighbour 0 1 = some 1 ∧ crossesEdge 0 1 = false ∧ neighbour 31 1 = some 1024 ∧ crossesEdge 31 1 = true ∧ neighbour 0 0 = none ∧ crossesEdge 0 0 = false ∧
    ((grid 0 1 id id).tileAt 1).isSome = true ∧ ((grid 31 1024 id id).tileAt 1024).isSome = true ∧ (grid 31 1024 id id).tile.alignCtr ≤ 131072 ∧
    (grid 31 1024 id id).tile.fab.holdSeen.getLsbD 1 = false ∧ ((grid 0 1 id id).portAt 0 0).out = [] ∧ (grid 0 1 id id).tile.inQ 3 = [] ∧
    (grid 31 1024 (fun t => { t with alignCtr := 131073 }) id).tile.alignCtr = 131073 ∧ SwitchRuns (grid 31 1024 (fun t => { t with alignCtr := 131073 }) id) ∧
    ((after (.route 0 4 0 0 0 0 0 0 0) (grid 0 1 id id)).tileD 1).fab.sched[3] = [flit9] ∧
    (after (.route 0 4 0 0 0 0 0 0 0) (grid 31 1024 id id)).edge.map EdgeFlit.tile = [1024] ∧
    ((after (.rep 5 0 0 0 0 2) (grid 0 1 id id)).portAt 0 0).out = [flit9] ∧ (after (.rep 5 0 0 0 0 2) (grid 0 1 id id)).tile.sw.rem = 2 ∧
    (after (.route 0 0 0 0 1 0 0 0 0) (grid 0 1 id id)).tile.inQ 3 = [flit9] := by
  refine ⟨by unfold SwitchRuns Acts; decide +kernel, by unfold SwitchRuns Acts; decide +kernel, .inl ⟨0, 0, 0, rfl, rfl⟩,
    .inr ⟨0, rfl, by decide +kernel⟩, .inl ⟨0, 0, 0, rfl, rfl⟩, ?_⟩
  unfold SwitchRuns Acts; decide +kernel

/-- Tile 1 listens on row bus 0, slot 7, to destination d. -/
def listening (d : Nat) (l : Word) : State :=
  (grid 0 1 id (fun t => { t with sw := { t.sw with prog := [BitVec.ofNat 32 (0x10000800 + 7 * 32 + 4 * d)] } })).modDie 0 (fun x => { x with l })

theorem witness_BusesDrive :
    SwitchRuns (listening 0 7) ∧ (listening 0 7).tile.outQ 0 = [flit9] ∧ ((listening 0 7).die (physDie 0)).l.toNat % 32 = 7 ∧
    ((listening 0 8).die (physDie 0)).l.toNat % 32 ≠ 7 ∧ (listening 0 7).tile.sw.listenOf 0 7 = none ∧
    ((listening 0 7).segment (listening 0 7).tile 0).map (fun u => (u.phys, (u.sw.listenOf 0 7).isSome)) = [(0, false), (1, true)] ∧
    ((listening 0 7).segment (listening 0 7).tile 1).map Tile.phys = [0] ∧
    ((listening 4 7).tileD 1).sw.word = some (.route 0 0 0 0 0 1 0 7 4) ∧ ((listening 0 7).tileD 1).sw.latch = none ∧ ((listening 4 7).tileD 1).inQ 3 = [] ∧
    ((after (.bus 0 7 5 0) (listening 0 7)).tileD 1).sw.latch = some flit9 ∧ ((after (.bus 0 7 5 0) (listening 4 7)).tileD 1).inQ 3 = [flit9] ∧
    (after (.bus 1 7 5 0) (listening 0 7)).tile.outQ 0 = [] := by
  unfold SwitchRuns Acts; decide +kernel

/-- A flit on the wire to the west edge of tile 1024. -/
def wired (n : Nat) (hold : Bool) : State :=
  { grid 31 1024 id (fun t => { t with fab := { t.fab with sched := vset t.fab.sched 3 (List.replicate n flit9) } }) with
    edge := [{ tile := 1024, dir := 3, thru := false, flit := flit9 }], holds := [{ tile := 31, dir := 1, thru := true, on := hold }] }

theorem witness_FlitsArrive :
    ((grid 0 1 (fun t => { t with fab := { t.fab with conns := [{ inDir := 3, inThru := false, outDir := 1 }] } }) id).tileD 0).fab.conns[0]? =
      some { inDir := 3, inThru := false, outDir := 1 } ∧
    ((grid 0 1 id id).tileD 0).fifo { dir := 3, thru := false } = [flit9] ∧ ((grid 0 1 id id).tileD 1).fifo { dir := 3, thru := true } = [] ∧
    (wired 63 true).edge.length = 1 ∧ ((wired 63 true).tileAt 1024).isSome = true ∧ (((wired 63 true).tileD 1024).fifo { dir := 3, thru := false }).length = 63 ∧
    (((wired 64 true).tileD 1024).fifo { dir := 3, thru := false }).length = 64 ∧ (wired 64 true).holdEnAt ((wired 64 true).tileD 1024) = false ∧
    (wired 64 true).formes.map (fun f => (f.id == ((wired 64 true).tileD 1024).forme, f.fault)) = [(true, none)] ∧
    ((after (.throughLaneForward 0 0)
      (grid 0 1 (fun t => { t with fab := { t.fab with conns := [{ inDir := 3, inThru := false, outDir := 1 }] } }) id)).tileD 1).fab.thru[3] = [flit9] ∧
    (((after (.edgeFlitArrive 0) (wired 63 true)).tileD 1024).fab.sched[3]).length = 64 ∧
    (after (.edgeFlitArrive 0) (wired 64 true)).formes.map (fun f => f.fault.map Exc.code) = [some cEDGEOVR] ∧
    (after (.holdArrive 0) (wired 0 true)).tile.fab.holdSeen = 32 := by
  decide +kernel

/-- The driver, or the listener, has fired in this tick already. -/
theorem witness_BusesDrive_fired :
    let s := (listening 0 7).onTile (fun t => { t with swFired := true })
    let r := (listening 0 7).modTile 1 (fun t => { t with swFired := true })
    (listening 0 7).tile.swFired = false ∧ ((listening 0 7).tileD 1).swFired = false ∧ s.tile.swFired = true ∧ (r.tileD 1).swFired = true ∧
    (after (.bus 0 7 5 0) s).tile.outQ 0 = [flit9] ∧ (after (.bus 0 7 5 0) r).tile.outQ 0 = [flit9] := by
  decide +kernel

/-! ### The home slices, the mapping controllers, migration -/

/-- A line of the data span at its slice. -/
def homeLine (fill : FillState) : L2Line :=
  { slice := 0, asid := 0, line := 0x8000, dom := 0, fill, data := 7, taint := 0, dirty := false, poison := 0, shadow := [] }

def withL2 (s : State) (f : FillState) : State := { s with l2 := [homeLine f] }

/-- A push of one word of a line: function fn, operand 5. -/
def push (fn : Nat) (wide : Bool) : Push := { id := 0, upd := { heldLine with fn, wide }, dom := none, tile := 0, ofu := false, forme := 0 }

def pushed (fn : Nat) (wide : Bool) : State := { withL2 base .valid with pushes := [push fn wide] }

theorem witness_PushesMerge :
    mergeHeld (pushed 1 true) 0 (push 1 true) = false ∧ (push 1 true).upd.valid.toNat < 256 ∧ (push 1 false).ofu = false ∧ base.ofu = [] ∧
    (pushed 9 false).l2At 0 0 0x8000 = some (homeLine .valid) ∧
    mergeHeld { pushed 1 false with pushes := [push 2 false, push 1 false] } 1 (push 1 false) = true ∧
    (after (.updateMerge 0) (pushed 1 false)).l2.map L2Line.data = [12] ∧ (after (.updateMerge 0) (pushed 5 false)).l2.map L2Line.data = [5] ∧
    (after (.updateMerge 0) (pushed 4 true)).l2.map L2Line.data = [2] ∧ (after (.updateMerge 0) (pushed 1 false)).pushes.length = 0 := by
  decide +kernel

/-- An entry whose request has been answered as given. -/
def confirming (st : ReqState) : State :=
  { withSb (withL2 base .valid) [pendEntry] with
    nextReq := 1
    reqs := [{ id := 0, tile := 0, ctx := 0, gen := 0, asid := 0, va := 0x200000, size := 32, home := 0, dom := none, domIdx := 0
               chk := false, nc := false, pc := 0x100000, step := 0, seq := 1, kind := .store 0, st }] }

theorem witness_BufferedStoresReachTheirLine :
    ((confirming (.done 0 false)).tileAt 0).isSome = true ∧
    (withSb (withL2 base .valid) [pendEntry]).tile.sb.find? (fun x => x.idx == 0) = some pendEntry ∧
    shownAhead (withSb (withL2 base .valid) [pendEntry]) base.tile pendEntry = false ∧
    (withSb (withL2 base .valid) [pendEntry]).entryReq 0 0 = none ∧ firstPending [pendEntry] pendEntry = true ∧
    olderLoad (withSb (withL2 base .valid) [pendEntry]) 0 pendEntry = false ∧ pendEntry.va.toNat % 32 = 0 ∧ pendEntry.hash = false ∧
    firstPending [{ pendEntry with idx := 1 }, pendEntry] pendEntry = false ∧ base.pushes = [] ∧ base.ofu = [] ∧ base.reqs = [] ∧
    (withL2 base .valid).l2At pendEntry.home pendEntry.asid (pendEntry.va.toNat / 64) = some (homeLine .valid) ∧
    (∀ st ∈ ([.done 0 false, .failed { code := 0x10 }] : List ReqState), ((confirming st).entryReq 0 0).map Req.st = some st) ∧
    (after (.storeConfirm 0 0) (withSb (withL2 base .valid) [pendEntry])).l2.map L2Line.data = [0x1122334455667788] ∧
    (after (.storeConfirm 0 0) (withSb (withL2 base .valid) [pendEntry])).tile.sb.map SbEntry.st = [.confirmed] ∧
    (after (.storeConfirm 0 0) (withSb (confirming (.done 0 false)) [{ pendEntry with st := .confirmed }])).tile.sb = [] ∧
    (after (.storeConfirm 0 0) (withSb (confirming (.done 0 false)) [{ pendEntry with st := .confirmed }])).reqs = [] ∧
    (after (.storeEntryFault 0 0) (confirming (.failed { code := 0x10 }))).tile.sb.map SbEntry.st = [.faulted 0x10] := by
  decide +kernel

/-- A context that waits for a race check, answered as given. -/
def racing (st : ReqState) : State :=
  { base.onCtx (fun c => { c with wait := .race 0 }) with
    nextReq := 1
    reqs := [{ id := 0, tile := 0, ctx := 0, gen := 0, asid := 0, va := 0x200000, size := 4, home := 0, dom := none, domIdx := 0
               chk := true, nc := false, pc := 0x100000, step := 0, seq := 0, kind := .raceCheck [0], st }] }

theorem witness_RaceChecksAnswer :
    (∀ st ∈ ([.done 0 false, .failed { code := 0x20 }] : List ReqState), ((racing st).tileAt 0).isSome = true ∧
      ((racing st).tileD 0).ctxs[(0 : Fin 4)].wait = .race 0 ∧ ((racing st).reqAt 0).map Req.st = some st ∧ ((racing st).tileD 0).ctxs[(0 : Fin 4)].settled = true) ∧
    (after (.raceCheckReply 0 0) (racing (.done 0 false))).ctx.wait = .raceOk ∧
    (after (.raceCheckReply 0 0) (racing (.failed { code := 0x20 }))).tile.frozen = true := by decide +kernel

/-- ASID 0 has a root at every controller, and the page at 0x200000 a leaf at the controller of its colour, 0. -/
def mapped (leaves : List Leaf) (s : State) : State :=
  (List.range 12).foldl (fun s c => s.modCtl c (fun k => { k with roots := [0], leaves := if c = 0 then leaves else [] })) s

def page (st : Nat) : Leaf := { asid := 0, va := 0x200000, entry := leafWord 0 st 0 false 0x3C 0, used := true }

/-- A load that waits for the line. -/
def waitingLoad : Req :=
  { id := 0, tile := 0, ctx := 0, gen := 0, asid := 0, va := 0x200000, size := 8, home := 0, dom := none, domIdx := 0
    chk := false, nc := false, pc := 0x100000, step := 0, seq := 0, kind := .load 0, st := .waiting }

theorem witness_LinesAreFoundAndFilled :
    colour 0x200000 = 0 ∧ ((mapped [page 0] (withL2 base .walking)).ctl 0).roots.contains 0 = true ∧
    ((mapped [page 0] (withL2 base .walking)).ctl 0).leaf 0 0x200000 = some (page 0) ∧ leafST (page 0).entry = 0 ∧ leafKIND (page 0).entry = 0 ∧
    ((mapped [page 0] base).ctl 0).migs = [] ∧ ((mapped [] (withL2 base .walking)).ctl 0).leaf 0 0x200000 = none ∧
    waitersOf { mapped [] (withL2 base .walking) with reqs := [waitingLoad] } 0 0 0x8000 = [waitingLoad] ∧
    (withL2 base (.found (.hbm 0x3C000) true)).l2[0]? = some (homeLine (.found (.hbm 0x3C000) true)) ∧ waitersOf base 0 0 0x8000 = [] ∧
    forwards base.tile waitingLoad = [] ∧ TaintSet.has base.hbmPoison (Loc.hbm 0x3C000).key = false ∧
    (after (.walk 0) (mapped [page 0] (withL2 base .walking))).l2.map L2Line.fill = [.found (.hbm 0x3C000) false] ∧
    (after (.walk 0) { mapped [] (withL2 base .walking) with reqs := [waitingLoad] }).l2 = [] ∧
    (after (.l2Fill 0) { withL2 base (.found (.hbm 0x3C000) false) with hbm := [(0x3C001, 3)], reqs := [waitingLoad] }).reqs.map Req.st = [.done 0x300 false] ∧
    (after (.l2Fill 0) (withL2 base (.found (.hbm 0x3C000) true))).l2 = [] ∧
    (after (.retryReissue 0) { base with reqs := [{ waitingLoad with st := .retry }] }).reqs.map Req.st = [.sent] ∧
    (after (.rehomeReply 0) { base with reqs := [{ waitingLoad with st := .rehome 0x5000000000000000, domIdx := 15 }] }).tile.doms[15] =
      0x5000000000000000 := by
  decide +kernel

/-- A context that waits for its write of a domain record. -/
def domWriting (d : Nat) : State := base.onCtx (fun c => { c with wait := .hashdom d 0x1F00000000000000 })

theorem witness_DomainRecordsChange :
    (domWriting 15).domWrites = [] ∧ (domWriting 15).domWaiter (fun e w => e == 15 && w == 0x1F00000000000000) = some (0, 0) ∧
    (domWriting 15).domWaiter (fun e _ => e == 15) = some (0, 0) ∧ ((domWriting 15).tileAt 0).isSome = true ∧
    ((domWriting 15).as 0 0).ctx.wait = .hashdom 15 0x1F00000000000000 ∧
    ({ domWriting 15 with reqs := [{ waitingLoad with dom := some (15, 0) }] }).reqs.any (fun r => r.dom == some (15, 0) && !r.isDone) = true ∧
    (after (.hashdomWrite 15 0x1F00000000000000) (domWriting 15)).hashdom[15] = 0x1F00000000000000 ∧
    (after (.hashdomWriteComplete 15) { domWriting 15 with domWrites := [(15, 0)] }).ctx.wait = .nothing := by
  decide +kernel

/-- A mapping command of the acting context on its way: its words XMC0 to XMC2. -/
def mapCmd (x0 x1 x2 : Word) : MapCmd := { xmc := #v[x0, x1, x2, 0], tile := 0, ctx := 0 }
def commanding (s : State) (m : MapCmd) : State := { s.onCtx (fun c => { c with wait := .mapping }) with mapq := [m] }
def op (code : Nat) : Word := BitVec.ofNat 64 (code * 2 ^ 56)

theorem witness_MappingCommandsApply :
    (∀ k ∈ [1, 2, 3, 4, 5, 6, 7, 8], MapOldest (commanding base (mapCmd (op k) 0x200000 0x3C000)) (mapCmd (op k) 0x200000 0x3C000) k ∧
      MapOldest (commanding (mapped [page 0] base) (mapCmd (op k) 0x200000 0x6C000)) (mapCmd (op k) 0x200000 0x6C000) k) ∧
    (base.ctl 0).roots.contains 0 = false ∧ ((mapped [page 0] base).ctl 0).roots.contains 0 = true ∧
    (mapped [page 0] base).overlapsLeaf 0 0x200000 0 true = true ∧ (mapped [page 1] base).overlapsLeaf 0 0x200000 0 true = false ∧
    (mapped [] base).leafAt 0 0x200000 = none ∧ (mapped [page 3] base).leafAt 0 0x200000 = some (page 3) ∧ leafST (page 3).entry = 3 ∧
    leafSZ (page 0).entry = 0 ∧ colour 0x6C000 = 0 ∧ frameExists 0x6C = true ∧ ((mapped [page 0] base).ctl 0).migs = [] ∧
    ((mapped [page 0] base).ctl 0).frames = [] ∧ ((base.ctl 0).slots).length = 0 ∧
    (after .asidon (commanding base (mapCmd (op 1) 0 0))).ctx.xmst = 0x8000000000000000 ∧
    ((after .map (commanding (mapped [] base) (mapCmd (op 3) 0x200000 0x3C000))).ctl 0).leaves.map Leaf.entry = [leafWord 0 0 0 false 0x3C 0] ∧
    ((after .unmap (commanding (mapped [page 0] base) (mapCmd (op 5) 0x200FFF 0))).ctl 0).leaves = [] ∧
    (after .query (commanding (mapped [page 0] base) (mapCmd (op 7) 0x200FFF 0))).ctx.xmc[2] = (page 0).entry ∧
    ((after .migrate (commanding (mapped [page 0] base) (mapCmd (op 6) 0x200000 0x6C000))).ctl 0).migs.map Migration.new = [0x6C] := by
  unfold MapOldest; decide +kernel

/-- Slot 1 of controller 0 is open for the page, and the acting context waits for its answer. -/
def asking (w : List (Nat × Nat × Nat)) : State :=
  (mapped [] base).modCtl 0 (fun k => { k with slots := [{ slot := 1, asid := 0, va := 0x200000, access := 1, size := 0, waiters := w, recorded := false }] })

theorem witness_PageAnswersAreDeposited :
    MapOldest (commanding (asking [(0, 0, 0)]) (mapCmd (op 8) 1 0)) (mapCmd (op 8) 1 0) 8 ∧ xmRSP (op 8) ≤ 1 ∧
    (((commanding (asking [(0, 0, 0)]) (mapCmd (op 8) 1 0)).ctl 0).slots.map (fun y => (y.slot, y.waiters)) = [(1, [(0, 0, 0)])]) ∧
    base.tile.ctxs[(0 : Fin 4)].gen = 0 ∧ base.savedCtx base.tile = false ∧ (asking []).leafAt 0 0x200000 = none ∧ ((asking []).tileAt 0).isSome = true ∧
    ((after .presp (commanding (asking []) (mapCmd (op 8) 1 0))).ctl 0).slots = [] ∧
    (after .presp (commanding (asking [(0, 0, 0)]) (mapCmd (op 8) 1 0))).ctx.mb[3] = 0x8082000100000000 := by
  unfold MapOldest; decide +kernel

/-- The page migrates from frame 0x3C to frame 0x6C. -/
def migrating (next : Nat) : State :=
  (mapped [page 3] { base with hbm := [(0x3C000, 3), (0x3CFC0, 4)] }).modCtl 0 (fun k =>
    { k with migs := [{ asid := 0, va := 0x200000, old := 0x3C, new := 0x6C, next }] })

/-- The page-request ring. -/
def withRing (en : Bool) (s : State) : State := { s with host := { s.host with pr := { base := 0x1000, en, log2n := 4, vec := 2 } } }

theorem witness_PagesMoveAndAreAskedFor :
    Memory.wf (migrating 0).hbm = true ∧ ((migrating 63).ctl 0).migs.map Migration.next = [63] ∧ ((migrating 0).ctl 0).migs.map Migration.next = [0] ∧
    ((migrating 0).ctl 0).leaf 0 0x200000 = some (page 3) ∧ leafSZ (page 3).entry = 0 ∧ colour 0x200000 = 0 ∧ (migrating 0).l2 = [] ∧
    Memory.wf base.hostMem = true ∧ ((asking []).ctl 0).slots.map Slot.recorded = [false] ∧ (withRing true (asking [])).host.pr.room = true ∧
    (withRing false (asking [])).host.pr.room = false ∧
    Memory.get (after (.migrationCopyLine 0 0 false) (migrating 63)).hbm 0x6CFC0 = 4 ∧
    ((after (.migrationCopyLine 0 0 false) (migrating 63)).ctl 0).leaves.map (fun l => (leafST l.entry, leafPN l.entry)) = [(0, 0x6C)] ∧
    ((after (.migrationCopyLine 0 0 true) (migrating 0)).ctl 0).leaves.map (fun l => leafST l.entry) = [4] ∧
    Memory.get (after (.pageRequestRecordWrite 0 1) (withRing true (asking []))).hostMem 0x100A = 0x20 := by
  decide +kernel

/-- Domain 15 has moved on to generation 5, homed at tiles that its record gives; the tile's copy has not, or has. -/
def moved (known : Bool) (s : State) : State :=
  let s := { s with hashdom := vset s.hashdom 15 0x5000000000000000 }
  s.onTile (fun t => { t with doms := vset t.doms 15 (if known then 0x5000000000000000 else 0x4000000000000000) })

theorem witness_PushesMerge_rehome :
    let p : Push := { push 1 false with dom := some (15, 4), upd := { heldLine with dom := 15, hash := true } }
    let s := moved false { pushed 1 false with pushes := [p] }
    s.pushes[0]? = some p ∧ mergeHeld s 0 p = false ∧ domGen (vget s.hashdom 15 0) ≠ 4 ∧ (s.tileAt 0).isSome = true ∧
    (after (.updateMerge 0) s).pushes.map Push.dom = [some (15, 5)] ∧ (after (.updateMerge 0) s).tile.doms[15] = 0x5000000000000000 := by
  decide +kernel

theorem witness_BufferedStoresReachTheirLine_hash :
    let e : SbEntry := { pendEntry with hash := true, dom := 15 }
    let rec_ : Word := 0x5000000000000000
    let s := moved true { withSb base [e] with l2 := [{ homeLine .valid with slice := (if domEmpty rec_ then 0 else hashHome rec_ 0x200000) }] }
    s.tile.sb.find? (fun x => x.idx == 0) = some e ∧ s.entryReq 0 0 = none ∧ firstPending s.tile.sb e = true ∧ olderLoad s 0 e = false ∧
    shownAhead s s.tile e = false ∧ domGen (vget s.tile.doms 15 0) = domGen (vget s.hashdom 15 0) ∧
    (after (.storeConfirm 0 0) s).tile.sb.map SbEntry.st = [.confirmed] := by
  decide +kernel

/-- A write of a domain record is over once no request and no push names its old generation. -/
theorem witness_DomainRecordsChange_pushes :
    let q : Push := { push 1 false with dom := some (15, 0) }
    let s := { domWriting 15 with domWrites := [(15, 0)], pushes := [q] }
    s.pushes.any (fun q => q.dom == some (15, 0)) = true ∧ s.reqs = [] ∧ (after (.hashdomWriteComplete 15) s).ctx.wait = (domWriting 15).ctx.wait := by
  decide +kernel

/-- Controllers without room for another table. -/
def full (s : State) : State := { s with ctls := s.ctls.map (fun k => { k with region := 0 }) }

theorem witness_MappingCommandsApply_noSpace :
    (full (mapped [] base)).overlapsLeaf 0 0x200000 0 true = false ∧ (full (mapped [] base)).roomFor 0 0x200000 0 = false ∧
    (mapped [] base).roomFor 0 0x200000 0 = true ∧ (full base).ctls[(0 : Fin 12)].tableBytes + 2 ^ 21 > (full base).ctls[(0 : Fin 12)].region ∧
    (base.ctl 11).tableBytes + 2 ^ 21 ≤ (base.ctl 11).region ∧
    (after .asidon (commanding (full base) (mapCmd (op 1) 0 0))).ctx.xmst = 0x8000000000000006 ∧
    (after .map (commanding (full (mapped [] base)) (mapCmd (op 3) 0x200000 0x3C000))).ctx.xmst = 0x8000000000000006 := by
  decide +kernel

/-! ### Supersteps, ticks and halts -/

/-- The forme of `base` in superstep k of B, in a phase; the tile as changed. -/
def during (p : FormePhase) (k b : Nat) (f : Tile → Tile) : State :=
  (base.onTile f).modForme 0 (fun g => { g with phase := p, k, b, v := 1 })

/-- A list of one entry of 8 bytes from offset 16 of main store to the tile's own window at 56. -/
def listed (t : Tile) : Tile := { t with xch := { t.xch with list := [{ src := 16, tile := 0, dst := 56, len := 8 }], pos := some 0 }, unacked := 0 }

/-- Every context of BARMASK has executed sync. -/
def arrived (t : Tile) : Tile := { t with synced := 15 }

theorem witness_ExchangesBegin :
    ((during .compute 0 1 arrived).formeAt 0).map Forme.phase = some .compute ∧ ((during .compute 0 1 arrived).tilesOf 0).map Tile.phys = [0] ∧
    Tile.firstCond (during .compute 0 1 arrived).tile = true ∧ (during .compute 0 1 arrived).ofuArrived 0 = true ∧ (during .compute 0 1 arrived).ofu = [] ∧
    Tile.firstCond (during .compute 0 1 (fun t => { arrived t with unacked := 1 })).tile = false ∧
    ((during .compute 0 1 arrived).formeAt 0).map (fun f => f.v.getLsbD 0) = some true ∧
    (after (.firstBarrierComplete 0) (during .compute 0 1 (fun t => { arrived (listed t) with xch := { (listed t).xch with pos := none } }))).tile.xch.pos = some 0 ∧
    (after (.firstBarrierComplete 0) (during .compute 0 1 (fun t => { arrived t with arrival := some 77 }))).tile.imba = 77 := by decide +kernel

def xchPkt : Packet := pkt (.xchg 56 (List.replicate 8 9) 1 0)

theorem witness_ExchangeWritesLand :
    ((during .exchange 0 1 listed).tileAt 0).isSome = true ∧ ((during .exchange 0 1 listed).tileD 0).xch.pos = some 0 ∧
    ((during .exchange 0 1 listed).tileD 0).xch.list[0]? = some { src := 16, tile := 0, dst := 56, len := 8 } ∧
    ((during .exchange 0 1 listed).formeOf ((during .exchange 0 1 listed).tileD 0)).phaseNow = .exchange ∧
    ((during .exchange 0 1 listed).tileD 0).poisoned 16 8 = false ∧ 56 % 64 + 8 ≤ 64 ∧
    ((during .compute 0 1 listed).formeOf ((during .compute 0 1 listed).tileD 0)).phaseNow ≠ .exchange ∧
    (netted base xchPkt.kind).inOrder 0 xchPkt = true ∧ (netted base xchPkt.kind).net[0]? = some xchPkt ∧ ((netted base xchPkt.kind).tileAt 0).isSome = true ∧
    TileCanonical base.tile ∧ base.tile.shadowRace 56 8 xchPkt.srcLog (base.phaseOf 0) = none ∧
    ((base.onTile (fun t => { t with shadow := [{ word := 14, writer := 5, phase := 0 }] })).tile).shadowRace 56 8 xchPkt.srcLog (base.phaseOf 0) = some 5 ∧
    (after (.exchangeEntrySend 0) (during .exchange 0 1 listed)).net.length = 1 := by
  unfold TileCanonical; decide +kernel

theorem test_exchange_write_lands :
    Memory.get (after (.exchangeWriteLand 0) (netted base xchPkt.kind)).tile.shadowBank 63 = 9 ∧
    (after (.exchangeWriteLand 0) (netted base xchPkt.kind)).acks.map Ack.fault = [none] ∧
    (after (.exchangeWriteLand 0) (netted (base.onTile (fun t => { t with shadow := [{ word := 14, writer := 5, phase := 0 }] })) xchPkt.kind)).acks.map
      (fun a => a.fault.map Exc.code) = [some cRACE] := by decide +kernel

/-- A second tile of the forme. -/
def withSecond (s : State) (due : Bool) : State := { s with tiles := s.tiles ++ [{ s.tile with phys := 1, logical := 1, swapDue := due }] }

theorem witness_BanksSwap :
    ((during .exchange 0 1 id).formeAt 0).map Forme.phase = some .exchange ∧ (during .exchange 0 1 id).tile.secondCond = true ∧
    (during .exchange 0 1 id).tile.xch.faults = [] ∧ (during .exchange 0 1 (fun t => { t with unacked := 1 })).tile.secondCond = false ∧
    (during .swapping 0 2 (fun t => { t with swapDue := true })).tile.swapDue = true ∧
    ((withSecond (during .swapping 0 2 (fun t => { t with swapDue := true })) true).tiles.map (fun t => (t.forme, t.phys, t.swapDue)) =
      [(0, 0, true), (0, 1, true)]) ∧
    ((during .swapping 0 2 id).formeAt 0).map (fun f => (f.stopDue, decide (f.k + 1 < f.supersteps))) = some (false, true) ∧
    ((during .swapping 1 2 id).formeAt 0).map (fun f => (f.stopDue, decide (f.supersteps ≤ f.k + 1))) = some (false, true) ∧
    (after (.secondBarrierComplete 0) (during .exchange 0 1 id)).tile.swapDue = true ∧
    (after (.bankSwap 0) (during .swapping 0 2 (fun t => { t with swapDue := true }))).tile.activeA = false ∧
    (after (.bankSwap 0) (during .swapping 0 2 (fun t => { t with swapDue := true }))).formes.map (fun f => (f.k, f.v)) = [(1, 3)] ∧
    (after (.bankSwap 0) (during .swapping 1 2 (fun t => { t with swapDue := true }))).formes.map (fun f => (f.k, f.phase)) = [(2, .ended)] := by
  decide +kernel

/-- A stop was asked for in time. -/
def stopped (k : Nat) : State :=
  (during .swapping k 2 (fun t => { t with swapDue := true })).modForme 0 (fun f => { f with stops := [{ reason := 2, tile := 0, ctx := 0, code := 0, late := false }] })

theorem witness_BanksSwap_stop :
    ∀ k ∈ [0, 1], ((stopped k).formeAt 0).map (fun f => (f.phase, f.stopDue)) = some (.swapping, true) ∧ (stopped k).tile.swapDue = true ∧
      (after (.bankSwap 0) (stopped k)).formes.map (fun f => (f.k, f.phase, f.stopping, f.resumeTo)) =
        [(k + 1, .halted, true, if k = 0 then .compute else .ended)] := by
  decide +kernel

/-- Contexts of `mask` have executed gsync, context 0 among those of GSMASK. -/
def grouped (synced : BitVec 4) : State :=
  (inBlock (base.onCtx (fun c => { c with wait := .gsync }))).onTile (fun t => { t with gsynced := synced })

theorem witness_GroupBarriersRelease :
    ((grouped 1).formeAt 0).map (fun f => f.phase.runs) = some true ∧ (grouped 1).tile.block = some 0 ∧
    (grouped 1).tile.gsMask &&& ~~~(grouped 1).tile.gsynced = 0 ∧ (grouped 0).tile.gsMask &&& ~~~(grouped 0).tile.gsynced ≠ 0 ∧
    (grouped 1).tile.ctxs[(0 : Fin 4)].wait = .gsync ∧ ((grouped 1).tileAt 0).isSome = true ∧
    (after (.groupBarrierComplete 0 0) (grouped 1)).ctx.wait = .nothing ∧ (after (.groupBarrierComplete 0 0) (grouped 1)).ctx.pc = 0x100004 := by
  decide +kernel

/-- A floating-point exception of context 0 in window 3, the clocks at P. -/
def inexact (p : Word) : State :=
  atTime (handled (base.onCtx (fun c => { c with fpx := some { window := 3, elem := 0, flags := 1, pc := 0x100000, step := 0 } }))) p p

theorem witness_FloatExceptionsAreCollected :
    (∀ p : Word, p = 255 ∨ p = 256 → (inexact p).fpxOf 0 3 = [((inexact p).tile, 0, { window := 3, elem := 0, flags := 1, pc := 0x100000, step := 0 })] ∧
      (inexact p).tileAt 0 = some (inexact p).tile) ∧
    ((inexact 255).die (physDie 0)).p.toNat / 64 ≤ (3 : Word).toNat ∧ (3 : Word).toNat < ((inexact 256).die (physDie 0)).p.toNat / 64 ∧
    (inexact 256).tile.ctxs[(0 : Fin 4)].wins = [] ∧ (inexact 256).tile.ctxs[(0 : Fin 4)].route cFPX = .trap ∧
    frameOk ((inexact 256).as 0 0).forme (inexact 256).tile.ctxs[(0 : Fin 4)].tfp = true ∧ TileCanonical (inexact 256).tile ∧
    (after (.fpxCollection 0 3) (inexact 256)).tile.fpxpc = 0x100000 ∧ (after (.fpxCollection 0 3) (inexact 256)).ctx.stat stEXL = true := by
  refine ⟨?_, by unfold TileCanonical; decide +kernel⟩
  rintro p (rfl | rfl) <;> decide +kernel

/-- The forme of `base` stands halted, with save records from 0x200000 on, in a page of 2 MiB that ASID 0 maps. -/
def halted : State :=
  ((List.range 12).foldl (fun s c => s.modCtl c (fun k =>
    { k with roots := [0], leaves := [{ asid := 0, va := 0x200000, entry := leafWord 2 0 0 false 0x200 0, used := false }] })) base).modForme 0
    (fun f => { f with phase := .halted, img := { f.img with savebase := 0x200000 } })
def saving : State := (halted.ctxsOf 0).foldl (fun s x => s.abandon x.1.phys x.2) halted

/-- The four records of the tile are written. -/
theorem test_save_records_written : (writeRecords halted.forme (saving.ctxsOf 0) saving).1.isOk = true := by decide +kernel

theorem witness_FormesHaltAndAreSaved :
    ((base.formeAt 0).map (fun f => (f.phase.runs, decide (f.wdog < wdogPeriod f), f.fault)) = some (true, true, none)) ∧
    (((base.modForme 0 (fun f => { f with wdog := 16000000 })).formeAt 0).map (fun f => decide (wdogPeriod f ≤ f.wdog)) = some true) ∧
    (halted.formeAt 0).map (fun f => (f.phase, f.saved, f.saveFailed)) = some (.halted, false, false) ∧
    halted.canSave halted.forme = true ∧ halted.forme.stopping = false ∧ halted.forme.fault = none ∧ halted.formeAt 0 = some halted.forme ∧
    (withSb halted [pendEntry]).tile.sb.map (fun e => (e.ctx, e.st)) = [(0, .pending)] ∧
    (after (.wdog 0) (base.modForme 0 (fun f => { f with wdog := 16000000 }))).formes.map Forme.phase = [.halted] := by decide +kernel

theorem witness_TimeAdvances :
    base.released = true ∧ (base.die 0).p = 0 ∧ base.sendDue 0 = false ∧ State.reset.released = false ∧ base.ticks = [] ∧
    (State.modDie base 0 (fun d => { d with l := 64 })).sendDue 0 = true ∧
    ({ base with ticks := [{ src := 1, dst := 0, l := 0, p := 5 }] }).ticks[0]? = some { src := 1, dst := 0, l := 0, p := 5 } ∧
    ((State.modDie base 1 (fun d => { d with l := 24 })).die 1).l = 24 ∧ ((State.modDie base 1 (fun d => { d with l := 23 })).die 1).l = 23 ∧
    ((after (.localTick 0) (atTime base 5 0)).die 0).l = 6 ∧ ((after (.localTick 0) (atTime base 5 0)).die 0).p = 1 ∧
    (after (.tickUpdateSend 0) (atTime base 64 7)).ticks.map TickUpd.p = [7, 7] ∧
    ((after (.tickUpdateArrive 0) { State.modDie base 1 (fun d => { d with l := 24 }) with ticks := [{ src := 1, dst := 0, l := 0, p := 5 }] }).die 0).updates =
      [(1, 5)] ∧
    ((after (.localTick 0) (State.modDie (atTime base 5 0) 0 (fun d => { d with updates := [(1, 5)] }))).die 0).est.head? = some (1, 29) ∧
    ((after (.localTick 0) (State.modDie (atTime base 5 0) 0 (fun d => { d with updates := [(1, 5)] }))).die 0).updates = [] := by
  decide +kernel

/-! ### The host -/

/-- A record of a kind, with the words 10 to 13 of its body and the completion value 9. -/
def hostRec (opc : Nat) (w10 w11 w12 w13 : Word) : HRec :=
  { words := (Vector.replicate 32 0).set 0 (BitVec.ofNat 64 (0x4C52 * 2 ^ 48 + opc * 2 ^ 40)) |>.set 1 9 |>.set 10 w10 |>.set 11 w11 |>.set 12 w12
      |>.set 13 w13
    index := 0, started := false, effect := false, complete := false }

/-- Queue 63 runs, with a ring of 16 records from 0x4000. -/
def queueOn (s : State) (f : HQueue → HQueue) : State := s.modQueue 63 (fun x => f { x with en := true, st := 1, log2n := 4, base := 0x4000, vec := 3 })

/-- A record is the one that queue 63 has accepted. -/
def accepted (s : State) (r : HRec) : State := queueOn s (fun x => { x with accepted := [r] })

/-- Bytes at an address of host memory. -/
def hostBytes (s : State) (a : Nat) (bs : List Byte) : State :=
  { s with hostMem := (bs.zipIdx.map (fun b => ((a + b.2, b.1) : Host.Cell))).filter (fun c => c.2 != 0) }

/-- A NOP record with its CRC, the first of its queue. -/
def nopBytes : List Byte :=
  ([0x4C520A0000000000, 5] ++ List.replicate 29 (0 : Word) ++ [0x26DA462A00000000]).flatMap (bytesOf 8)

/-- One record is announced in host memory. -/
def announcing (bs : List Byte) (tail : Lane) : State := hostBytes (queueOn base (fun x => { x with tail })) 0x4000 bs

set_option maxRecDepth 20000 in
theorem witness_RecordsEnterTheirQueue :
    base.serves = true ∧ (queueOn base id).serves = true ∧ ((announcing nopBytes 1).queue 63).en = true ∧ ((announcing nopBytes 1).queue 63).st = 1 ∧
    ((announcing nopBytes 1).queue 63).loc = false ∧ ((announcing nopBytes 1).queue 63).fetched = none ∧
    (((announcing nopBytes 1).queue 63).tail - ((announcing nopBytes 1).queue 63).head).toNat = 1 ∧
    (((announcing nopBytes 17).queue 63).tail - ((announcing nopBytes 17).queue 63).head).toNat = 17 ∧ (announcing nopBytes 1).hostBad 0x4000 256 = false ∧
    ({ announcing nopBytes 1 with host := { (announcing nopBytes 1).host with badPages := [4] } }).hostBad 0x4000 256 = true ∧
    recordBad 63 ((announcing nopBytes 1).queue 63) nopBytes (recOf nopBytes 0) = none ∧
    recordBad 63 ((announcing [] 1).queue 63) (List.replicate 256 0) (recOf (List.replicate 256 0) 0) = some 2 ∧
    (queueOn base (fun x => { x with fetched := some (hostRec 10 0 0 0 0) })).acceptable 63 = true ∧
    (queueOn base (fun x => { x with fetched := some (hostRec 10 0 0 0 0), accepted := [hostRec 10 0 0 0 0] })).acceptable 63 = false ∧
    (∀ i < 64, (base.host.turn + i) % 64 ≠ 63 → (queueOn base (fun x => { x with fetched := some (hostRec 10 0 0 0 0) })).acceptable ((base.host.turn + i) % 64) = false) ∧
    ((queueOn (mapped [page 0] base) (fun x => { x with loc := true, tailva := 0x200008 })).queue 63).loc = true ∧
    (ccWords (queueOn (mapped [page 0] base) (fun x => { x with loc := true, tailva := 0x200008 })) 0 0x200008 1).1.isOk = true ∧
    ((after (.recordFetch 63) (announcing nopBytes 1)).queue 63).fetched = some (recOf nopBytes 0) ∧
    ((after (.recordAccept 63) (queueOn base (fun x => { x with fetched := some (hostRec 10 0 0 0 0) }))).queue 63).head = 1 ∧
    ((after (.tailwordPoll 63) (queueOn (mapped [page 0] { base with hbm := [(0x3C008, 6)] }) (fun x => { x with loc := true, tailva := 0x200008 }))).queue 63).tail = 6 := by
  decide +kernel

theorem witness_QueuesStartAndEnd :
    (base.queue 63).en = false ∧ ((queueOn base id).queue 63).en = true ∧ ((queueOn base id).queue 63).accepted = [] ∧
    ((queueOn base id).queue 63).fetched = none ∧
    ((after (.queueEnable 63 0x8000050200000007) base).queue 63).log2n = 5 ∧ ((after (.queueDestroy 63) (queueOn base id)).queue 63).done = BitVec.allOnes 64 := by
  decide +kernel

/-- An image of one tile, without code. -/
def imageBytes : List Byte :=
  (([0x4B43464700010000, 320, 0xF68212F700010001] ++ List.replicate 11 0 ++ [0x10000000040] ++ List.replicate 17 0 ++ [0x0FF00000] ++ List.replicate 7 0 :
    List Word)).flatMap (bytesOf 8)

/-- The record names the image's bytes in host memory under handle 2. -/
def registering : State := hostBytes (accepted base (hostRec 1 2 0x1000 320 0)) 0x1000 imageBytes

set_option maxRecDepth 20000 in
theorem witness_ImagesAreRegistered :
    Pends registering 63 1 (hostRec 1 2 0x1000 320 0) ∧ registering.imageAt 2 = none ∧ registering.hostBad 0x1000 320 = false ∧
    (hostRec 1 2 0x1000 320 0).w 10 = 2 ∧ (hostRec 1 2 0x1000 320 0).w 11 = 0x1000 ∧ (hostRec 1 2 0x1000 320 0).w 12 = 320 ∧
    (parseImage imageBytes base.host.featmask).isOk = true ∧ Memory.read registering.hostMem 0x1000 320 = imageBytes ∧
    (match parseImage imageBytes base.host.featmask with
      | .ok img => (modelRun { img, x0 := 0, y0 := 0, b := none }).isNone
      | .error _ => false) = true ∧
    (match parseImage (List.replicate 320 0) base.host.featmask with | .error e => e.status != 0 | .ok _ => false) = true ∧
    Pends (accepted base (hostRec 2 2 0 0 0)) 63 2 (hostRec 2 2 0 0 0) ∧ Pends (accepted base (hostRec 10 0 0 0 0)) 63 10 (hostRec 10 0 0 0 0) ∧
    (({ base with images := [(2, base.forme.img)] }).imageAt 2).isSome = true ∧
    (after (.register 63) registering).images.map (fun x => (x.1, x.2.tiles.map (fun t => (t.stage, t.block)))) = [(2, [(0, none)])] ∧
    ((after (.register 63) registering).queue 63).done = 9 ∧
    ((after (.unregister 63) (accepted base (hostRec 2 2 0 0 0))).queue 63).err = 0x0600000000000000 ∧
    ((after (.nopRecord 63) (accepted base (hostRec 10 0 0 0 0))).queue 63).accepted = [] := by
  unfold Pends; decide +kernel

/-- An image of one tile as it is registered, and a LAUNCH of it as forme 5 at (63, 63). -/
def small : Image :=
  { w := 1, h := 1
    tiles := [{ stage := 0, disp := 0, bar := 0, gs := 0, block := none, period := 1, list := [], xlist := [], prog := [], gal := [] }] }
def launchRec (b : Word) : HRec := hostRec 3 (BitVec.ofNat 64 (2 + 5 * 2 ^ 8 + 63 * 2 ^ 32 + 63 * 2 ^ 40)) b 0 0
def launching (img : Image) (b : Word) : State := { accepted base (launchRec b) with images := [(2, img)] }
def made : State := launch 63 (launching small 1)

theorem witness_FormesAreLaunched :
    (∀ b : Word, b = 0 ∨ b = 1 → Pends (launching small b) 63 3 (launchRec b) ∧ (launching small b).unchecked 63 (launchRec b) = true) ∧
    (accepted base (launchRec 1)).imageAt 2 = none ∧ (launching small 1).imageAt 2 = some small ∧ (launchForme 63 (launchRec 0) small).b = 0 ∧
    (launchForme 63 (launchRec 1) small).b = 1 ∧ (launchForme 63 (launchRec 1) small).id = 5 ∧ base.formeAt 5 = none ∧
    (made.formeAt 5).isSome = true ∧ (launchForme 63 (launchRec 1) small).sizesMet = true ∧ (launchForme 63 (launchRec 1) { small with lmain := 320 }).sizesMet = false ∧
    base.placeFree (launchForme 63 (launchRec 1) small) = true ∧ made.placeFree (launchForme 63 (launchRec 1) small) = false ∧
    (launchForme 63 (launchRec 1) small).portsOuter = true ∧ base.boundElsewhere (launchForme 63 (launchRec 1) small) = false ∧
    modelRun { img := small, x0 := 63, y0 := 63, b := some 1 } = none ∧ ((launchRec 1).w 10).getLsbD 63 = false ∧
    made.tiles.map (fun t => (t.forme, t.logical, t.phys)) = [(0, 0, 0), (5, 0, 4095)] ∧
    (made.formeAt 5).map Forme.phase = some .making ∧ (∀ c : Fin 4, made.genFree 4095 c (made.genOf 4095 c + 1) = true) ∧ small.streams = [] ∧
    (after (.makeReady 5) made).formes.map (fun f => (f.id, f.phase, f.v)) = [(0, .compute, base.forme.v), (5, .compute, 1)] := by
  refine ⟨?_, by decide +kernel⟩
  rintro b (rfl | rfl) <;> (unfold Pends; decide +kernel)

/-- A record about forme 0 in queue 63, which is not the queue of the forme's own LAUNCH. -/
def about (opc : Nat) (f : Forme → Forme) : State := (accepted base (hostRec opc 0 0 0 0)).modForme 0 f

theorem witness_RecordsActOnFormes :
    (∀ k ∈ [4, 5, 6, 7], Pends (about k id) 63 k (hostRec k 0 0 0 0) ∧ Pends (accepted base (hostRec k 0x500 0 0 0)) 63 k (hostRec k 0x500 0 0 0)) ∧
    (hostRec 4 0x500 0 0 0).forme = 5 ∧ base.formeAt 5 = none ∧ (hostRec 4 0 0 0 0).forme = 0 ∧
    ((about 4 id).formeAt 0).map (fun f => (f.phase.runs, f.stopping, f.saved, f.phase == .making, f.queue == 63)) = some (true, false, false, false, false) ∧
    (hostRec 4 0 0 0 0).started = false ∧
    ((about 4 (fun f => { f with phase := .stopped, dumped := true })).formeAt 0).map (fun f => (f.phase, f.dumped)) = some (.stopped, true) ∧
    ((about 5 (fun f => { f with phase := .halted, saved := true })).formeAt 0).map (fun f => (f.phase, f.saved, f.resumableNow)) = some (.halted, true, true) ∧
    (about 6 id).restartFree base.forme = true ∧
    (after (.stop 63) (about 4 id)).formes.map (fun f => f.stops.map StopReq.reason) = [[2]] ∧
    (after (.preempt 63) (about 5 id)).formes.map Forme.phase = [.halted] ∧
    ((after (.resume 63) (about 6 id)).queue 63).err = 0x0C00000000000000 ∧
    (after (.kill 63) (about 7 id)).formes.length = 0 := by
  unfold Pends; decide +kernel

/-- A forme without tiles that stands stopped before superstep k, its dump written, and a RESUME record about it. -/
def stood (k : Nat) : Forme := { base.forme with phase := .stopped, dumped := true, saved := true, k }

def standing (k : Nat) : State := { accepted base (hostRec 6 0 0 0 0) with formes := [stood k], tiles := [] }

theorem witness_ResumeEndsAFormeThatHasRun : (∀ k ∈ [0, 9],
      (standing k).formeAt 0 = some (stood k) ∧ (stood k).resumableNow = true ∧ (standing k).restartFree (stood k) = true ∧
      (match (resumeForme (stood k) (standing k)).1 with
        | .ok u => (u.queue 63).accepted == [hostRec 6 0 0 0 0] && !(u.queue 63).closing &&
            (u.formeAt 0).map (fun g => decide (g.k < g.supersteps)) == some (k == 0)
        | .error _ => false) = true) ∧
    (after (.resume 63) (standing 0)).formes.map Forme.phase = [.compute] ∧ (after (.resume 63) (standing 9)).formes.map Forme.phase = [.ended] := by
  decide +kernel

/-- The line of the data span in one home slice. -/
def copying (w10 n : Word) : State := accepted (hostBytes (withL2 base .valid) 0x1000 [4, 5]) (hostRec 8 w10 0x1000 0x20003E n)

theorem witness_CopiesBetweenHostAndDevice :
    (∀ n : Word, n = 0 ∨ n = 2 → ∀ w : Word, w = 0 ∨ w = 1 → Pends (copying w n) 63 8 (hostRec 8 w 0x1000 0x20003E n)) ∧
    Memory.wf (copying 0 2).hostMem = true ∧ (copying 0 2).ofu = [] ∧ (copying 0 2).copies 0 (0x20003E / 64) = [homeLine .valid] ∧ 0x20003E % 64 + 2 ≤ 64 ∧
    (copying 0 2).hostBad 0x1000 2 = false ∧ (copying 0 2).l2 = [homeLine .valid] ∧ (homeLine .valid).dirty = false ∧
    (after (.copy 63) (copying 0 2)).l2.map (fun l => lineByte l.data 63) = [5] ∧ Memory.get (after (.copy 63) (copying 1 2)).hostMem 0x1000 = 0 ∧
    ((after (.copy 63) (copying 1 0)).queue 63).err = 0x0F00000000000000 := by
  refine ⟨?_, by decide +kernel⟩
  rintro n (rfl | rfl) w (rfl | rfl) <;> (unfold Pends; decide +kernel)

theorem witness_HostCommandsAct :
    Pends (accepted base (hostRec 9 (op 1) 0 0 0)) 63 9 (hostRec 9 (op 1) 0 0 0) ∧ xmCmd (op 1) = 1 ∧ (base.ctl 0).roots.contains 0 = false ∧
    ((mapped [] base).ctl 0).roots.contains 0 = true ∧ Pends (accepted (mapped [] base) (hostRec 9 (op 1) 0 0 0)) 63 9 (hostRec 9 (op 1) 0 0 0) ∧
    (∀ w : Word, w = 0x130000000 ∨ w = 0x10000 → Pends (accepted base (hostRec 11 w 0 0 0)) 63 11 (hostRec 11 w 0 0 0)) ∧ base.forme.count = 1 ∧
    (base.logicalTile 0 0).map Tile.phys = some 0 ∧ base.forme.phase ≠ .making ∧
    Pends (accepted base { hostRec 11 0 0 0 0 with started := true }) 63 11 { hostRec 11 0 0 0 0 with started := true } ∧
    (accepted base { hostRec 11 0 0 0 0 with started := true }).intrPending 63 = false ∧
    ((after (.mapcmd 63) (accepted base (hostRec 9 (op 1) 0 0 0))).ctl 11).roots = [0] ∧
    (after (.intr 63) (accepted base (hostRec 11 0x130000000 0 0 0))).net.map Packet.kind = [.intr 3 1 0] := by
  refine ⟨by unfold Pends; decide +kernel, by decide +kernel, by decide +kernel, by decide +kernel, by unfold Pends; decide +kernel, ?_, by unfold Pends; decide +kernel⟩
  rintro w (rfl | rfl) <;> (unfold Pends; decide +kernel)

/-- An event is held, the event ring enabled or not. -/
def holdingEvent (en : Bool) : State :=
  { base with host := { base.host with held := [List.replicate 8 7], ev := { base := 0x1000, en, log2n := 4, vec := 2 } } }

theorem witness_HostRegistersAndRings :
    base.serves = true ∧ State.reset.serves = false ∧ Memory.wf base.hostMem = true ∧ (holdingEvent true).host.held = [List.replicate 8 7] ∧
    (List.replicate 8 (7 : Word)).length = 8 ∧ (holdingEvent true).host.ev.room = true ∧ (holdingEvent false).host.ev.room = false ∧
    (base.onTile (fun t => { t with trace := { t.trace with waiting := [(1, [], 3)] } })).tile.trace.waiting = [(1, [], 3)] ∧ (base.tileAt 0).isSome = true ∧
    (after (.barRegisterWrite 0x60 0x100000002) { base with host := { base.host with errCorr := 3, errPoison := 3 } }).host.errCorr = 2 ∧
    Memory.get (after .eventRecordWrite (holdingEvent true)).hostMem 0x1008 = 7 ∧
    (after (.traceFrameWrite 0) (base.onTile (fun t => { t with trace := { t.trace with waiting := [(1, [7], 3)] } }))).tile.trace.lost = 3 ∧
    (after .functionLevelReset (queueOn base id)).formes.length = 0 := by decide +kernel

/-- Die 3 at a temperature, throttled or not, cool for a time. -/
def heated (temp : BitVec 8) (throt : Bool) (cool : Nat) : State := base.modDie 3 (fun d => { d with temp, throt, cool })

theorem witness_PackageEvents :
    State.reset.railsCut = false ∧ State.reset.fatal = none ∧ State.reset.powered = false ∧
    (({ State.reset with powered := true }).die 3).ramped < 64 ∧ ((heated 100 false 0).die 3).throt = false ∧ ((heated 99 false 0).die 3).temp.toNat < 100 ∧
    ((heated 94 true 1600000).die 3).throt = true ∧ (heated 110 false 0).fatal = none ∧ (heated 115 false 0).railsCut = false ∧
    base.serves = true ∧ base.host.rollback.toNat < (1 : Lane).toNat ∧ (base.tileAt 0).isSome = true ∧ (base.tileD 0).frozen = false ∧
    ((after (.clusterRamp 3) { State.reset with powered := true }).die 3).ramped = 1 ∧
    ((after (.thermalThrottle 3) (heated 100 false 0)).die 3).throt = true ∧ ((after (.throttleClear 3) (heated 94 true 1600000)).die 3).throt = false ∧
    (after (.thermalFatal 3) (heated 114 false 0)).formes.map Forme.phase = [.halted] ∧ (after (.thermalFatal 3) (heated 115 false 0)).railsCut = true ∧
    (after (.rollbackCounterRaise 1) base).host.rollback = 1 ∧ (after (.linkDown 15) base).linkDown = 0x8000 ∧
    (after (.uncorrectableError (.local 0 5)) base).tile.poison = [5] ∧ (after (.uncorrectableError (.core 0)) base).tile.frozen = true ∧
    (after (.scrub [.corrected]) base).host.errCorr = 1 := by decide +kernel

/-- The firmware of reset is accepted, and is not where the rollback counter has passed its version. -/
def rolled : State := { State.reset with host := { State.reset.host with rollback := 0x10000 } }

theorem witness_PackageEvents_firmware : State.reset.fwAccepted = true := by decide +kernel

theorem witness_PackageEvents_rollback :
    rolled.firmware.boot.version.toNat < rolled.host.rollback.toNat ∧ rolled.railsCut = false ∧ rolled.fatal = none ∧ rolled.powered = false := by
  decide +kernel

theorem witness_PackageEvents_errors :
    base.powered = true ∧ (withL2 base .valid).l2[0]? = some (homeLine .valid) ∧
    (after (.uncorrectableError (.l2 0 7)) (withL2 base .valid)).l2.map L2Line.poison = [0x80] ∧
    (after (.uncorrectableError (.l2Taint 0 7)) (withL2 base .valid)).l2.map L2Line.taint = [0x80] ∧
    (after (.uncorrectableError (.shadow 0 5)) base).tile.shadow.map (fun x => (x.word, x.writer)) = [(5, errWriter)] := by
  decide +kernel

theorem witness_RecordsActOnFormes_halted :
    (∀ k ∈ [(4, false), (5, true)], Pends (about k.1 (fun f => { f with phase := .halted, saveFailed := k.2 })) 63 k.1 (hostRec k.1 0 0 0 0)) ∧
    (after (.stop 63) (about 4 (fun f => { f with phase := .halted }))).formes.map (fun f => (f.phase, f.stops.length)) = [(.halted, 1)] ∧
    (after (.preempt 63) (about 5 (fun f => { f with phase := .halted, saveFailed := true }))).formes.map (fun f => (f.phase, f.saveFailed)) =
      [(.halted, false)] := by
  unfold Pends; decide +kernel

/-- Forme 0 was launched by the record that queue 63 has accepted, and has run its last superstep. -/
def ending : State := (accepted base { launchRec 1 with effect := true }).modForme 0 (fun f => { f with queue := 63, hrec := 0, phase := .ended })

theorem witness_LaunchedFormesEnd :
    (ending.launchEnds 63).map Forme.id = some 0 ∧ ending.forme.hrec = 0 ∧ (ending.queue 63).closing = false ∧
    (ending.queue 63).owns { launchRec 1 with effect := true } = true ∧
    (after (.launch 63) ending).formes.length = 0 ∧ ((after (.launch 63) ending).queue 63).done = 9 ∧
    (after (.launch 63) ending).idle.map Tile.phys = [0] := by
  decide +kernel

/-- Vector 63 is pending behind its mask. -/
def maskedVector (m : Bool) : State :=
  { base with host := { base.host with
      msixPend := (1 : Word) <<< 63
      msixTable := vset base.host.msixTable 63 { addr := 0x1000, data := 5, mask := m } } }

theorem witness_HostRegistersAndRings_msix :
    (maskedVector true).host.msixPend.getLsbD 63 = true ∧ ((0x5 : Word)).getLsbD 32 = false ∧ ((0x100000005 : Word)).getLsbD 32 = true ∧
    (after (.barRegisterWrite (0x80008 + 16 * 63) 5) (maskedVector true)).host.msix = [63] ∧
    (after (.barRegisterWrite (0x80008 + 16 * 63) 0x100000005) (maskedVector true)).host.msix = [] ∧
    ((after (.barRegisterWrite (0x80000 + 16 * 63) 7) (maskedVector true)).msixEnt 63).addr = 7 := by
  decide +kernel

theorem witness_HostCommandsAct_noSpace :
    ((full base).ctl 0).roots.contains 0 = false ∧ ((full base).ctl 11).fits (2 ^ 21) = false ∧ (base.ctl 11).fits (2 ^ 21) = true ∧
    ((after (.mapcmd 63) (accepted (full base) (hostRec 9 (op 1) 0 0 0))).queue 63).err = 0x0E00000000000000 := by
  decide +kernel

/-- An image whose switch waits for a flit that never comes. -/
def stuck : Image := { small with tiles := small.tiles.map (fun t => { t with prog := [0x11000000] }) }

theorem witness_FormesAreLaunched_modelRun :
    modelRun { img := stuck, x0 := 63, y0 := 63, b := some 1 } = some { sub := 2, tiles := [0], words := [0], tick := 0 } ∧
    ((after (.launch 63) (launching stuck 1)).queue 63).err = 0x0900000000000000 := by
  decide +kernel

/-! ### The whole machine -/

/-- The state in which a given word is to be fetched next, before the core turns to its context. -/
def placed (w : Nat) : State := State.reset.placeWord 32 w

/-- Its L1I empty, the line at its home slice; its context fetches beyond every span. -/
def missing (w : Nat) : State :=
  (placed w).modTile 0 (fun t => { t with l1i := [] }) |> fun s => { s with l2 := [{ homeLine .valid with line := 0x4000, data := BitVec.ofNat 512 w }] }
def astray : State := (placed 1).modTile 0 (fun t => { t with ctxs := vset t.ctxs 0 { placeCtx with pc := 0x300000 } })

/-- What a fetch answers: the word; 0 where it fails. -/
def fetchedWord (s : State) : Option Lane :=
  match (fetch s).1 with
  | .ok w => some w
  | .error _ => none

theorem witness_StepRunsTheInstruction_core :
    (placed 1).moves = [.core 0] ∧ (placed 1).railsCut = false ∧ (placed 1).powered = true ∧ ((placed 1).tileAt 0).isSome = true ∧
    (∀ s ∈ [placed 1, placed 0xFFFFFFFF, missing 1, astray], (({ s with moves := [] } : State).pick (s.tileD 0)) = some 0 ∧
      gate (({ s with moves := [] } : State).turn 0 0) = .go) ∧
    fetchedWord (({ placed 1 with moves := [] } : State).turn 0 0) = some 1 ∧ reads 1 = some (.add 0 0 0) ∧
    ((fetch (({ placed 1 with moves := [] } : State).turn 0 0)).2.tile.l1i.length = 1) ∧ ((placed 1).tileD 0).l1i.length = 1 ∧
    fetchedWord (({ placed 0xFFFFFFFF with moves := [] } : State).turn 0 0) = some 0xFFFFFFFF ∧
    reads 0xFFFFFFFF = none ∧
    fetchedWord (({ missing 1 with moves := [] } : State).turn 0 0) = some 1 ∧
    ((fetch (({ missing 1 with moves := [] } : State).turn 0 0)).2.tile.l1i.length = 1) ∧ ((missing 1).tileD 0).l1i.length = 0 ∧
    fetchedWord (({ astray with moves := [] } : State).turn 0 0) = none ∧
    (match step (placed 0x0450C001) with | .next t => ((t.tileD 0).ctxs[0]).pc == 0x100004 && (t.tileD 0).issuing == 0 | _ => false) = true ∧
    (match step (missing 1) with | .next t => ((t.tileD 0).ctxs[0]).pc == 0x100000 && (t.tileD 0).l1i.length == 1 | _ => false) = true ∧
    (match step astray with | .next t => (t.tileD 0).frozen | _ => false) = true := by decide +kernel

/-- Contexts 1 and 3 run too; context 3 issued last. -/
def threads (off : Bool) : State :=
  (placed 1).modTile 0 (fun t => { t with ctxs := vset (vset t.ctxs 1 placeCtx) 3 placeCtx, issuing := 3, offCore := off })

theorem witness_StepRunsTheInstruction_turns :
    ((threads false).tileD 0).offCore = false ∧ gate ((threads false).as 0 3) ≠ .idle ∧ (((threads false).tileD 0).ctxs[(3 : Fin 4)]).stall = none ∧
    (threads false).pick ((threads false).tileD 0) = some 3 ∧ (threads true).pick ((threads true).tileD 0) = some 0 ∧
    gate ((threads true).as 0 0) ≠ .idle ∧ gate ((threads true).as 0 2) = .idle ∧
    ((threads true).modTile 0 (fun t => { t with issuing := 1 })).pick (((threads true).modTile 0 (fun t => { t with issuing := 1 })).tileD 0) = some 3 ∧
    Wait.wfi.open = false := by decide +kernel

theorem witness_StepRunsTheInstruction_other :
    (placed 0x21404004).moves = [.switch 0] ∧ ((placed 0x21404004).tileD 0).sw.word = some (.rep 0 5 0 0 4 4) ∧ EventIs (.localTick 3) (.localTick 3) ∧
    (match step (placed 0x21404004) with | .next t => (t.tileD 0).sw.rem == 5 | _ => false) = true ∧
    (match step { placed 1 with moves := [.event (.localTick 3)] } with | .next t => (t.die 3).l == 1 | _ => false) = true ∧
    (match checkAccess (({ placed 1 with moves := [] } : State).turn 0 0) .fetch 0x100000 4 with | .ok (.span 0 _) => true | _ => false) = true ∧
    (({ placed 1 with moves := [] } : State).turn 0 0).ctx.fetched = [] ∧
    ((({ placed 1 with moves := [] } : State).turn 0 0).tile.l1i.map (fun l => (l.asid, l.line)) = [(0, 0x4000)]) :=
  ⟨by decide +kernel, by decide +kernel, rfl, by decide +kernel⟩

theorem witness_DecodeOfEncode :
    Instr.WellFormed (.vscatter 63 63 63 7) ∧ encode (.vscatter 63 63 63 7) = some 0xB7FFFF0F ∧
    Instr.WellFormed (.bus 1 31 9 4095) ∧ (encode (.bus 1 31 9 4095)).isSome = true ∧ isRoute (.bus 1 31 9 4095) = true := by
  unfold Instr.WellFormed; decide +kernel

theorem witness_CanonicalKeptByEveryStep :
    Canonical (placed 1) ∧ (match step (placed 1) with | .next _ => true | _ => false) = true := by
  refine ⟨?_, by decide +kernel⟩
  unfold Canonical TileCanonical; decide +kernel

/-! ### No stop -/

/-- The package stops only without firmware that it accepts, and with its rails cut. -/
theorem test_stops :
    rolled.fwAccepted = false ∧ (match step { rolled with moves := [.core 0] } with | .fault .noFirmware => true | _ => false) = true ∧
    (match step { State.reset with railsCut := true, moves := [.core 0] } with | .fault .railsCut => true | _ => false) = true := by decide +kernel

/-- A core that is barred from issue by a window, one that has a fault to take first, and one that waits for its own unit. -/
def barred (st : WinState) : State :=
  (placed 1).modTile 0 (fun t => { t with
    ctxs := vset t.ctxs 0 { placeCtx with
      nextWin := 1
      wins := [{ id := 0, ipc := 0x100000, step := 0, rem := 0, dst := 5, vec := false, n := 0, kind := .load 1 true, st
                 addr := 0, aux := 0, tnt := false }] } })

/-- What the gate answers: barred, a fault first, or neither. -/
def gateIs (s : State) : Nat :=
  match gate s with
  | .closed _ => 1
  | .fault _ _ => 2
  | _ => 0

theorem witness_StepRunsTheInstruction_barred :
    gateIs (({ barred .waiting with moves := [] } : State).turn 0 0) = 1 ∧ gateIs (({ barred (.failed { code := 0x11 }) with moves := [] } : State).turn 0 0) = 2 ∧
    (∀ st ∈ ([.waiting, .failed { code := 0x11 }] : List WinState), (({ barred st with moves := [] } : State).pick ((barred st).tileD 0)) = some 0) ∧
    ((threads false).modTile 0 (fun t => { t with ctxs := vset t.ctxs 3 { placeCtx with stall := some .muldiv } })).pick
      (((threads false).modTile 0 (fun t => { t with ctxs := vset t.ctxs 3 { placeCtx with stall := some .muldiv } })).tileD 0) = some 3 ∧
    ((threads false).modTile 0 (fun t => { t with ctxs := vset t.ctxs 3 { placeCtx with stall := some .port } })).pick
      (((threads false).modTile 0 (fun t => { t with ctxs := vset t.ctxs 3 { placeCtx with stall := some .port } })).tileD 0) = some 0 ∧
    lineTaint ({ placeLine 1 with poison := 1 } : L1Line).poison 0 4 = true := by
  decide +kernel

theorem witness_WordsDecode :
    decode 0x02EA4401 = .ok (.add 46 41 4) ∧ encode (.add 46 41 4) = some 0x02EA4401 ∧ isRoute (.add 46 41 4) = false ∧
    decodeRoute 0x11400000 = .ok (.route 0 5 0 0 0 0 0 0 0) ∧ encode (.route 0 5 0 0 0 0 0 0 0) = some 0x11400000 :=
  ⟨rfl, rfl, rfl, rfl, rfl⟩

theorem witness_ReservedWordsAreRefused :
    fld 0x0000001B 0 8 = 27 ∧ fld 0xC4000003 26 6 = 0x31 ∧ fld 0xC4000003 0 8 = 3 ∧ fld 0x54000380 7 3 = 7 ∧ fld 0x54000380 26 6 = 0x15 ∧
    fld 0x5800000E 1 3 = 7 ∧ fld 0x5800000E 26 6 = 0x16 ∧ fld 0xD40003FF 26 6 = 0x35 ∧ csrAssigned (fld 0xD40003FF 0 10) = false ∧
    fld 0xD4001009 12 2 ≠ 0 ∧ csrReadOnly (fld 0xD4001009 0 10) = true ∧ 10 < fld 0xB0000000 28 4 := by
  decide +kernel

/-! ### Clauses beside the plain cases: memory -/

theorem witness_AtomicsOnLocalStore_release :
    AmoForm (.amoDAdd 5 6 7 2 0) 2 8 5 6 7 2 0 ∧ Issues (.amoDAdd 5 6 7 2 0) (atLocal 0x80000 1) ∧ commitCheck (atLocal 0x80000 1) = .go ∧
    locOf (atLocal 0x80000 1) .atomic (localVa + 0x80000) 8 = some 0x80000 ∧ (atLocal 0x80000 1).tile.poisoned 0x80000 8 = false ∧
    (after (.amoDAdd 5 6 7 2 0) (atLocal 0x80000 0x1FF)).tile.readLocal 0x80001 1 = [1] ∧
    (after (.amoDAdd 5 6 7 2 0) (atLocal 0x80000 0x1FF)).tile.main = (atLocal 0x80000 0x1FF).tile.main ∧
    AmoForm (.amoDAdd 5 6 7 3 0) 2 8 5 6 7 3 0 ∧ Issues (.amoDAdd 5 6 7 3 0) (atLocal 0 1) ∧
    AmoForm (.amoDAdd 5 6 7 0 1) 2 8 5 6 7 0 1 ∧ Issues (.amoDAdd 5 6 7 0 1) (atLocal 0 1) ∧
    (∀ i ∈ ([.amoDAdd 5 6 7 3 0, .amoDAdd 5 6 7 0 1] : List Instr), (after i (handled (atLocal 0 1))).ctx.stat stEXL = true) := by
  refine ⟨by unfold AmoForm; decide, by unfold Issues; decide +kernel, by decide +kernel, by decide +kernel, by decide +kernel, by decide +kernel,
    by decide +kernel, by unfold AmoForm; decide, by unfold Issues; decide +kernel, by unfold AmoForm; decide, by unfold Issues; decide +kernel, by decide +kernel⟩

/-- An atomic of order sc and scope .sys, announced and resolved or not. -/
def scAtomic (resolved : Bool) : State :=
  { atSpan 0 0 1 with sc := [{ id := 0, window := 0, tile := 0, ctx := 0, va := some 0x200000, size := 8, resolved }] }

theorem witness_AtomicsThroughSpans_ordered :
    AmoForm (.amoDAdd 5 6 7 3 3) 2 8 5 6 7 3 3 ∧
    (∀ s ∈ [atSpan 0 0 1, scAtomic false, scAtomic true, withSb (atSpan 0 0 1) [pendEntry], (atSpan 0 0 1).onTile (fun t => { t with upd := [heldLine] })],
      Issues (.amoDAdd 5 6 7 3 3) s ∧ s.ctx.wins.all Window.isLanded = true) ∧
    (∀ s ∈ [atSpan 0 0 1, scAtomic false, scAtomic true], commitCheck s = .go ∧ s.tile.upd = [] ∧ s.writesAcked = true) ∧
    (atSpan 0 0 1).ownSc = none ∧ (scAtomic true).ownSc.map (scAtomic true).scReady = some true ∧
    (scAtomic false).ownSc.map (scAtomic false).scReady = some false ∧
    (after (.amoDAdd 5 6 7 3 3) (atSpan 0 0 1)).sc.map (fun q => (q.va, q.size, q.resolved)) = [(some 0x200000, 8, false)] ∧
    (after (.amoDAdd 5 6 7 3 3) (atSpan 0 0 1)).reqs = [] ∧ (after (.amoDAdd 5 6 7 3 3) (scAtomic false)).reqs = [] ∧
    (after (.amoDAdd 5 6 7 3 3) (scAtomic true)).reqs.map Req.va = [0x200000] ∧
    (after (.amoDAdd 5 6 7 3 3) (withSb (atSpan 0 0 1) [pendEntry])).ctx.stall = some .commit ∧
    (after (.amoDAdd 5 6 7 3 3) ((atSpan 0 0 1).onTile (fun t => { t with upd := [heldLine] }))).pushes.map Push.upd = [heldLine] ∧
    (after (.amoDAdd 5 6 7 0 2) ((atSpan 0 0 1).onTile (fun t => { t with upd := [heldLine] }))).pushes.map Push.upd = [heldLine] ∧
    (after (.amoDAdd 5 6 7 0 2) ((atSpan 0 0 1).onTile (fun t => { t with upd := [heldLine] }))).reqs.length = 1 := by
  refine ⟨by unfold AmoForm; decide, by unfold Issues; decide +kernel, by decide +kernel⟩

/-- An atomic's reply, of an order and a scope; the tile holds a clean copy and an SC operation. -/
def awaitingAs (o sc : Nat) : State :=
  let s := withL1 (awaiting (.done 7 true)) [dataLine]
  { s with reqs := s.reqs.map (fun r => { r with kind := .atomic 2 false 1 0 false 5 o sc })
           sc := [{ id := 0, window := 0, tile := 0, ctx := 0, va := some 0x200000, size := 4, resolved := true }] }

theorem witness_AtomicCompletes_acquire :
    (∀ k ∈ [(1, 1), (3, 3), (1, 0), (2, 2), (0, 3)], Acts ((awaitingAs k.1 k.2).as 0 0) ∧ (awaitingAs k.1 k.2).fusedTile (awaitingAs k.1 k.2).tile = false ∧
      (after (.atomicComplete 0 0) (awaitingAs k.1 k.2)).ctx.readX 5 = (7, true) ∧ (after (.atomicComplete 0 0) (awaitingAs k.1 k.2)).sc = [] ∧
      (after (.atomicComplete 0 0) (awaitingAs k.1 k.2)).tile.l1d = if k = (1, 1) ∨ k = (3, 3) then [] else [dataLine]) := by
  unfold Acts; decide +kernel

/-- The tile holds an update-only line of the data span with word 15 pending, of function fn and width. -/
def holding (fn : Nat) (wide : Bool) (v : Word) : State :=
  (atSpan 0 60 v).onTile (fun t => { t with upd := [{ heldLine with fn, wide, valid := 0x8001, vals := List.replicate 16 5 }] })

theorem witness_UpdatesAreHeldAndFlushed_lines :
    UpdForm (.updAdd 0 6 7) 1 4 6 7 ∧ UpdForm (.updFmax 6 7) 9 4 6 7 ∧ UpdForm (.updMin 1 6 7) 5 8 6 7 ∧
    (∀ s ∈ [holding 1 false 9, holding 2 false 9, holding 1 true 9, atSpan ncBit 60 9, atSpan chkBit 60 9], Issues (.updAdd 0 6 7) s ∧
      s.forme.ofuMode = false ∧ s.tile.upd.all (fun u => u.vals.length == 16) = true) ∧ Issues (.updMin 1 6 7) (atSpan 0 56 9) ∧
    (∀ s ∈ [holding 1 false 9, holding 2 false 9, holding 1 true 9], s.uncachedPage 0 0x20003C = false ∧ s.tile.upd.length = 1) ∧
    (after (.updAdd 0 6 7) (holding 1 false 9)).tile.upd.map (fun u => (u.valid, u.vals.getD 15 0, u.vals.getD 0 0)) = [(0x8001, 14, 5)] ∧
    (∀ s ∈ [holding 2 false 9, holding 1 true 9], (after (.updAdd 0 6 7) s).tile.upd.map (fun u => (u.fn, u.wide, u.valid)) = [(1, false, 0x8000)] ∧
      (after (.updAdd 0 6 7) s).pushes.map (fun q => q.upd.valid) = [0x8001]) ∧
    (∀ s ∈ [atSpan ncBit 60 9, atSpan chkBit 60 9], (after (.updAdd 0 6 7) s).tile.upd = [] ∧
      (after (.updAdd 0 6 7) s).pushes.map (fun q => q.upd.valid) = [0x8000]) ∧
    (after (.updMin 1 6 7) (atSpan 0 56 9)).tile.upd.map (fun u => (u.wide, u.valid)) = [(true, 0x80)] ∧
    Issues .updFlush (holding 1 false 9) ∧ (after .updFlush (holding 1 false 9)).pushes.length = 1 := by
  refine ⟨.inl ⟨0, by decide, rfl, by decide⟩, .inr ⟨rfl, by decide⟩, .inl ⟨1, by decide, rfl, by decide⟩, ?_⟩
  unfold Issues; decide +kernel

/-- The forme of the acting tile sums exactly. -/
def ordered (s : State) : State := s.modForme 0 (fun f => { f with img := { f.img with modes := f.img.modes ||| (1 <<< 52) } })

/-- An exact push of the f32 number v to the first word of the data span, and the sum that stands there. -/
def sumPush (v : Word) : Push := { push 7 false with ofu := true, upd := { heldLine with fn := 7, valid := 1, vals := v :: List.replicate 15 0 } }
def sumOf (n : Int) : OfuSum :=
  { slice := 0, asid := 0, va := 0x200000, sum := n, pinf := false, ninf := false, nan := false, allNegZero := true, taint := true, dom := none, formes := [0] }

theorem witness_OrderedUpdatesSumExactly :
    Issues (.updFadd 6 7) (ordered (atSpan 0 0 0x3F800000)) ∧ (ordered (atSpan 0 0 0)).forme.ofuMode = true ∧
    (after (.updFadd 6 7) (ordered (atSpan 0 0 0x3F800000))).pushes.map (fun q => (q.ofu, q.upd.valid, q.upd.vals.getD 0 0, q.upd.taint)) =
      [(true, 1, 0x3F800000, 0)] ∧
    (∀ o ∈ [[], [sumOf 3]], let s := { base with pushes := [sumPush 0x3F800000], ofu := o }
      mergeHeld s 0 (sumPush 0x3F800000) = false ∧ (sumPush 0x3F800000).dom = none ∧
      (after (.updateMerge 0) s).ofu.map OfuSum.sum = [2 ^ 149 + (if o = [] then 0 else 3)] ∧ (after (.updateMerge 0) s).pushes = []) ∧
    exactF32 0x3F800000 = 2 ^ 149 ∧ exactF32 0x80000001 = -1 := by
  unfold Issues; decide +kernel

/-- The first barrier of a forme in ordered float mode, with a sum at a line that holds 1.0. -/
def folding (n : Int) : State :=
  { ordered (during .compute 0 1 arrived) with ofu := [sumOf n], l2 := [{ spanLine with data := 0xFFFFFFFF3F800000 }] }

theorem witness_OrderedUpdatesSumExactly_fold :
    ((folding 1).formeAt 0).map Forme.phase = some .compute ∧ (∀ u ∈ (folding 1).tilesOf 0, u.firstCond = true) ∧ (folding 1).pushes = [] ∧
    (sumOf 1).va % 4 = 0 ∧ (folding 1).l2At 0 0 (0x200000 / 64) = some { spanLine with data := 0xFFFFFFFF3F800000 } ∧ spanLine.fill = .valid ∧
    (∀ k ∈ [((1 : Int), 0xFFFFFFFF3F800000), (2 ^ 149, 0xFFFFFFFF40000000), (-2 ^ 149, 0xFFFFFFFF00000000)],
      (after (.firstBarrierComplete 0) (folding k.1)).l2.map (fun l => (l.data, l.taint, l.dirty)) = [(BitVec.ofNat 512 k.2, 1, true)] ∧
      (after (.firstBarrierComplete 0) (folding k.1)).ofu = []) := by
  decide +kernel

/-- Windows of x3 and of x5, the first landed with 9, the second as given. -/
def opened (st : WinState) : State :=
  base.onCtx (fun c => { c with
    nextWin := 2
    wins := [{ id := 0, ipc := 0x100000, step := 0, rem := 4, dst := 3, vec := false, n := 0, kind := .load 3 false, st := .landed 9 true, addr := 0, aux := 0, tnt := false },
      { id := 1, ipc := 0x100000, step := 0, rem := 5, dst := 5, vec := false, n := 0, kind := .load 3 false, st, addr := 0, aux := 0, tnt := true }] })

/-- A tile of a fused cluster: tiles 0 to 15 of a forme of 4 × 4 with fused clusters. -/
def fused (s : State) : State :=
  { s.modForme 0 (fun f => { f with img := { f.img with modes := f.img.modes ||| (1 <<< 55) } }) with
    tiles := (List.range 16).map (fun i => { s.tile with phys := tileInCluster (clusterOf 0) i, logical := i }) }

theorem witness_FencesOrder_windows :
    (∀ st ∈ ([.landed 4 false, .waiting, .failed { code := 0x11 }] : List WinState), ∀ i ∈ ([.fence 2 0, .fence 4 1] : List Instr), Issues i (opened st) ∧
      commitCheck (opened st) = .go ∧ (opened st).ctx.wins.map Window.id = [0, 1] ∧ (opened st).tile.upd = [] ∧ (opened st).writesAcked = true) ∧
    (opened (.landed 4 false)).ctx.wins.all Window.isLanded = true ∧
    (after (.fence 0 1) (opened (.landed 4 false))).ctx.wins = [] ∧ (after (.fence 0 1) (opened (.landed 4 false))).ctx.readX 5 = (4, false) ∧
    (after (.fence 0 1) (opened (.landed 4 false))).ctx.readX 3 = (9, true) ∧ (after (.fence 0 1) (opened (.landed 4 false))).ctx.pc = 0x100004 ∧
    (after (.fence 4 1) (opened .waiting)).ctx.stall = some .mem ∧ (after (.fence 4 1) (handled (opened (.failed { code := 0x11, kind := 1 })))).ctx.pc = 0x100000 ∧
    (after (.fence 4 1) (handled (opened (.failed { code := 0x11, kind := 1 })))).ctx.stat stUEXL = true := by
  unfold Issues; decide +kernel

theorem witness_FencesOrder_scopes :
    (∀ s ∈ [withL1 base [dataLine], fused (withL1 base [dataLine])], Issues (.fence 2 0) s ∧ Issues (.fence 3 0) s ∧ Issues (.fence 1 0) s) ∧
    (fused base).fusedTile (fused base).tile = true ∧ base.fusedTile base.tile = false ∧
    (after (.fence 2 0) (withL1 base [dataLine])).tile.l1d = [] ∧ (after (.fence 2 0) (fused (withL1 base [dataLine]))).tile.l1d = [dataLine] ∧
    (after (.fence 3 0) (fused (withL1 base [dataLine]))).tile.l1d = [] ∧ (after (.fence 1 0) (withL1 base [dataLine])).tile.l1d = [dataLine] ∧
    Issues (.fence 2 1) (holding 1 false 9) ∧ commitCheck (holding 1 false 9) = .go ∧
    (after (.fence 2 1) (holding 1 false 9)).pushes.length = 1 ∧ (after (.fence 2 1) (holding 1 false 9)).tile.upd = [] ∧
    (after (.fence 2 1) (holding 1 false 9)).ctx.pc = 0x100000 ∧ (after (.fence 1 1) (holding 1 false 9)).ctx.pc = 0x100004 ∧
    (after (.fence 2 0) (holding 1 false 9)).ctx.pc = 0x100004 := by
  unfold Issues; decide +kernel

/-- A fault of another context's command is not reported to this one; one of its own is. -/
theorem witness_TimelinesAreReadAndAwaited_own :
    let s := awaitTl 3 1 [{ cmdFault with ctx := 1 }]
    (s.as 0 0).tlFaults 0x8028 (s.engs.flatMap EngCtx.faults) = [] ∧ (s.as 0 0).timeline 0x8028 = some (3, s.engs.flatMap EngCtx.faults) ∧
    (after (.longLatencyLanding 0 0 0) s).ctx.wins.map Window.st = [.landed 3 true] := by decide +kernel

theorem witness_GalleysAreReceived_poison :
    let s := (galleyed 4080 4096).onTile (fun t => { t with poison := [4080 / 8] })
    s.tile.headPoison 2 = true ∧ s.tile.headPad 2 = false ∧ galHEAD (s.tile.galley 2).ptr ≠ galTAIL (s.tile.galley 2).ptr ∧
    (∀ i ∈ ([.recv 7 2, .rpoll 7 2, .radv 2] : List Instr), Issues i s ∧ (after i s).tile.frozen = true) := by
  unfold Issues; decide +kernel

/-- Context 0 runs the routine that entry 31 launched, which is armed again or not. -/
def entered (e : TaskE) : State := inRoutine (tasked e) (some 31)

theorem witness_RoutinesStartAndEnd_entry :
    (∀ e ∈ ([{ pend := true, cnt := 5, thr := 6, arm := true }, { pend := true, cnt := 6, thr := 6, arm := true, rearm := true }, { pend := true, cnt := 6, thr := 6 }] : List TaskE),
      Issues .rdone (entered e) ∧ (entered e).ctx.running = some { routine := 0, entry := some 31 } ∧ commitCheck (entered e) = .go ∧ (entered e).tile.upd = [] ∧
      (entered e).ownSettled = true ∧ (∀ k < 31, (vget (entered e).tile.tasks k {}).due = false) ∧ (entered e).forme.phase = .compute ∧
      (after .rdone (entered e)).ctx.st = .noThread) ∧
    vget (after .rdone (entered { pend := true, cnt := 6, thr := 6, arm := true, rearm := true })).tile.tasks 31 {} =
      { pend := true, arm := true, rearm := true, thr := 6, cnt := 0 } ∧
    (after .rdone (entered { pend := true, cnt := 6, thr := 6, arm := true, rearm := true })).tile.ready.map Launch.entry = [some 31] ∧
    vget (after .rdone (entered { pend := true, cnt := 5, thr := 6, arm := true })).tile.tasks 31 {} = { cnt := 5, thr := 6, arm := true } ∧
    Issues .rdone (withSb (entered {}) [pendEntry]) ∧ (after .rdone (withSb (entered {}) [pendEntry])).ctx.stall = some .commit ∧
    Issues .rdone ((entered {}).onTile (fun t => { t with upd := [heldLine] })) ∧
    (after .rdone ((entered {}).onTile (fun t => { t with upd := [heldLine] }))).pushes.map Push.upd = [heldLine] := by
  unfold Issues; decide +kernel

/-- The dispatch context that takes the routine held taints, registers and a vector progress. -/
theorem witness_RoutinesStartAndEnd_start :
    let s := readied.onTile (fun t => t.modCtx 3 (fun c =>
      { c with v := vset c.v 31 (Vector.replicate 64 9), fpctl := 1, qctl := 1, vbeat := 5, csrTaint := BitVec.allOnes 512
               taint := { c.taint with x := BitVec.allOnes 32, lr := true } }))
    let x := (after (.routineStart 0) s).tile.ctxs[(3 : Fin 4)]
    s.startable s.tile 0 = true ∧ s.tile.freeDispatch = some 3 ∧ x.readVElem 31 63 = (0, false) ∧ x.taint = {} ∧ x.fpctl = 0 ∧ x.vbeat = 0 ∧
      x.csrTaint.getLsbD 0x13 = false ∧ x.csrTaint.getLsbD 0x0B = true := by
  decide +kernel

/-! ### Clauses beside the plain cases: vector memory -/

/-- Elements 64 bytes apart, of which the tile holds the first alone. -/
def partly : State := withL1 (atSpan 0 0 64) [dataLine]

theorem witness_VectorLoads_partly :
    Issues (.vld 2 6 7 4 0 0) partly ∧ partly.ctx.vecFull = false ∧ partly.ctx.wins = [] ∧ partly.tile.upd = [] ∧ partly.reqs = [] ∧
    (match checkElems partly .read ((List.range 8).map (fun e => 0x200000 + BitVec.ofNat 64 (64 * e))) with
      | .ok l => l.all (fun t => match t with | .span 1 p => !p.nc && !p.chk | _ => false) | .error _ => false) = true ∧
    pushOn partly 0 0 0x8000 = false ∧ sbCover partly.tile 0 0 0x200000 4 = none ∧ l1Find partly partly.tile 0 0x200000 = some dataLine ∧
    (∀ e < 8, 0 < e → sbCover partly.tile 0 0 (0x200000 + 64 * e) 4 = none ∧ l1Find partly partly.tile 0 (0x200000 + 64 * e) = none) ∧
    (after (.vld 2 6 7 4 0 0) partly).ctx.wins.map (fun w => (w.st, w.rem)) = [(.waiting, 4)] ∧
    (after (.vld 2 6 7 4 0 0) partly).reqs.length = 8 ∧
    ((after (.vld 2 6 7 4 0 0) partly).reqs.filter Req.isDone).map Req.kind = [.vload 0 0] := by
  unfold Issues; decide +kernel

/-- The requests stand in reverse order. -/
theorem witness_AnsweredLanesLand_order :
    let all := vecLoading (fun e => .done (BitVec.ofNat 64 (e + 1)) false)
    let s := { all with reqs := all.reqs.reverse }
    s.winReqs 0 0 0 = s.reqs ∧ (∀ e < 8, (s.reqs.any (fun r => r.kind == .vload 0 e)) = true) ∧
    (after (.longLatencyLanding 0 0 0) s).ctx.wins.map Window.st = [.landedV [1, 2, 3, 4, 5, 6, 7, 8] false] := by decide +kernel

/-- A window of eight lanes of a v or an o register, of which a later one has written the first three. -/
def shortLanding (dst k : Nat) : State :=
  (withV base 31 (List.replicate 64 5)).onCtx (fun c => { c with
    nextWin := 1
    wins := [{ id := 0, ipc := 0, step := 0, rem := 0, dst, vec := true, n := 8, kind := .vld, st := .boundV (List.replicate 8 3) false
               addr := 0, aux := 0, tnt := false, written := k }] })

theorem witness_BoundLanesLandAndClose_short :
    (∀ d ∈ [31, 32, 39], ∀ o ∈ [0, 3, 8], (shortLanding d o).tile.ctxs[(0 : Fin 4)].wins.map (fun w => (w.dst, w.written)) = [(d, o)] ∧
      (after (.longLatencyLanding 0 0 0) (shortLanding d o)).ctx.wins = [] ∧
      ((after (.longLatencyLanding 0 0 0) (shortLanding d o)).ctx.readVElem d 2).1 = (if o = 0 then 3 else if d = 31 then 5 else 0) ∧
      ((after (.longLatencyLanding 0 0 0) (shortLanding d o)).ctx.readVElem d 7).1 = (if o < 8 then 3 else if d = 31 then 5 else 0)) ∧
    ((after (.longLatencyLanding 0 0 0) (shortLanding 31 0)).ctx.readVElem 31 8).1 = 5 := by decide +kernel

theorem witness_VectorStores_forms :
    VecStoreForm (.vst 5 6 0 0 1 0) (evens (taintX (atSpan 0 0 0) 6)) 5 0 (fun e => ((evens (taintX (atSpan 0 0 0) 6)).ctx.readX 6).1 + BitVec.ofNat 64 e * 4)
      ((evens (taintX (atSpan 0 0 0) 6)).ctx.participates 1) true ∧
    VecStoreForm (.vscatter 40 6 7 0) (atSpan 0 0 0) 40 0 (fun e => ((atSpan 0 0 0).ctx.readX 6).1 + (((atSpan 0 0 0).ctx.readVElem 7 e).1).setWidth 64)
      (fun _ => true) false :=
  ⟨.inl ⟨6, 0, 1, 0, rfl, rfl, rfl, by decide +kernel⟩, .inr ⟨6, 7, rfl, rfl, rfl, by decide +kernel⟩⟩

/-- The context runs a routine that declares offsets wr of main store for writing. -/
def declaring (wr : List (Nat × Nat)) : State :=
  inRoutine ((atLocal 0 0).modForme 0 (fun f => { f with img := { f.img with routines := [{ entry := 0x100000, rd := [], wr, rs := [], ws := [], ports := [] }] } })) none

theorem witness_VectorStores_routine :
    (∀ wr ∈ [[(0, 32)], [(0, 8)], []], Issues (.vst 5 6 0 0 0 0) (declaring wr) ∧ (declaring wr).ctx.vAct = false) ∧
    (∀ e < 8, localOk (declaring []).forme (4 * e) 4 = true) ∧
    (∀ e < 8, (undeclFault (declaring [(0, 32)]) (.loc (4 * e)) (localVa + BitVec.ofNat 64 (4 * e)) 4 true).isSome = false) ∧
    (∀ e < 8, (undeclFault (declaring [(0, 8)]) (.loc (4 * e)) (localVa + BitVec.ofNat 64 (4 * e)) 4 true).isSome = decide (2 ≤ e)) ∧
    Memory.get (after (.vst 5 6 0 0 0 0) ((declaring [(0, 32)]).onCtx (fun c => { c with v := vset c.v 5 (Vector.replicate 64 9) }))).tile.main 28 = 9 ∧
    (after (.vst 5 6 0 0 0 0) (handled (declaring [(0, 8)]))).ctx.stat stEXL = true := by
  unfold Issues; decide +kernel

/-- The data span, CHECKED, its first line at its home slice with the given records. -/
def checkedLine (sh : List Shadow) : State := withLines (atSpan chkBit 0 0) [{ spanLine with shadow := sh }]

theorem witness_VectorStores_checked :
    (∀ sh ∈ ([[], [{ word := 3, writer := 7, phase := 0 }]] : List (List Shadow)), Issues (.vst 5 6 0 0 0 0) (checkedLine sh) ∧
      (checkedLine sh).tile.sb.length + 8 ≤ 32 ∧ (checkedLine sh).tile.upd = [] ∧
      (match checkElems (checkedLine sh) .write ((List.range 8).map (fun e => 0x200000 + BitVec.ofNat 64 (4 * e))) with
        | .ok l => l.all (fun t => match t with | .span 1 p => p.chk && !p.sink | _ => false) | .error _ => false) = true ∧
      ((checkedLine sh).l2At 0 0 0x8000).map L2Line.fill = some .valid) ∧
    raceOther [{ word := 3, writer := 7, phase := 0 }] (wordsOf 12 4) 0 ((checkedLine []).phaseOf 0) = some 7 ∧
    raceOther [{ word := 3, writer := 7, phase := 0 }] (wordsOf 8 4) 0 ((checkedLine []).phaseOf 0) = none ∧
    (after (.vst 5 6 0 0 0 0) (checkedLine [])).tile.sb.map SbEntry.mask = [0xFFFFFFFF] ∧
    (after (.vst 5 6 0 0 0 0) (checkedLine [])).l2.map (fun l => l.shadow.map Shadow.writer) = [List.replicate 8 0] ∧
    (after (.vst 5 6 0 0 0 0) (handled (checkedLine [{ word := 3, writer := 7, phase := 0 }]))).ctx.stat stEXL = true := by
  unfold Issues; decide +kernel

/-- Tainted data for a SINK span, and untainted data. -/
theorem witness_VectorStores_sink :
    (∀ s ∈ [atSpan sinkBit 0 0, taintX (atSpan sinkBit 0 0) 6], Issues (.vst 5 6 0 0 0 0) s ∧
      (match checkElems s .write ((List.range 8).map (fun e => 0x200000 + BitVec.ofNat 64 (4 * e))) with
        | .ok l => l.all (fun t => match t with | .span 1 p => p.sink && !p.chk | _ => false) | .error _ => false) = true) ∧
    (after (.vst 5 6 0 0 0 0) (atSpan sinkBit 0 0)).tile.sb.map SbEntry.taint = [false] ∧
    (after (.vst 5 6 0 0 0 0) (handled (taintX (atSpan sinkBit 0 0) 6))).ctx.stat stEXL = true ∧
    (after (.vst 5 6 0 0 0 0) (handled (taintX (atSpan sinkBit 0 0) 6))).tile.sb = [] := by
  unfold Issues; decide +kernel

/-! ### Clauses beside the plain cases: the matrix unit and the engines -/

/-- A command of row 0, column 0 and depth position 0 under tag T0, of an operation and a type, its scale strip at offset 4,096 of
main store; it heads the queue of a tile whose cluster holds a token, with the given main store and active plane. -/
def scaled (opc ty tag0 : Nat) (seedOk : Bool) : MxCmd := { cmd opc ty 0x100010001 with tag0, seedOk, scale := localVa + 0x1000 }
def running (c : MxCmd) (m : Memory) (pl : Plane) : State :=
  (bursting (queued (withMain base m) 1 c) true).onTile (fun t => { t with mx := { t.mx with active := pl } })

/-- E4M3 codes: 1.0 in row 0 and in the plane's first place, with scales of 1 (E = 63). -/
def oneMain : Memory := [(0, 0x38), (0x1000, 0xF8), (0x1001, 0x01)]
def onePlane : Plane := { ty := 4, tag := 0, len := 16, codes := [0x38], scales := [0x1F8] }

theorem witness_ProductsAndPlaneLoadsRun_scaled :
    (∀ o ∈ [3, 4], let s := running (scaled o 4 0 true) oneMain onePlane
      s.tile.mxPoisoned (s.cmdRanges 0 (scaled o 4 0 true)) = false ∧ s.tokenWait s.tile = false ∧ mxRtag (scaled o 4 0 true).word0 = 0 ∧
      s.cmdBlock 0 (scaled o 4 0 true) = 16 ∧ stripWord s.tile (scaled o 4 0 true) 2 0 0 = 0x1F8 ∧ stripWord s.tile (scaled o 4 0 true) 2 0 1 = 0 ∧
      swTag 0x1F8 = 0 ∧ swBad 0x1F8 = false ∧ swKtype 0x1F8 = 0 ∧
      (after (if o = 3 then .mmacExec 0 else .mmaczExec 0) s).tile.mx.acc[3][0] = 0x3F800000 ∧
      (after (if o = 3 then .mmacExec 0 else .mmaczExec 0) s).tile.mx.faults = []) := by decide +kernel

theorem witness_ProductsAndPlaneLoadsRun_load :
    let c := scaled 1 4 0 true
    let s := running c oneMain {}
    s.tile.mxPoisoned (s.cmdRanges 0 c) = false ∧ mxAsrc c.word0 = false ∧ mxDepth 4 % s.cmdBlock 0 c = 0 ∧
    (∀ n < 16, ∀ k < 2, swTag (stripWord s.tile c 2 n k) = 0 ∧ swBad (stripWord s.tile c 2 n k) = false ∧ swKtype (stripWord s.tile c 2 n k) = 0) ∧
    (after (.mldExec 0) s).tile.mx.shadow.ty = 4 ∧ packedCode (after (.mldExec 0) s).tile.mx.shadow.codes 8 0 = 0x38 ∧
    (after (.mldExec 0) s).tile.mx.shadow.scales.getD 0 0 = 0x1F8 ∧ (after (.mldExec 0) s).tile.mx.shadow.len = 16 := by decide +kernel

/-- The deferred fault that a command leaves: code, subcode and the two tags. -/
def left (i : Instr) (s : State) : List (BitVec 8 × BitVec 8 × Nat) :=
  (after i s).tile.mx.faults.map (fun f => (f.exc.code, f.exc.sub, f.exc.info1.toNat % 256))

/-- Scale words of one kind throughout the strip, of 64 words at most. -/
def strip (lo hi : Byte) : Memory :=
  (List.range 64).flatMap (fun k => ([(0x1000 + 2 * k, lo), (0x1001 + 2 * k, hi)] : Memory).filter (fun c => c.2 != 0))

/-- QCTL sets a block length of 64 for tag 0. -/
def blk64 (c : MxCmd) : MxCmd := { c with word0 := (base.onCtx (fun x => { x with qctl := 4 })).mxWord0 (mxOpc c.word0) 0 0 3 (mxType c.word0) 0 0 0 0 }

theorem witness_MatrixCommandsFault_load :
    left (.mldExec 0) (running (scaled 1 4 5 false) [] {}) = [(0x71, 2, 0x55)] ∧
    left (.mldExec 0) (running (scaled 1 4 5 true) [] {}) = [(0x71, 1, 0x50)] ∧
    left (.mldExec 0) (running (scaled 1 4 0 true) (strip 0 0x14) {}) = [(0x71, 1, 0x05)] ∧
    (blk64 (scaled 1 4 0 true)).seedOk = true ∧ base.cmdBlock 0 (blk64 (scaled 1 4 0 true)) = 64 ∧
    left (.mldExec 0) (running (blk64 (scaled 1 4 0 true)) [] {}) = [(0x70, 4, 0)] ∧
    left (.mldExec 0) (running (scaled 1 4 0 true) (strip 1 0) {}) = [(0x70, 2, 0)] ∧
    left (.mldExec 0) (running (scaled 1 4 0 true) [] {}) = [] := by decide +kernel

theorem witness_MatrixCommandsFault_product :
    (∀ p ∈ [(.mmacExec 0, 3), (.mmaczExec 0, 4)], let o : Nat := p.2
      left p.1 (running (scaled o 4 5 false) [] { onePlane with tag := 2 }) = [(0x71, 2, 0x52)] ∧
      left p.1 (running (scaled o 4 0 true) [] {}) = [(0x70, 3, 0)] ∧
      left p.1 (running { scaled o 4 0 true with word0 := base.mxWord0 o 0 0 3 4 7 0 0 0 } [] onePlane) = [(0x71, 1, 0x70)] ∧
      left p.1 (running (scaled o 4 0 true) (strip 0 0x14) onePlane) = [(0x71, 1, 0x50)] ∧
      left p.1 (running (scaled o 4 0 true) [] { onePlane with len := 64 }) = [(0x71, 3, 0)] ∧
      left p.1 (running (scaled o 4 0 true) (strip 1 0) onePlane) = [(0x70, 2, 0)] ∧
      left p.1 (running (scaled o 3 0 true) [] { tag := 5 }) = [(0x70, 4, 0)]) := by decide +kernel

/-- The context that enqueued the command has another generation: its forme halts. -/
theorem witness_MatrixCommandsFault_generation :
    let s := (running (scaled 1 4 5 false) [] {}).onCtx (fun c => { c with gen := 1 })
    (s.formeAt 0).map Forme.fault = some none ∧ left (.mldExec 0) s = [] ∧
    (after (.mldExec 0) s).formes.map (fun f => f.fault.map (fun e => (e.code, e.kind))) = [some (0x71, kForme)] := by decide +kernel

theorem witness_MatrixInstructionsEnqueue_poison :
    let s := ((atLocal 0 0x10001).onCtx (fun c => ({ c with pfxpay := 4 * 2 ^ 15, mbscl := localVa }).setStat stPFXP true)).onTile (fun t => { t with poison := [0] })
    let w := s.mxWord0 1 0 0 0 4 0 0 0 0
    Issues (.mld 0 6 7) s ∧ mxCheck s w localVa 0x10001 0 localVa = none ∧ s.tag0Poison w localVa = true ∧
    (after (.mld 0 6 7) s).tile.frozen = true := by
  unfold Issues; decide +kernel

/-- A copy from or to the data span, its lines at their home slices; byte 3 of the source is 9, tainted. -/
def spanCopy (src dst : Option Span) (pos : Nat) : EngCmd :=
  let d : Desc := (Vector.replicate 8 0).set 1 (if src.isSome then 0x200000 else localVa) |>.set 2 (if dst.isSome then 0x200040 else localVa + 256) |>.set 3 8
  { engCmd 1 d with srcHome := src, dstHome := dst, pos }
def copyingSpan (src dst : Option Span) (pos : Nat) : State :=
  withLines (engQueue (withMain base [(3, 9)]) (spanCopy src dst pos)) [{ spanLine with data := 0x09000000, taint := 1 }, { spanLine with line := 0x8001, data := 0 }]

theorem witness_CopiesMoveTheirBytes_spans :
    (∀ k ∈ ([(some (dataSpan 0), none), (none, some (dataSpan 0)), (some (dataSpan 0), some (dataSpan 0))] : List (Option Span × Option Span)), ∀ pos ∈ [0, 4],
      let s := copyingSpan k.1 k.2 pos
      s.engs.map (fun x => (x.running 1).filter (fun c => !c.held s)) = [[spanCopy k.1 k.2 pos]] ∧ (spanCopy k.1 k.2 pos).lineLeft.head? = some pos ∧
      homeBySpan s 0 (dataSpan 0) 0x200000 = 0 ∧ s.ofu = [] ∧
      (after (.ecpyExec 5 0) s).engs.map (fun x => (x.queue.length, x.finished.length)) = [if pos = 0 then (1, 0) else (0, 1)]) ∧
    Memory.get (after (.ecpyExec 5 0) (copyingSpan (some (dataSpan 0)) none 0)).tile.main 259 = 9 ∧
    (after (.ecpyExec 5 0) (copyingSpan (some (dataSpan 0)) none 0)).tile.localTaint 256 4 = true ∧
    (after (.ecpyExec 5 0) (copyingSpan none (some (dataSpan 0)) 0)).l2.map (fun l => (l.line, l.data, l.taint)) = [(0x8000, 0x09000000, 1), (0x8001, 0x09000000, 0)] ∧
    (after (.ecpyExec 5 0) (copyingSpan (some (dataSpan 0)) (some (dataSpan 0)) 0)).l2.map (fun l => (l.line, l.data, l.taint, l.dirty)) =
      [(0x8000, 0x09000000, 1, false), (0x8001, 0x09000000, 1, true)] := by
  unfold copyingSpan; decide +kernel

/-- A stream through a window of its port, of the page at 0x200000 in device page 0x3C; its first 32 bytes there are 7. -/
def windowStream (sink : Bool) : EngCmd :=
  { engCmd 3 ((Vector.replicate 8 0).set 1 0x200000 |>.set 2 (if sink then 512 else 0) |>.set 3 2) with srcHome := some (dataSpan 0) }
def windowed (sink : Bool) (out : List Flit) : State :=
  let s := engQueue ({ base.modForme 0 (fun f => { f with wdog := 9 }) with hbm := [(0x3C000, 7)] }) (windowStream sink)
  { s with streams := [{ tile := 0, side := 0, out, wins := [{ v := true, vbase := 0x200, pbase := 0x3C, pages := 1 }] }] }

theorem witness_StreamsMoveFlits_windows :
    (∀ b : Bool, ∀ out ∈ [[], [{ val := 5, taint := true }]], (∀ x ∈ (windowed b out).engs, RunsAlone (windowed b out) x 3 (windowStream b)) ∧
      (windowStream b).desc.sink = b ∧ (windowStream b).desc.portTile = 0 ∧ (windowStream b).desc.side = 0) ∧
    ((windowed false []).portAt 0 0).wins.find? (fun w => w.v && decide (w.vbase * 4096 ≤ 0x200000) && decide (0x200000 < (w.vbase + w.pages) * 4096)) =
      some { v := true, vbase := 0x200, pbase := 0x3C, pages := 1 } ∧
    TaintSet.has (windowed false []).hbmPoison (0x3C000 / 64) = false ∧ Memory.wf (windowed false []).hbm = true ∧
    ((after (.estrmExec 5 0) (windowed false [])).tile.fifo { dir := 0, thru := false }).map Flit.val = [7] ∧
    ((after (.estrmExec 5 0) (windowed false [])).portAt 0 0).src = some (5, 0, 4) ∧
    (after (.estrmExec 5 0) (windowed false [])).engs.map (fun x => x.queue.map EngCmd.pos) = [[1]] ∧
    (after (.estrmExec 5 0) (windowed false [])).formes.map Forme.wdog = [0] ∧
    Memory.get (after (.estrmExec 5 0) (windowed true [{ val := 5, taint := true }])).hbm 0x3C000 = 5 ∧
    TaintSet.has (after (.estrmExec 5 0) (windowed true [{ val := 5, taint := true }])).hbmTaint (0x3C000 / 64) = true ∧
    (after (.estrmExec 5 0) (windowed true [])).engs = (windowed true []).engs := by
  refine ⟨?_, by decide +kernel⟩
  intro b out h
  unfold RunsAlone
  revert b out
  decide +kernel

/-- An enode whose node's count has reached the threshold fires as it is installed; with the node in use it is NODEBUSY. -/
theorem witness_EnodesAreSetAside_fires :
    let s := engaged nodeDesc
    let x := engOf 0
    let y (nd : Node) : State := { s with engs := [{ x with nodes := (Vector.replicate 16 ({} : Node)).set 15 nd }] }
    (∀ nd ∈ ([{ cnt := 3 }, { cnt := 4, cmd := some (engCmd 1 (copyDesc 8)), thr := 9 }] : List Node), Issues (.enode 5 6 7) (y nd)) ∧
    (after (.enode 5 6 7) (y { cnt := 3 })).engs.map (fun x => (x.fired.length, (x.node 15).cmd.isSome, (x.node 15).cnt)) = [(1, false, 0)] ∧
    (after (.enode 5 6 7) (y { cnt := 4, cmd := some (engCmd 1 (copyDesc 8)), thr := 9 })).engs.map
      (fun x => (x.queue.length, x.finished.map (fun f => f.2.map (fun e => (e.code, e.sub))))) = [(0, [some (0x80, 5)])] := by
  unfold Issues; decide +kernel

/-! ### Clauses beside the plain cases: prefixes, windows, returns, the fabric, the host -/

/-- A prefix with fields TD, TA, TB, RTAG, RND and SAT is pending for the word at the context's PC. -/
def prefixed (td ta tb tag rnd sat : Nat) : State :=
  base.onCtx (fun c => ({ c with
    pfxpay := BitVec.ofNat 64 (td * 2 ^ 15 + ta * 2 ^ 11 + tb * 2 ^ 7 + tag * 2 ^ 3 + rnd * 2 + sat), pfxNext := some 0x100000 }).setStat stPFXP true)

/-- The decode fault of an instruction: its code. -/
def faultOf (i : Instr) (s : State) : Option (BitVec 8) := (decodeFault i s).map Exc.code

theorem witness_PrefixesMustFit :
    (∀ row ∈ prefixTable 0 0 0 0 0 0, ∀ i ∈ row.1, (instrShape i).ops.all (fun r => r.1.admits r.2) = true ∧ vlenBad (instrShape i) = false) ∧
    gate (prefixed 2 2 2 0 3 0) = .go ∧ (prefixed 2 2 2 0 3 0).ctx.stat stPFXP = true ∧ (prefixed 2 2 2 0 3 0).ctx.pfxLost = false := by
  decide +kernel

theorem witness_PrefixesMustFit_codes :
    (∀ p ∈ ([(.vfadd 1 2 3 0 0, prefixed 2 2 2 0 3 0), (.vfadd 1 2 3 0 0, prefixed 0 0 3 0 0 0), (.vadd 1 2 3 0 0, prefixed 12 0 12 0 0 1),
        (.vcvt 1 2 0 0, prefixed 3 11 0 0 3 1), (.vqnt 3 1 2 1 0, prefixed 5 0 0 15 0 1), (.mld 1 6 7, prefixed 9 0 0 15 0 0), (.mswap, prefixed 0 0 0 0 0 0)] :
        List (Instr × State)), faultOf p.1 p.2 = none) ∧
    (∀ p ∈ ([(.vfadd 1 2 3 0 0, prefixed 4 4 4 0 0 0), (.vfadd 1 2 3 0 0, prefixed 2 3 0 0 0 0), (.vfadd 1 2 3 0 0, prefixed 0 0 0 1 0 0),
        (.vfadd 1 2 3 0 0, prefixed 0 0 0 0 0 1), (.vadd 1 2 3 0 0, prefixed 0 0 0 0 1 0), (.vcvt 1 2 0 0, prefixed 0 0 1 0 0 0),
        (.vqnt 3 1 2 1 0, prefixed 6 0 0 0 0 1), (.mld 1 0 7, prefixed 4 0 0 0 0 0), (.mswap, prefixed 1 0 0 0 0 0)] :
        List (Instr × State)), faultOf p.1 p.2 = some 0x61) ∧
    (∀ s ∈ [prefixed 0 0 0 0 0 0], faultOf (.add 5 6 7) s = some 0x06) ∧
    faultOf (.vfadd 1 2 3 0 0) ((prefixed 0 0 0 0 0 0).onCtx (fun c => { c with pfxNext := some 0x100004 })) = some 0x06 ∧
    faultOf (.vfadd 1 2 3 0 0) ((prefixed 0 0 0 0 0 0).onCtx (fun c => { c with pfxLost := true })) = some 0x06 ∧
    (∀ row ∈ prefixTable 0 0 0 0 0 0, .add 5 6 7 ∉ row.1) ∧
    (after (.vfadd 1 2 3 0 0) (handled (prefixed 4 4 4 0 0 0))).ctx.stat stEXL = true ∧
    (after (.vfadd 1 2 3 0 0) (handled (prefixed 4 4 4 0 0 0))).ctx.v = (prefixed 4 4 4 0 0 0).ctx.v := by decide +kernel

/-- A window of a destination, opened with WINCHK set or not. -/
def guarded (dst : Nat) (vec chk : Bool) : State :=
  withX (base.onCtx (fun c => { c with
    nextWin := 1
    wins := [{ id := 0, ipc := 0x100040, step := 0, rem := 9, dst, vec, n := 8, kind := .value, st := .waiting, addr := 0, aux := 0, tnt := false, chk }] })) 6 0

theorem witness_WindowsAreGuarded :
    (∀ p ∈ ([(.add 5 6 7, guarded 7 false true), (.add 7 6 5, guarded 7 false true), (.vadd 1 2 3 0 0, guarded 2 true true), (.vadd 39 2 3 0 0, guarded 39 true true),
        (.ld 5 6 1 6 0, guarded 6 false true)] : List (Instr × State)), gate p.2 = .go ∧ decodeFault p.1 p.2 = none ∧
      (windowFault p.1 p.2).map (fun e => (e.code, e.tval)) = some (0x04, 0x100040)) ∧
    (∀ p ∈ ([(.add 5 6 7, guarded 7 false false), (.add 5 6 7, guarded 7 true true), (.vadd 1 2 3 0 0, guarded 3 false true), (.sendw 6 7, guarded 7 false true)] :
        List (Instr × State)), windowFault p.1 p.2 = none) ∧
    Word.field ((guarded 7 false true).ctx.readX 6).1 20 5 = 0 ∧
    (windowFault (.sendw 6 7) (withX (guarded 7 false true) 6 0x100000)).map (fun e => e.info0) = some 7 ∧
    (instrShape (.sendw 6 7)).ops.length = 2 ∧
    (after (.add 5 6 7) (handled (guarded 7 false true))).ctx.pc = 0x100000 ∧
    NamesWindow (.xs, 7) { id := 0, ipc := 0, step := 0, rem := 0, dst := 7, vec := false, n := 0, kind := .value, st := .waiting, addr := 0, aux := 0, tnt := false } := by
  refine ⟨by decide +kernel, by decide +kernel, by decide +kernel, by decide +kernel, by decide +kernel, by decide +kernel, rfl, .inl ⟨rfl, ?_⟩⟩
  decide

theorem witness_ReturnsRestoreTheirFrame_poison :
    let s := inHandler.onTile (fun t => { t with poison := [1791 / 8] })
    let b := withMain inHandler [(0, 0x10), (2, 0x10), (15, 1), (80, 0xFF), (84, 0xFF)]
    Issues .tret s ∧ frameOk s.forme s.ctx.tfp = true ∧ s.tile.poisoned 0 1792 = true ∧ (after .tret s).tile.frozen = true ∧
    inHandler.tile.poisoned 0 1792 = false ∧ inUpcall.tile.poisoned 2048 1792 = false ∧
    Issues .tret b ∧ (after .tret b).ctx.vbeat = 0x1F000000FF := by
  unfold Issues; decide +kernel

/-- A restored DSTORE is due at the PC, beside an interrupt, or at another. -/
theorem witness_InterruptsAreTaken_restored :
    let s (a : Word) := (lineSet (handled base)).onCtx (fun c => { c with dstoreAt := some a })
    (s 0x100000).ctx.dstoreAt = some (s 0x100000).ctx.pc ∧ (s 0x100004).ctx.dstoreAt ≠ some (s 0x100004).ctx.pc ∧
    gate (s 0x100004) = .go ∧ (s 0x100004).ctx.intDue = true ∧ ¬ Issues (.add 5 6 31) (s 0x100000) := by
  unfold Issues; decide +kernel

theorem witness_SwitchControlResults_fired :
    let s := (grid 0 1 id id).onTile (fun t => { t with swFired := true })
    s.tile.swFired = true ∧ (∀ i ∈ ([.ring 31 0 100, .jmp 5, .bnz 1 16, .setc 3 1, .tkwt 0 0, .switchHalt, .nop, .route 0 4 0 0 0 0 0 0 0, .rep 0 4 0 0 0 0, .bus 0 7 5 0] : List Instr),
      (after i s).tile.sw = s.tile.sw ∧ (after i s).tile.fab = s.tile.fab) := by
  decide +kernel

/-- Tile 65, in the midst of its die, with its neighbours 64 to the west and 66 to the east; a route that sends west in to east and
core W out to the west, and delivers the west flit to the core. -/
def crossing (full : Bool) : State :=
  let s := grid 65 66 (fun t => { t with fab := { t.fab with coreOut := vset t.fab.coreOut 3 [flit9] } }) (fun t => if full then { t with fab := { t.fab with sched := vset t.fab.sched 3 (List.replicate 4 flit9) } } else t)
  { s with tiles := s.tiles ++ [{ s.tileD 66 with phys := 64, fab := base.tile.fab }] }

def twoWay : Instr := .route 0 4 0 5 1 0 0 0 0

theorem witness_RouteWordsMoveFlits_several :
    swMoves 0 4 0 5 = [(1, .link 3), (3, .core 3)] ∧ swCins 1 = [3] ∧ neighbour 65 1 = some 66 ∧ neighbour 65 3 = some 64 ∧
    crossesEdge 65 1 = false ∧ crossesEdge 65 3 = false ∧ (∀ q ∈ [64, 66], ((crossing false).tileAt q).isSome = true) ∧
    (((crossing false).tileD 66).fifo { dir := 3, thru := false }).length < 4 ∧ (((crossing false).tileD 64).fifo { dir := 1, thru := false }).length < 4 ∧
    4 ≤ (((crossing true).tileD 66).fifo { dir := 3, thru := false }).length ∧
    ((after twoWay (crossing false)).tileD 66).fab.sched[3] = [flit9] ∧ ((after twoWay (crossing false)).tileD 64).fab.sched[1] = [flit9] ∧
    (after twoWay (crossing false)).tile.inQ 3 = [flit9] ∧ (after twoWay (crossing false)).tile.fab.sched[3] = [] ∧ (after twoWay (crossing false)).tile.outQ 3 = [] ∧
    (after twoWay (crossing false)).tile.swFired = true ∧
    (after twoWay (crossing true)).tile.inQ 3 = [] ∧ (after twoWay (crossing true)).tile.fab.sched[3] = [flit9] ∧
    ((after twoWay (crossing true)).tileD 64).fab.sched[1] = [] ∧ (after twoWay (crossing true)).tile.swFired = false := by
  decide +kernel

theorem witness_RouteWordsMoveFlits_general :
    SwitchRuns (crossing false) ∧ SwitchRuns (crossing true) ∧
    FireForm twoWay 0 4 0 5 1 (crossing false).tile.sw (nextWord (crossing false).tile.sw) :=
  ⟨by unfold SwitchRuns Acts; decide +kernel, by unfold SwitchRuns Acts; decide +kernel, .inl ⟨0, 0, 0, rfl, rfl⟩⟩

/-- An output that crosses a die edge, too long after the last alignment. -/
theorem witness_RouteWordsMoveFlits_late :
    let s := grid 31 1024 (fun t => { t with alignCtr := 131073 }) id
    crossesEdge 31 1 = true ∧ s.tile.fab.holdSeen.getLsbD 1 = false ∧ SwitchRuns s ∧ (s.formeAt 0).map Forme.fault = some none ∧
    (after (.route 0 4 0 0 0 0 0 0 0) s).formes.map (fun f => f.fault.map Exc.code) = [some cTKSLIP] ∧ (after (.route 0 4 0 0 0 0 0 0 0) s).edge = [] := by
  unfold SwitchRuns Acts; decide +kernel

/-- The exchange engine has read the first word of its entry before the rest. -/
theorem witness_ExchangeWritesLand_seen :
    let s := during .exchange 0 1 (fun t => { listed t with xch := { (listed t).xch with seen := [(16, [1, 2, 3, 4], false)] }, main := [(20, 9)] })
    s.tile.xch.seen.all (fun x => decide (x.1 % 4 = 0 ∧ x.1 + 4 ≤ 0x80000 ∧ x.2.1.length = 4)) = true ∧
    (s.tile.withSeen s.tile.xch.seen).readLocal 16 8 = [1, 2, 3, 4, 9, 0, 0, 0] ∧
    (after (.exchangeEntrySend 0) s).net.map Packet.kind = [.xchg 56 [1, 2, 3, 4, 9, 0, 0, 0] 1 0] := by
  decide +kernel

/-- The bank swap of a tile with a clean copy, alone and in a fused cluster. -/
theorem witness_BanksSwap_copies :
    let s := during .swapping 0 2 (fun t => { t with swapDue := true, l1d := [dataLine] })
    s.fusedTile s.tile = false ∧ (after (.bankSwap 0) s).tile.l1d = [] ∧
    (fused s).fusedTile (fused s).tile = true ∧
    (after (.bankSwap 0) (fused s)).tiles.all (fun v => v.l1d.length == 0) = true := by decide +kernel

/-- Nobody of the block has executed gsync; the watchdog starts again with the barrier. -/
theorem witness_GroupBarriersRelease_wdog :
    (grouped 0).tile.gsynced = 0 ∧ after (.groupBarrierComplete 0 0) (grouped 0) = grouped 0 ∧
    (after (.groupBarrierComplete 0 0) ((grouped 1).modForme 0 (fun f => { f with wdog := 7 }))).formes.map Forme.wdog = [0] ∧
    (after (.groupBarrierComplete 0 0) (grouped 1)).tile.gsynced = 0 := by decide +kernel

/-- After FATAL nothing is made ready or launched. -/
theorem witness_FormesAreLaunched_fatal :
    let s := { made with fatal := some { code := 0x0C } }
    s.fatal.isSome = true ∧ (s.formeAt 5).map Forme.phase = some .making ∧ after (.makeReady 5) s = s ∧
    ({ launching small 1 with fatal := some { code := 0x0C } }).pendingRec 63 3 = none ∧ ((launching small 1).pendingRec 63 3).isSome = true := by decide +kernel

/-- A frame whose close had no place waits in the trace buffer. -/
theorem witness_HostRegistersAndRings_close :
    let s := base.onTile (fun t => { t with trace := { t.trace with waiting := List.replicate 4 (1, [7], 3), buf := [5], closeDue := true, recs := 2 } })
    s.tile.trace.waiting.length = 4 ∧ (s.tileD 0).trace.haltDue = false ∧ (s.tileD 0).trace.swapDue = false ∧
    (after (.traceFrameWrite 0) s).tile.trace.waiting.length = 4 ∧ (after (.traceFrameWrite 0) s).tile.trace.buf = [] ∧
    (after (.traceFrameWrite 0) s).tile.trace.closeDue = false := by decide +kernel

/-- Errors in taint bits of registers and of device memory. -/
theorem witness_PackageEvents_taints :
    (after (.uncorrectableError (.hbm 5)) base).hbmPoison = [5] ∧ (after (.uncorrectableError (.hbmTaint 5)) base).hbmTaint = [5] ∧
    (after (.uncorrectableError (.regTaint 0 0 (.x 31))) base).ctx.readX 31 = (0, true) ∧ (after (.uncorrectableError (.regTaint 0 0 (.v 0))) base).ctx.vTaint 0 = true ∧
    (after (.uncorrectableError (.regTaint 0 0 (.o 7))) base).ctx.vTaint 39 = true ∧ (after (.uncorrectableError (.regTaint 0 0 .lr)) base).ctx.taint.lr = true ∧
    (after (.uncorrectableError (.regTaint 0 0 (.m 7))) base).ctx.taint.m.getLsbD 7 = true ∧
    (after (.uncorrectableError (.regTaint 0 0 (.a 7))) base).tile.mx.accTaint.getLsbD 7 = true ∧
    ((after (.uncorrectableError (.regTaint 0 0 (.csr 0x010))) base).as 0 0).csrBit 0x010 = true := by decide +kernel

/-- 1 and 2^-149 stand for f32 codes; a sum of theirs is rounded. -/
theorem witness_FloatOperationsRound :
    StandsFor fmtF32 0x3F800000 1 ∧ StandsFor fmtF32 0x80000000 0 ∧ Direction 0 1 0 ∧ Direction 2 (-1) 2 := by
  refine ⟨⟨0x3F800000, ?_, .inl ⟨rfl, ?_⟩⟩, ⟨0, ?_, .inr ⟨?_, ?_⟩⟩, .inl ⟨rfl, rfl⟩, .inr (.inr ⟨rfl, .inl ⟨rfl, by norm_num⟩⟩)⟩
  · unfold Magnitude fmtF32; norm_num
  · simp only [magnitude, fmtF32]; norm_num
  · unfold Magnitude fmtF32; norm_num
  · simp only [fmtF32]; norm_num
  · simp only [magnitude, fmtF32]; norm_num

end Sys2Proof.Tests
end

section
/-! PROOFS. The values of the scalar functions: what Flags.lean computes is what Tables 3-4, 3-5 and 3-8 say. -/

namespace Sys2Proof.Proofs

open Sys2Proof.Machine Sys2Proof.Safety Sys2Proof.Claims

/-! ### Immediates and low halves -/

theorem sextNat_eq_toInt (v n : Nat) : sextNat v n = (BitVec.ofNat n v).toInt := by
  cases n with
  | zero => simp [sextNat, Nat.mod_one, BitVec.toInt_zero_length]
  | succ n =>
    simp only [sextNat, BitVec.toInt_eq_toNat_cond, BitVec.toNat_ofNat, Nat.add_sub_cancel]
    have hp : 2 ^ (n + 1) = 2 * 2 ^ n := by rw [Nat.pow_succ, Nat.mul_comm]
    rw [hp]
    by_cases h : v % (2 * 2 ^ n) < 2 ^ n
    · rw [if_pos h, if_pos (by omega)]
    · rw [if_neg h, if_neg (by omega)]

theorem sext_eq_signExtend (v n : Nat) : sext v n = (BitVec.ofNat n v).signExtend 64 := by
  rw [sext, sextNat_eq_toInt, BitVec.signExtend]

theorem imm14_eq (k : Nat) : imm14 k = (BitVec.ofNat 14 k).signExtend 64 := sext_eq_signExtend k 14

theorem imm20_eq (k : Nat) : imm20 k = (BitVec.ofNat 20 k).signExtend 64 <<< 14 := by
  rw [imm20, sext_eq_signExtend]

theorem imm14_toInt (k : Nat) : (imm14 k).toInt = (BitVec.ofNat 14 k).toInt := by
  rw [imm14_eq, BitVec.toInt_signExtend_of_le (by decide)]

theorem lo32_eq_low (x : Word) : lo32 x = low x := by
  ext i hi
  simp [lo32, low]

theorem sx32_eq_low (x : Word) : sx32 x = (low x).signExtend 64 := congrArg (·.signExtend 64) (lo32_eq_low x)

theorem flag_decide (p : Prop) [Decidable p] : flag (decide p) = one p := by
  by_cases h : p <;> simp [flag, one, h]

/-! ### Shifts as products and quotients -/

theorem ofNat_mul_two_pow {w : Nat} (x : BitVec w) (n : Nat) : BitVec.ofNat w (x.toNat * 2 ^ n) = x <<< n := by
  apply BitVec.eq_of_toNat_eq
  rw [BitVec.toNat_ofNat, BitVec.toNat_shiftLeft, Nat.shiftLeft_eq]

theorem ofNat_div_two_pow {w : Nat} (x : BitVec w) (n : Nat) : BitVec.ofNat w (x.toNat / 2 ^ n) = x >>> n := by
  apply BitVec.eq_of_toNat_eq
  rw [BitVec.toNat_ofNat, BitVec.toNat_ushiftRight, Nat.shiftRight_eq_div_pow,
    Nat.mod_eq_of_lt (Nat.lt_of_le_of_lt (Nat.div_le_self _ _) x.isLt)]

theorem ofInt_div_two_pow {w : Nat} (x : BitVec w) (n : Nat) : BitVec.ofInt w (x.toInt / 2 ^ n) = x.sshiftRight n := by
  rw [BitVec.sshiftRight, Int.shiftRight_eq_div_pow]
  norm_cast

/-! ### ALU functions of two sources -/

theorem aluSll_eq_shiftLeft (x y : Word) : aluSll x y = x <<< y.toNat := by
  by_cases h : y.toNat < 64
  · simp [aluSll, h]
  · simp only [aluSll, if_neg h]
    exact (BitVec.shiftLeft_eq_zero (by omega)).symm

theorem aluSrl_eq_ushiftRight (x y : Word) : aluSrl x y = x >>> y.toNat := by
  by_cases h : y.toNat < 64
  · simp [aluSrl, h]
  · simp only [aluSrl, if_neg h]
    exact (BitVec.ushiftRight_eq_zero (by omega)).symm

theorem aluSll_eq (x y : Word) : aluSll x y = BitVec.ofNat 64 (x.toNat * 2 ^ y.toNat) := by
  rw [aluSll_eq_shiftLeft, ofNat_mul_two_pow]

theorem aluSrl_eq (x y : Word) : aluSrl x y = BitVec.ofNat 64 (x.toNat / 2 ^ y.toNat) := by
  rw [aluSrl_eq_ushiftRight, ofNat_div_two_pow]

theorem aluSra_eq (x y : Word) : aluSra x y = BitVec.ofInt 64 (x.toInt / 2 ^ min y.toNat 63) := by
  rw [ofInt_div_two_pow, aluSra]

theorem aluMin_eq (x y : Word) : aluMin x y = BitVec.ofInt 64 (min x.toInt y.toInt) := by
  by_cases h : x.toInt < y.toInt
  · rw [aluMin, if_pos h, min_eq_left h.le, BitVec.ofInt_toInt]
  · rw [aluMin, if_neg h, min_eq_right (not_lt.mp h), BitVec.ofInt_toInt]

theorem aluMax_eq (x y : Word) : aluMax x y = BitVec.ofInt 64 (max x.toInt y.toInt) := by
  by_cases h : x.toInt < y.toInt
  · rw [aluMax, if_pos h, max_eq_right h.le, BitVec.ofInt_toInt]
  · rw [aluMax, if_neg h, max_eq_left (not_lt.mp h), BitVec.ofInt_toInt]

theorem aluMinn_eq (x y : Word) : aluMinn x y = BitVec.ofNat 64 (min x.toNat y.toNat) := by
  by_cases h : x.toNat < y.toNat
  · rw [aluMinn, if_pos h, min_eq_left h.le, BitVec.ofNat_toNat, BitVec.setWidth_eq]
  · rw [aluMinn, if_neg h, min_eq_right (not_lt.mp h), BitVec.ofNat_toNat, BitVec.setWidth_eq]

theorem aluMaxn_eq (x y : Word) : aluMaxn x y = BitVec.ofNat 64 (max x.toNat y.toNat) := by
  by_cases h : x.toNat < y.toNat
  · rw [aluMaxn, if_pos h, max_eq_right h.le, BitVec.ofNat_toNat, BitVec.setWidth_eq]
  · rw [aluMaxn, if_neg h, max_eq_left (not_lt.mp h), BitVec.ofNat_toNat, BitVec.setWidth_eq]

theorem aluSllw_eq (x y : Word) :
    aluSllw x y = (BitVec.ofNat 32 ((low x).toNat * 2 ^ y.toNat)).signExtend 64 := by
  rw [aluSllw, lo32_eq_low, ofNat_mul_two_pow]
  split
  · rfl
  · rw [BitVec.shiftLeft_eq_zero (by omega)]; rfl

theorem aluSrlw_eq (x y : Word) :
    aluSrlw x y = (BitVec.ofNat 32 ((low x).toNat / 2 ^ y.toNat)).signExtend 64 := by
  rw [aluSrlw, lo32_eq_low, ofNat_div_two_pow]
  split
  · rfl
  · rw [BitVec.ushiftRight_eq_zero (by omega)]; rfl

theorem aluSraw_eq (x y : Word) : aluSraw x y = BitVec.ofInt 64 ((low x).toInt / 2 ^ min y.toNat 31) := by
  rw [aluSraw, lo32_eq_low, BitVec.signExtend, BitVec.toInt_sshiftRight, Int.shiftRight_eq_div_pow]
  norm_cast

/-! ### ALU functions of one source -/

/-- The leading zeros of an n-bit number, counted from bit n − 1 down. -/
theorem clzNat_spec (n v : Nat) : clzNat n v ≤ n ∧ (∀ i < clzNat n v, v.testBit (n - 1 - i) = false) ∧
    (clzNat n v < n → v.testBit (n - 1 - clzNat n v) = true) := by
  induction n with
  | zero => simp [clzNat]
  | succ n ih =>
    obtain ⟨hle, hzero, hone⟩ := ih
    cases hb : v.testBit n with
    | true => simp [clzNat, hb]
    | false =>
      simp only [clzNat, hb, Bool.false_eq_true, if_false]
      refine ⟨by omega, fun i hi => ?_, fun h => ?_⟩
      · cases i with
        | zero => exact hb
        | succ i => rw [show n + 1 - 1 - (i + 1) = n - 1 - i by omega]; exact hzero i (by omega)
      · rw [show n + 1 - 1 - (1 + clzNat n v) = n - 1 - clzNat n v by omega]; exact hone (by omega)

/-- The trailing zeros of an n-bit number, counted from bit 0 up. -/
theorem ctzNat_spec (n v : Nat) : ctzNat n v ≤ n ∧ (∀ i < ctzNat n v, v.testBit i = false) ∧
    (ctzNat n v < n → v.testBit (ctzNat n v) = true) := by
  induction n generalizing v with
  | zero => simp [ctzNat]
  | succ n ih =>
    obtain ⟨hle, hzero, hone⟩ := ih (v / 2)
    cases hb : v.testBit 0 with
    | true => simp [ctzNat, hb]
    | false =>
      simp only [ctzNat, hb, Bool.false_eq_true, if_false]
      refine ⟨by omega, fun i hi => ?_, fun h => ?_⟩
      · cases i with
        | zero => exact hb
        | succ i => rw [Nat.testBit_succ]; exact hzero i (by omega)
      · rw [Nat.add_comm, Nat.testBit_succ]; exact hone (by omega)

theorem popNat_eq_length (n v : Nat) : popNat n v = ((List.range n).filter (fun i => v.testBit i)).length := by
  induction n generalizing v with
  | zero => rfl
  | succ n ih =>
    rw [popNat, ih, List.range_succ_eq_map, List.filter_cons, List.filter_map, Nat.testBit_zero]
    simp only [Function.comp_def, Nat.testBit_succ]
    have : v % 2 = 0 ∨ v % 2 = 1 := by omega
    rcases this with h | h <;> simp [h, Nat.add_comm]

theorem aluClz_leadingZeros (x : Word) : LeadingZeros x (aluClz x).toNat := by
  obtain ⟨hle, hzero, hone⟩ := clzNat_spec 64 x.toNat
  have hv : (aluClz x).toNat = clzNat 64 x.toNat := Nat.mod_eq_of_lt (by omega)
  rw [hv]
  exact ⟨hle, hzero, hone⟩

theorem aluCtz_trailingZeros (x : Word) : TrailingZeros x (aluCtz x).toNat := by
  obtain ⟨hle, hzero, hone⟩ := ctzNat_spec 64 x.toNat
  have hv : (aluCtz x).toNat = ctzNat 64 x.toNat := Nat.mod_eq_of_lt (by omega)
  rw [hv]
  exact ⟨hle, hzero, hone⟩

theorem aluPopc_toNat (x : Word) : (aluPopc x).toNat = onesOf x := by
  have hle : popNat 64 x.toNat ≤ 64 := by
    rw [popNat_eq_length]
    exact (List.length_filter_le _ _).trans_eq List.length_range
  have hv : (aluPopc x).toNat = popNat 64 x.toNat := Nat.mod_eq_of_lt (by omega)
  rw [hv, popNat_eq_length]
  rfl

/-- Byte i of the number that a byte list spells. -/
theorem natOfBytes_byte (bs : List Byte) (i : Nat) : natOfBytes bs / 2 ^ (8 * i) % 2 ^ 8 = (bs.getD i 0).toNat := by
  induction bs generalizing i with
  | nil => simp [natOfBytes]
  | cons b bs ih =>
    have hb := b.isLt
    cases i with
    | zero => simp only [natOfBytes, List.getD_cons_zero]; omega
    | succ i =>
      rw [List.getD_cons_succ, ← ih i, natOfBytes, Nat.mul_succ, Nat.add_comm (8 * i), Nat.pow_add, ← Nat.div_div_eq_div_mul]
      congr 2
      omega

theorem bytesOfNat_length (n v : Nat) : (bytesOfNat n v).length = n := by
  induction n generalizing v with
  | zero => rfl
  | succ n ih => simp [bytesOfNat, ih]

theorem bytesOfNat_getD (n v i : Nat) (h : i < n) : (bytesOfNat n v).getD i 0 = BitVec.ofNat 8 (v / 2 ^ (8 * i)) := by
  induction n generalizing v i with
  | zero => omega
  | succ n ih =>
    cases i with
    | zero => simp [bytesOfNat]
    | succ i =>
      rw [bytesOfNat, List.getD_cons_succ, ih _ _ (by omega), Nat.mul_succ, Nat.add_comm (8 * i), Nat.pow_add,
        ← Nat.div_div_eq_div_mul]

theorem extractLsb'_byte (x : Word) (i : Nat) : x.extractLsb' i 8 = BitVec.ofNat 8 (x.toNat / 2 ^ i) := by
  rw [BitVec.extractLsb', Nat.shiftRight_eq_div_pow]

theorem bytesOf_reverse_getD (x : Word) (i : Nat) (h : i < 8) :
    (bytesOf 8 x).reverse.getD i 0 = x.extractLsb' (8 * (7 - i)) 8 := by
  have hl : (bytesOf 8 x).length = 8 := bytesOfNat_length 8 _
  rw [List.getD_eq_getElem?_getD, List.getElem?_reverse (by omega), hl, ← List.getD_eq_getElem?_getD, bytesOf,
    bytesOfNat_getD _ _ _ (by omega), extractLsb'_byte]

/-- Byte i, below 8, of the word of a byte list. -/
theorem wordOf_byte (bs : List Byte) (i : Nat) (h : i < 8) : (wordOf bs).extractLsb' (8 * i) 8 = bs.getD i 0 := by
  apply BitVec.eq_of_toNat_eq
  rw [BitVec.extractLsb'_toNat, wordOf, BitVec.toNat_ofNat, Nat.shiftRight_eq_div_pow, ← natOfBytes_byte,
    show 2 ^ 64 = 2 ^ (8 * i) * 2 ^ (8 * (8 - i)) by rw [← Nat.pow_add]; congr 1; omega, Nat.mod_mul_right_div_self,
    Nat.mod_mod_of_dvd _ (Nat.pow_dvd_pow 2 (by omega))]

theorem aluBswap_swapped (x : Word) : Swapped x (aluBswap x) := fun i hi =>
  (wordOf_byte _ i hi).trans (bytesOf_reverse_getD x i hi)

end Sys2Proof.Proofs
end

section
/-! PROOFS. The words of the scalar majors (Tables 2-9, 3-3, 3-5, 3-7 and 3-9). -/

namespace Sys2Proof.Proofs

open Sys2Proof.Machine Sys2Proof.Safety Sys2Proof.Claims

/-! ### Fields of a word of four fields (formats I, B and R) and of three (format U) -/

theorem fld_word4_op {op d a k : Nat} (hop : op < 64) (hd : d < 64) (ha : a < 64) (hk : k < 2 ^ 14) :
    fld (word4 op d a k) 26 6 = op := by
  simp only [fld, word4]; omega

theorem fld_word4_d {op d a k : Nat} (hd : d < 64) (ha : a < 64) (hk : k < 2 ^ 14) : fld (word4 op d a k) 20 6 = d := by
  simp only [fld, word4]; omega

theorem fld_word4_a {op d a k : Nat} (ha : a < 64) (hk : k < 2 ^ 14) : fld (word4 op d a k) 14 6 = a := by
  simp only [fld, word4]; omega

theorem fld_word4_imm {op d a k : Nat} (hk : k < 2 ^ 14) : fld (word4 op d a k) 0 14 = k := by
  simp only [fld, word4]; omega

theorem fld_word3 {op d k : Nat} (hop : op < 64) (hd : d < 64) (hk : k < 2 ^ 20) :
    fld (op * 2 ^ 26 + d * 2 ^ 20 + k) 26 6 = op ∧ fld (op * 2 ^ 26 + d * 2 ^ 20 + k) 20 6 = d ∧
    fld (op * 2 ^ 26 + d * 2 ^ 20 + k) 0 20 = k := by
  simp only [fld]; omega

/-! ### The majors with one instruction each -/

/-- Tables 3-5 and 3-9: the majors of one instruction each whose words have four fields. -/
theorem decode_word4_major {d a k : Nat} (hd : d < 64) (ha : a < 64) (hk : k < 2 ^ 14) :
    ∀ r ∈ ([
      (1, .addi d a k), (2, .andi d a k), (3, .ori d a k), (4, .xori d a k), (5, .slti d a k), (6, .sltni d a k),
      (7, .addiw d a k), (12, .beq d a k), (13, .bne d a k), (14, .blt d a k), (15, .bge d a k), (16, .bltn d a k),
      (17, .bgen d a k), (19, .jalr d a k)] : List (Nat × Instr)),
      decode (word4 r.1 d a k) = .ok r.2 := by
  intro r hr
  have hop : r.1 < 64 := by fin_cases hr <;> simp
  rw [decode, fld_word4_op hop hd ha hk, fld_word4_d hd ha hk, fld_word4_a ha hk, fld_word4_imm hk]
  fin_cases hr <;> rfl

/-- Tables 3-6 and 3-9: the majors of one instruction each whose words have three fields. -/
theorem decode_word3_major {d k : Nat} (hd : d < 64) (hk : k < 2 ^ 20) :
    ∀ r ∈ ([(9, .lui d k), (10, .adpc d k), (18, .jal d k)] : List (Nat × Instr)),
      decode (r.1 * 2 ^ 26 + d * 2 ^ 20 + k) = .ok r.2 := by
  intro r hr
  have hop : r.1 < 64 := by fin_cases hr <;> simp
  obtain ⟨eop, ed, ek⟩ := fld_word3 hop hd hk
  rw [decode, eop, ed, ek]
  fin_cases hr <;> rfl

/-! ### ALU -/

theorem decode_eq_decAlu {w : Nat} (h : fld w 26 6 = 0) : decode w = decAlu w := by
  rw [decode, h]; rfl

/-- The fields of an ALU word (Table 3-3). -/
theorem fld_aluWord {d a b f : Nat} (hd : d < 64) (ha : a < 64) (hb : b < 64) (hf : f < 256) :
    fld (word4 0 d a (b * 256 + f)) 26 6 = 0 ∧ fld (word4 0 d a (b * 256 + f)) 20 6 = d ∧
    fld (word4 0 d a (b * 256 + f)) 14 6 = a ∧ fld (word4 0 d a (b * 256 + f)) 8 6 = b ∧
    fld (word4 0 d a (b * 256 + f)) 0 8 = f := by
  simp only [fld, word4]; omega

theorem decode_alu_binary {d a b : Nat} (hd : d < 64) (ha : a < 64) (hb : b < 64) :
    ∀ r ∈ ([
      (1, .add d a b), (2, .sub d a b), (3, .and d a b), (4, .or d a b), (5, .xor d a b), (6, .andn d a b), (7, .orn d a b),
      (8, .sll d a b), (9, .srl d a b), (10, .sra d a b), (11, .slt d a b), (12, .sltn d a b), (13, .min d a b),
      (14, .max d a b), (15, .minn d a b), (16, .maxn d a b), (21, .addw d a b), (22, .subw d a b), (23, .sllw d a b),
      (24, .srlw d a b), (25, .sraw d a b), (26, .czero d a b)] : List (Nat × Instr)),
      decode (word4 0 d a (b * 256 + r.1)) = .ok r.2 := by
  intro r hr
  have hf : r.1 < 256 := by fin_cases hr <;> simp
  obtain ⟨eop, ed, ea, eb, ef⟩ := fld_aluWord hd ha hb hf
  rw [decode_eq_decAlu eop, decAlu, ed, ea, eb, ef]
  fin_cases hr <;> rfl

/-- The one-source functions take no B (R74). -/
theorem decode_alu_unary {d a b : Nat} (hd : d < 64) (ha : a < 64) (hb : b < 64) :
    ∀ r ∈ ([(17, .clz d a), (18, .ctz d a), (19, .popc d a), (20, .bswap d a)] : List (Nat × Instr)),
      decode (word4 0 d a (b * 256 + r.1)) = if b = 0 then .ok r.2 else .error .zField := by
  intro r hr
  have hf : r.1 < 256 := by fin_cases hr <;> simp
  obtain ⟨eop, ed, ea, eb, ef⟩ := fld_aluWord hd ha hb hf
  rw [decode_eq_decAlu eop, decAlu, ed, ea, eb, ef]
  fin_cases hr <;> rfl

/-- Functions 0 and 27 on are not of Table 3-3. -/
theorem decAlu_unlisted {w : Nat} (h : fld w 0 8 = 0 ∨ 27 ≤ fld w 0 8) : decAlu w = .error .function := by
  unfold decAlu
  split
  case h_27 => rfl
  all_goals omega

/-! ### SHI -/

theorem decode_eq_decShi {w : Nat} (h : fld w 26 6 = 8) : decode w = decShi w := by
  rw [decode, h]; rfl

theorem decode_shi {d a k : Nat} (hd : d < 64) (ha : a < 64) (hk : k < 64) :
    ∀ r ∈ ([(1, .slli d a k), (2, .srli d a k), (3, .srai d a k)] : List (Nat × Instr)),
      decode (word4 8 d a (r.1 * 2 ^ 12 + k)) = .ok r.2 := by
  intro r hr
  have hf : r.1 < 4 := by fin_cases hr <;> simp
  have hw : fld (word4 8 d a (r.1 * 2 ^ 12 + k)) 26 6 = 8 ∧ fld (word4 8 d a (r.1 * 2 ^ 12 + k)) 20 6 = d ∧
      fld (word4 8 d a (r.1 * 2 ^ 12 + k)) 14 6 = a ∧ fld (word4 8 d a (r.1 * 2 ^ 12 + k)) 12 2 = r.1 ∧
      fld (word4 8 d a (r.1 * 2 ^ 12 + k)) 6 6 = 0 ∧ fld (word4 8 d a (r.1 * 2 ^ 12 + k)) 0 6 = k := by
    simp only [fld, word4]; omega
  obtain ⟨eop, ed, ea, ef, ez, ek⟩ := hw
  rw [decode_eq_decShi eop, decShi, ed, ea, ef, ez, ek]
  fin_cases hr <;> rfl

/-- A SHI word of function 0, or with a bit of 11:6 set, encodes nothing (R76). -/
theorem decShi_illegal {w : Nat} (h : fld w 12 2 = 0 ∨ fld w 6 6 ≠ 0) : ∃ x, decShi w = .error x := by
  obtain h | h := h
  · exact ⟨.function, by rw [decShi, h]; rfl⟩
  · simp only [decShi, if_neg h]
    split <;> exact ⟨_, rfl⟩

theorem decode_shi_illegal {d a k : Nat} (hd : d < 64) (ha : a < 64) (hk : k < 2 ^ 14)
    (h : k / 2 ^ 12 = 0 ∨ k / 64 % 64 ≠ 0) : Illegal (word4 8 d a k) := by
  rw [Illegal, decode_eq_decShi (fld_word4_op (by decide) hd ha hk)]
  apply decShi_illegal
  simp only [fld, word4]
  omega

theorem aluEncodings : AluEncodings := by
  refine ⟨fun d a b hd ha hb => ⟨decode_alu_binary hd ha hb, fun r hr => ⟨?_, fun hz => ⟨.zField, ?_⟩⟩,
      fun f hf hu => ⟨.function, ?_⟩⟩,
    fun d a k hd ha hk => ⟨fun r hr => decode_word4_major hd ha hk r (by fin_cases hr <;> simp), fun hs => ?_,
      decode_shi_illegal hd ha hk⟩,
    fun d k hd hk => ⟨decode_word3_major hd hk (9, _) (by simp), decode_word3_major hd hk (10, _) (by simp)⟩⟩
  · simpa using decode_alu_unary hd ha (b := 0) (by decide) r hr
  · rw [decode_alu_unary hd ha hb r hr, if_neg hz]
  · obtain ⟨eop, -, -, -, ef⟩ := fld_aluWord hd ha hb hf
    rw [decode_eq_decAlu eop, decAlu_unlisted (by rwa [ef])]
  · exact ⟨decode_shi hd ha hs (1, _) (by simp), decode_shi hd ha hs (2, _) (by simp), decode_shi hd ha hs (3, _) (by simp)⟩

/-! ### MULDIV -/

theorem decode_eq_decMuldiv {w : Nat} (h : fld w 26 6 = 11) : decode w = decMuldiv w := by
  rw [decode, h]; rfl

/-- The fields of a MULDIV word (Table 3-7). -/
theorem fld_muldivWord {d a b l f : Nat} (hd : d < 64) (ha : a < 64) (hb : b < 64) (hl : l < 16) (hf : f < 16) :
    fld (word4 11 d a (b * 256 + l * 16 + f)) 26 6 = 11 ∧ fld (word4 11 d a (b * 256 + l * 16 + f)) 20 6 = d ∧
    fld (word4 11 d a (b * 256 + l * 16 + f)) 14 6 = a ∧ fld (word4 11 d a (b * 256 + l * 16 + f)) 8 6 = b ∧
    fld (word4 11 d a (b * 256 + l * 16 + f)) 4 4 = l ∧ fld (word4 11 d a (b * 256 + l * 16 + f)) 0 4 = f := by
  simp only [fld, word4]; omega

/-- Functions 0 and 12 on are not of Table 3-7. -/
theorem decMuldiv_unlisted {w : Nat} (h : fld w 0 4 = 0 ∨ 12 ≤ fld w 0 4) : decMuldiv w = .error .function := by
  unfold decMuldiv
  split
  case h_12 => rfl
  all_goals omega

theorem mulDivEncodings : MulDivEncodings := by
  refine fun d a b l hd ha hb hl => ⟨fun r hr => ?_, fun f hf hu => ⟨.function, ?_⟩⟩
  · have hf : r.1 < 16 := by fin_cases hr <;> simp
    obtain ⟨eop, ed, ea, eb, el, ef⟩ := fld_muldivWord hd ha hb hl hf
    rw [decode_eq_decMuldiv eop, decMuldiv, ed, ea, eb, el, ef]
    fin_cases hr <;> rfl
  · obtain ⟨eop, -, -, -, -, ef⟩ := fld_muldivWord hd ha hb hl hf
    rw [decode_eq_decMuldiv eop, decMuldiv_unlisted (by rwa [ef])]

theorem transferEncodings : TransferEncodings :=
  ⟨fun _ _ _ ha hb ho r hr => decode_word4_major ha hb ho r (by fin_cases hr <;> simp),
    fun _ _ hd ho => decode_word3_major hd ho (18, _) (by simp),
    fun _ _ _ hd ha hk => decode_word4_major hd ha hk (19, _) (by simp)⟩

end Sys2Proof.Proofs
end

section
/-! PROOFS. Scalar instructions wherever they issue: ALU, immediates, MULDIV, branches and jumps (R74 to R81). -/

namespace Sys2Proof.Proofs

open Sys2Proof.Machine Sys2Proof.Safety Sys2Proof.Claims

/-! ### From an effect to a statement about exec -/

/-- What an instruction comes to wherever it issues. -/
theorem exec_of_issues {i : Instr} {e : State → Eff} {s : State} (he : exec i = issue i e) (h : Issues i s) :
    exec i s = .next (settle i s (e s)) := by
  rw [he, issue_issues e h]

/-- An instruction whose effect completes in every state gives what the effect leaves. -/
theorem gives_of_effect {i : Instr} {e : State → Eff} {f : State → State} (he : exec i = issue i e)
    (hf : ∀ s, e s = .ok (f s)) : Gives i f := fun s h => by
  rw [exec_of_issues he h, hf, settle_ok]

theorem gives_unary {i : Instr} {d a : Nat} {g f : Word → Word} (he : exec i = issue i (eff1 d a g)) (hf : ∀ x, g x = f x) :
    Gives i (unary d a f) :=
  gives_of_effect he (fun s => by rw [funext hf]; rfl)

theorem gives_binary {i : Instr} {d a b : Nat} {g f : Word → Word → Word} (he : exec i = issue i (eff2 d a b g))
    (hf : ∀ x y, g x y = f x y) : Gives i (binary d a b f) :=
  gives_of_effect he (fun s => by rw [funext₂ hf]; rfl)

theorem unaryBy_of_effect {i : Instr} {d a : Nat} {g : Word → Word} {R : Word → Word → Prop} (he : exec i = issue i (eff1 d a g))
    (hR : ∀ x, R x (g x)) : UnaryBy i d a R :=
  ⟨g, hR, gives_unary he (fun _ => rfl)⟩

theorem aluTwoSourceResults : AluTwoSourceResults := by
  intro d a b
  refine ⟨gives_binary rfl fun _ _ => rfl, gives_binary rfl fun _ _ => rfl, gives_binary rfl fun _ _ => rfl,
    gives_binary rfl fun _ _ => rfl, gives_binary rfl fun _ _ => rfl, gives_binary rfl fun _ _ => rfl,
    gives_binary rfl fun _ _ => rfl, gives_binary rfl aluSll_eq, gives_binary rfl aluSrl_eq, gives_binary rfl aluSra_eq,
    gives_binary rfl fun _ _ => flag_decide _, gives_binary rfl fun _ _ => flag_decide _,
    gives_binary rfl aluMin_eq, gives_binary rfl aluMax_eq, gives_binary rfl aluMinn_eq, gives_binary rfl aluMaxn_eq,
    gives_binary rfl fun _ _ => sx32_eq_low _, gives_binary rfl fun _ _ => sx32_eq_low _, gives_binary rfl aluSllw_eq,
    gives_binary rfl aluSrlw_eq, gives_binary rfl aluSraw_eq, gives_binary rfl fun _ _ => rfl⟩

theorem aluOneSourceResults : AluOneSourceResults := fun _ _ =>
  ⟨unaryBy_of_effect rfl aluClz_leadingZeros, unaryBy_of_effect rfl aluCtz_trailingZeros, unaryBy_of_effect rfl aluPopc_toNat,
    unaryBy_of_effect rfl aluBswap_swapped⟩

theorem toNat_shiftAmount {k : Nat} (h : k < 64) : (BitVec.ofNat 64 k).toNat = k := Nat.mod_eq_of_lt (by omega)

/-- slti compares with the sign-extended immediate. -/
theorem aluSlti_eq (k : Nat) (x : Word) : aluSlt x (imm14 k) = one (x.toInt < (BitVec.ofNat 14 k).toInt) := by
  rw [aluSlt, flag_decide, imm14_toInt]

/-- sltni compares with the zero-extended immediate. -/
theorem aluSltni_eq (k : Nat) (x : Word) : aluSltn x (BitVec.ofNat 64 (k % 2 ^ 14)) = one (x.toNat < k % 2 ^ 14) := by
  rw [aluSltn, flag_decide, BitVec.toNat_ofNat, Nat.mod_eq_of_lt (a := k % 2 ^ 14) (by omega)]

theorem aluSrai_eq {k : Nat} (h : k < 64) (x : Word) : aluSra x (BitVec.ofNat 64 k) = x.sshiftRight k := by
  rw [aluSra, toNat_shiftAmount h, min_eq_left (by omega)]

theorem aluImmediateResults : AluImmediateResults := by
  intro d a k
  refine ⟨gives_unary rfl fun _ => by rw [imm14_eq], gives_unary rfl fun _ => by rw [imm14_eq],
    gives_unary rfl fun _ => by rw [imm14_eq], gives_unary rfl fun _ => by rw [imm14_eq],
    gives_unary rfl (aluSlti_eq k), gives_unary rfl (aluSltni_eq k),
    gives_unary rfl fun _ => by rw [sx32_eq_low, imm14_eq],
    fun h => gives_unary rfl fun x => by rw [aluSll_eq_shiftLeft, toNat_shiftAmount h],
    fun h => gives_unary rfl fun x => by rw [aluSrl_eq_ushiftRight, toNat_shiftAmount h],
    fun h => gives_unary rfl (aluSrai_eq h),
    gives_of_effect rfl fun _ => by rw [imm20_eq]; rfl, gives_of_effect rfl fun _ => by rw [imm20_eq]; rfl⟩

/-! ### Multiplication and division -/

theorem mdMul_eq (x y : Word) : mdMul x y = BitVec.ofNat 64 (x.toNat * y.toNat) := rfl

theorem low_mul_signExtend (x y : Word) : sx32 (x * y) = (BitVec.ofNat 32 ((low x).toNat * (low y).toNat)).signExtend 64 := by
  rw [sx32, BitVec.setWidth_mul _ _ (by decide), ← lo32_eq_low, ← lo32_eq_low]
  rfl

/-- A quotient of two signed numbers of n bits reaches 2^(n−1) at most. -/
theorem tdiv_toInt_le {w : Nat} (x y : BitVec w) : x.toInt.tdiv y.toInt ≤ 2 ^ (w - 1) := by
  have hq := Int.natAbs_tdiv_le_natAbs x.toInt y.toInt
  have hl := BitVec.le_toInt x
  have hu := BitVec.toInt_lt (x := x)
  omega

theorem toInt_eq_zero_iff {w : Nat} (x : BitVec w) : x.toInt = 0 ↔ x = 0 := by
  rw [← BitVec.toInt_inj, BitVec.ofNat_eq_ofNat, BitVec.toInt_zero]

/-- The saturated quotient, by the cases of Table 3-8. -/
theorem ofInt_squo {w : Nat} (x y : BitVec w) : BitVec.ofInt 64 (squo w x.toInt y.toInt) =
    if y = 0 then 0 else if x.toInt.tdiv y.toInt = 2 ^ (w - 1) then BitVec.ofInt 64 (2 ^ (w - 1) - 1)
      else BitVec.ofInt 64 (x.toInt.tdiv y.toInt) := by
  have hle := tdiv_toInt_le x y
  by_cases hy : y = 0
  · simp [squo, hy]
  · rw [squo, if_neg (mt (toInt_eq_zero_iff y).mp hy), if_neg hy]
    split
    · rw [min_eq_right (by omega)]
    · rw [min_eq_left (by omega)]

theorem mdDiv_eq (x y : Word) : mdDiv x y = BitVec.ofInt 64 (squo 64 x.toInt y.toInt) := (ofInt_squo x y).symm

theorem mdDivw_eq (x y : Word) : mdDivw x y = BitVec.ofInt 64 (squo 32 (low x).toInt (low y).toInt) := by
  rw [ofInt_squo, ← lo32_eq_low, ← lo32_eq_low]
  rfl

theorem mdDivn_eq (x y : Word) : mdDivn x y = BitVec.ofNat 64 (x.toNat / y.toNat) := by
  by_cases h : y = 0
  · simp [mdDivn, h]
  · rw [mdDivn, if_neg h]

theorem mdRem_eq (x y : Word) : mdRem x y = BitVec.ofInt 64 (x.toInt.tmod y.toInt) := by
  by_cases h : y = 0
  · simp [mdRem, h]
  · rw [mdRem, if_neg h]

theorem mdRemn_eq (x y : Word) : mdRemn x y = BitVec.ofNat 64 (x.toNat % y.toNat) := by
  by_cases h : y = 0
  · simp [mdRemn, h]
  · rw [mdRemn, if_neg h]

theorem mdDivnw_eq (x y : Word) : mdDivnw x y = (BitVec.ofNat 32 ((low x).toNat / (low y).toNat)).signExtend 64 := by
  rw [mdDivnw, lo32_eq_low, lo32_eq_low]
  by_cases h : low y = 0
  · simp [h]
  · rw [if_neg h]

theorem gives_opens {i : Instr} {d a b l : Nat} {g f : Word → Word → Word} (he : exec i = issue i (mdEff d a b l g))
    (hf : ∀ x y, g x y = f x y) : Gives i (opens d a b l f 0) :=
  gives_of_effect he (fun s => by rw [funext₂ hf]; rfl)

theorem productsOpenTheirWindow : ProductsOpenTheirWindow := fun _ _ _ _ =>
  ⟨gives_opens rfl mdMul_eq, gives_opens rfl fun _ _ => rfl, gives_opens rfl fun _ _ => rfl,
    gives_opens rfl fun _ _ => rfl, gives_opens rfl low_mul_signExtend⟩

/-- A divide takes the divider where it is free, and waits where it is busy (R73). -/
theorem divide_issues {i : Instr} {d a b l : Nat} {g f : Word → Word → Word} (he : exec i = issue i (divEff d a b l g))
    (hf : ∀ x y, g x y = f x y) (s : State) (h : Issues i s) :
    (s.tile.divBusy = false → exec i s = .next (followed i s ((opens d a b l f 1 s).onTile (fun t => { t with divBusy := true })))) ∧
    (s.tile.divBusy = true → exec i s = .next (s.stall .muldiv)) := by
  rw [exec_of_issues he h, ← funext₂ hf]
  refine ⟨fun hb => ?_, fun hb => ?_⟩
  · simp only [divEff, hb]
    rfl
  · simp only [divEff, hb]
    rfl

theorem dividesOpenTheirWindow : DividesOpenTheirWindow := by
  intro d a b l i f hm
  simp only [List.mem_cons, Prod.mk.injEq, List.not_mem_nil, or_false] at hm
  obtain ⟨rfl, rfl⟩ | ⟨rfl, rfl⟩ | ⟨rfl, rfl⟩ | ⟨rfl, rfl⟩ | ⟨rfl, rfl⟩ | ⟨rfl, rfl⟩ := hm
  · exact divide_issues rfl mdDiv_eq
  · exact divide_issues rfl mdDivn_eq
  · exact divide_issues rfl mdRem_eq
  · exact divide_issues rfl mdRemn_eq
  · exact divide_issues rfl mdDivw_eq
  · exact divide_issues rfl mdDivnw_eq

/-! ### Branches and jumps -/

/-- A taken transfer leaves the state of `jumped`. -/
theorem settle_jump (i : Instr) (s t : State) (a : Word) : settle i s (.jump a t) = jumped i s t a := rfl

theorem branches_of_effect {i : Instr} {a b o : Nat} {g c : Word → Word → Bool} (he : exec i = issue i (branchEff a b o g))
    (hc : ∀ x y, g x y = c x y) : Branches i a b o c := by
  intro s h
  rw [exec_of_issues he h, ← funext₂ hc, ← sext_eq_signExtend]
  simp only [branchEff]
  split
  · rw [settle_jump]; rfl
  · rw [settle_ok]; rfl

theorem condNe_eq (x y : Word) : condNe x y = decide (x ≠ y) := by
  rw [condNe, bne, beq_eq_decide, decide_not]

theorem branchResults : BranchResults := fun _ _ _ =>
  ⟨branches_of_effect rfl fun _ _ => beq_eq_decide _ _, branches_of_effect rfl condNe_eq,
    branches_of_effect rfl fun _ _ => rfl, branches_of_effect rfl fun _ _ => rfl,
    branches_of_effect rfl fun _ _ => rfl, branches_of_effect rfl fun _ _ => rfl⟩

/-- The register fields of an instruction without a decode fault are of their classes (R50). -/
theorem admits_of_decodeFault_none {i : Instr} {s : State} (h : decodeFault i s = none) :
    ∀ o ∈ (instrShape i).ops, o.1.admits o.2 = true := by
  have hb : badReg (instrShape i).ops = none := by
    cases hp : privFault i s.ctx with
    | some info => simp [decodeFault, hp] at h
    | none =>
      cases hr : badReg (instrShape i).ops with
      | none => rfl
      | some n =>
        simp only [decodeFault, hp, hr] at h
        split_ifs at h
  simpa [badReg] using hb

/-- The source of a jalr that issues is a scalar register: its class is XM (Table 2-4). -/
theorem jalr_source_lt {d a k : Nat} {s : State} (h : Issues (.jalr d a k) s) : a < 32 := by
  obtain ⟨-, hd, -⟩ := h
  have hm : (OpClass.xmS, a) ∈ (instrShape (.jalr d a k)).ops := List.mem_of_mem_tail (List.mem_singleton_self _)
  simpa [OpClass.admits] using admits_of_decodeFault_none hd _ hm

theorem readXs_of_lt {s : State} {n : Nat} (h : n < 32) : s.readXs n = ((s.ctx.readX n).1, (s.ctx.readX n).2, s) := by
  rw [State.readXs, if_pos h]

/-- The target of a jalr is one of its address operands, so that ALIGN is tainted where A is (R360). -/
theorem withTaint_jalr_align (s : State) (d a k : Nat) (t : Word) :
    s.withTaint (.jalr d a k) (s.exc cALIGN t) = { s.exc cALIGN t with tnt := (s.ctx.readX a).2 } := by
  have ho : addrOps (.jalr d a k) = [(.xmS, a)] := rfl
  have hc : addrCode cALIGN = true := by decide
  rw [State.withTaint, ho]
  cases ht : (s.ctx.readX a).2 with
  | false => simp [State.exc, ht]
  | true =>
    have hi : addrInfo cALIGN = 0 := by decide
    simp [hi, hc, ht, State.exc]

theorem jumpResults : JumpResults := by
  refine ⟨fun d o s h => ?_, fun d a k s h => ?_⟩
  · rw [← sext_eq_signExtend]
    exact exec_of_issues rfl h
  · have ha : a < 32 := jalr_source_lt h
    have he : exec (.jalr d a k) s = .next (settle (.jalr d a k) s (jalrEff d a k s)) := exec_of_issues rfl h
    simp only [he, jalrEff, imm14_eq, readXs_of_lt ha]
    refine ⟨fun hal => ?_, fun hal => ?_⟩
    · rw [if_neg (not_not.mpr hal), settle_jump]
      rfl
    · rw [if_pos hal, settle_raise, withTaint_jalr_align]
      rfl

end Sys2Proof.Proofs
end

section
/-! PROOFS. The landing of a bound long-latency result (R51, R53, R73), and the obligations on scalar instructions. -/

namespace Sys2Proof.Proofs

open Sys2Proof.Machine Sys2Proof.Safety Sys2Proof.Claims

/-! ### Landing of a bound result -/

theorem ctxNum_val (c : Fin 4) : ctxNum c.val = c := Fin.ext (Nat.mod_eq_of_lt c.isLt)

theorem getLsbD_bvSet_of_ne {n : Nat} (v : BitVec n) {i j : Nat} (b : Bool) (h : j ≠ i) : (bvSet v i b).getLsbD j = v.getLsbD j := by
  have hbit : (1#n <<< i).getLsbD j = false := by
    rw [BitVec.getLsbD_shiftLeft, BitVec.getLsbD_one]
    simp; omega
  cases b with
  | true => simp [bvSet, hbit]
  | false =>
    rw [bvSet, if_neg Bool.false_ne_true, BitVec.getLsbD_and, BitVec.getLsbD_not, hbit]
    by_cases hj : j < n
    · simp [hj]
    · simp [BitVec.getLsbD_of_ge v j (not_lt.mp hj)]

/-- A write of one scalar register leaves value and taint of every other one alone. -/
theorem readX_writeX_of_ne (c : Ctx) {n m : Nat} (v : Word) (t : Bool) (h : m ≠ n) : (c.writeX n v t).readX m = c.readX m := by
  refine Prod.ext (Ctx.readX_writeX_other c n m v t h.symm) ?_
  unfold Ctx.readX Ctx.writeX
  by_cases hn : n = 0
  · simp [hn]
  · by_cases hm : m = 0
    · simp [hm]
    · simp [hn, hm, getLsbD_bvSet_of_ne _ _ h]

/-- Value of a scalar register after its own write; x0 keeps 0 (R45). -/
theorem readX_writeX_self (c : Ctx) {n : Nat} (v : Word) (t : Bool) (h : n < 32) :
    ((c.writeX n v t).readX n).1 = if n = 0 then 0 else v := by
  by_cases hn : n = 0
  · subst hn; rfl
  · rw [if_neg hn, Ctx.readX_writeX_same c n v t hn h]

/-- A context with the windows ws open in place of its own. -/
def withWins (c : Ctx) (ws : List Window) : Ctx := { c with wins := ws }

@[simp] theorem withWins_wins (c : Ctx) (ws : List Window) : (withWins c ws).wins = ws := rfl

@[simp] theorem withWins_readX (c : Ctx) (ws : List Window) (r : Nat) : (withWins c ws).readX r = c.readX r := rfl

/-- A landed scalar result that no later window has written over is written to its destination. -/
theorem writeWin_landed {c : Ctx} {w : Window} {v : Word} {t : Bool} (hs : w.st = .landed v t) (h0 : w.written = 0) :
    c.writeWin w = c.writeX w.dst v t := by
  simp [Ctx.writeWin, Window.gone, h0, hs]

/-- The only open window of a context, where it has landed and has no instruction left, is written and closes. -/
theorem closeReady_single {c : Ctx} {w : Window} {v : Word} {t : Bool} (hw : c.wins = [w]) (hs : w.st = .landed v t)
    (hrem : w.rem = 0) (h0 : w.written = 0) : c.closeReady = withWins (c.writeX w.dst v t) [] := by
  have hl : w.isLanded = true := by rw [Window.isLanded, hs]
  simp [Ctx.closeReady, hw, hrem, hl, supersede, withWins, writeWin_landed hs h0]

/-- A context whose window of number id receives the scalar result v. -/
def landedCtx (id : Nat) (v : Word) (t : Bool) (c : Ctx) : Ctx :=
  (withWins c (c.wins.map (fun u => if u.id == id then { u with st := .landed v t } else u))).closeReady

/-- A result that lands in the only open window, which has no instruction left, is written as the window closes. -/
theorem landedCtx_single {c : Ctx} {w : Window} (v : Word) (t : Bool) (hw : c.wins = [w]) (hrem : w.rem = 0) (h0 : w.written = 0) :
    landedCtx w.id v t c = withWins ((withWins c [{ w with st := .landed v t }]).writeX w.dst v t) [] := by
  have hm : c.wins.map (fun u => if u.id == w.id then { u with st := .landed v t } else u) = [{ w with st := .landed v t }] := by
    simp [hw]
  rw [landedCtx, hm]
  exact closeReady_single (w := { w with st := .landed v t }) (withWins_wins _ _) rfl hrem h0

/-- The landing of a bound scalar result: its window receives it, and a divide gives the divider back. -/
theorem landing_bound {s : State} {p : Nat} {c : Fin 4} {w : Window} {v : Word} {t : Bool}
    (hw : (s.tileD p).ctxs[c].wins = [w]) (hs : w.st = .bound v t) :
    landing p c w.id s = (s.modCtx p c (landedCtx w.id v t)).modTile p (divDone w) := by
  have hf : (s.tileD p).ctxs[c].wins.find? (fun u => u.id == w.id) = some w := by
    rw [hw]; exact List.find?_cons_of_pos (beq_self_eq_true _)
  simp only [landing, hf, hs]
  rfl

theorem divDone_ctxs (w : Window) (t : Tile) : (divDone w t).ctxs = t.ctxs := by
  unfold divDone; split <;> rfl

theorem divDone_phys (w : Window) (t : Tile) : (divDone w t).phys = t.phys := by
  unfold divDone; split <;> rfl

theorem divDone_divBusy {w : Window} (hk : w.kind = .value) (ha : w.aux = 1) (t : Tile) : (divDone w t).divBusy = false := by
  simp [divDone, hk, ha]

/-- A tile after a change of one of its contexts and then a change of its own. -/
theorem tileD_modCtx_modTile (s : State) (p : Nat) (c : Fin 4) (f : Ctx → Ctx) (g : Tile → Tile) (hg : ∀ t, (g t).phys = t.phys)
    (h : (s.tileAt p).isSome = true) : ((s.modCtx p c f).modTile p g).tileD p = g ((s.tileD p).modCtx c f) := by
  have hs : ((s.modCtx p c f).tileAt p).isSome = true := by
    rw [State.modCtx, State.tileAt_modTile s p p (fun t => t.modCtx c f) (fun _ => rfl), if_pos rfl, Option.isSome_map]
    exact h
  rw [State.tileD_modTile_same _ p g hg hs, State.modCtx, State.tileD_modTile_same s p (fun t => t.modCtx c f) (fun _ => rfl) h]

theorem exec_longLatencyLanding (p : Nat) (c : Fin 4) (win : Nat) (s : State) :
    exec (.longLatencyLanding p c.val win) s = .next (landing p c win s) := by
  change Host.Outcome.next (landing p (ctxNum c.val) win s) = _
  rw [ctxNum_val]

theorem boundResultLandsAndCloses : BoundResultLandsAndCloses := by
  intro s p c w v x hp hw hs hrem _ h0 hd
  have ht : (landing p c w.id s).tileD p = divDone w ((s.tileD p).modCtx c (landedCtx w.id v x)) := by
    rw [landing_bound hw hs]
    exact tileD_modCtx_modTile s p c _ _ (divDone_phys w) hp
  have hc : ((landing p c w.id s).tileD p).ctxs[c] =
      withWins ((withWins (s.tileD p).ctxs[c] [{ w with st := .landed v x }]).writeX w.dst v x) [] := by
    rw [← landedCtx_single v x hw hrem h0, ht]
    simp only [divDone_ctxs, Tile.modCtx_ctxs, Fin.getElem_fin, Vector.getElem_set_self]
  refine ⟨_, exec_longLatencyLanding p c w.id s, ?_⟩
  beta_reduce
  rw [hc, ht]
  simp only [withWins_readX]
  exact ⟨withWins_wins _ _, readX_writeX_self _ v x hd, fun r hr => readX_writeX_of_ne _ v x hr, fun hk ha => divDone_divBusy hk ha _⟩

/-! ### The obligations -/

/-- Settles O1: the effects of the ALU forms, the values of their functions, and their words. -/
theorem scalarArithmeticResults : Obligations.ScalarArithmeticResults :=
  ⟨aluTwoSourceResults, aluOneSourceResults, aluImmediateResults, aluEncodings⟩

/-- Settles O2: the windows that products and divides open, the landing of a bound value, and their words. -/
theorem longLatencyResults : Obligations.LongLatencyResults :=
  ⟨productsOpenTheirWindow, dividesOpenTheirWindow, boundResultLandsAndCloses, mulDivEncodings⟩

/-- Settles O3: the effects of branches and jumps, and their words. -/
theorem controlTransfers : Obligations.ControlTransfers :=
  ⟨branchResults, jumpResults, transferEncodings⟩

end Sys2Proof.Proofs
end

section
/-! PROOFS. What an instruction that is followed in sequence leaves unchanged: the words fetched ahead, the windows that stay
open, the other contexts and tiles; and when issue stays with its context (R28, R51, R86). -/

namespace Sys2Proof.Proofs

open Sys2Proof.Machine Sys2Proof.Safety Sys2Proof.Claims

/-! ### Control that passes to the next word -/

@[simp] theorem enterModulo_fetched (c : Ctx) (l : LoopCtx) : (c.enterModulo l).fetched = c.fetched := by
  unfold Ctx.enterModulo
  split <;> rfl

@[simp] theorem fallThrough_fetched (c : Ctx) : c.fallThrough.fetched = c.fetched := by
  unfold Ctx.fallThrough
  cases c.loops with
  | nil => rfl
  | cons l r =>
    dsimp only
    by_cases hm : l.modulo = true
    · rw [if_pos hm]
      cases nextSlot l (l.j + 1) with
      | some j => rfl
      | none => exact enterModulo_fetched _ _
    · rw [if_neg hm]
      split_ifs <;> rfl

/-! ### Windows that close -/

@[simp] theorem writeX_fetched (c : Ctx) (n : Nat) (v : Word) (t : Bool) : (c.writeX n v t).fetched = c.fetched := by
  unfold Ctx.writeX
  split <;> rfl

@[simp] theorem writeVElem_fetched (c : Ctx) (n e : Nat) (v : Lane) : (c.writeVElem n e v).fetched = c.fetched := by
  unfold Ctx.writeVElem
  split <;> rfl

@[simp] theorem taintV_fetched (c : Ctx) (n : Nat) (t : Bool) : (c.taintV n t).fetched = c.fetched := by
  unfold Ctx.taintV
  split <;> rfl

@[simp] theorem writeVec_fetched (c : Ctx) (d : Nat) (vs : List Lane) (t : Bool) (k : Nat) :
    (c.writeVec d vs t k).fetched = c.fetched := by
  rw [Ctx.writeVec, taintV_fetched]
  exact List.foldlRecOn (motive := fun c' : Ctx => c'.fetched = c.fetched) _ _ rfl
    (fun c' h p _ => (writeVElem_fetched c' d p.2 p.1).trans h)

@[simp] theorem writeWin_fetched (c : Ctx) (w : Window) : (c.writeWin w).fetched = c.fetched := by
  unfold Ctx.writeWin
  split
  · rfl
  · split <;> simp

/-- The numbers of the open windows of a context, in order. -/
def winIds (c : Ctx) : List Nat := c.wins.map Window.id

theorem winIds_congr {c d : Ctx} (h : c.wins = d.wins) : winIds c = winIds d := congrArg (List.map Window.id) h

theorem supersede_ids (w : Window) (ws : List Window) : (supersede w ws).map Window.id = ws.map Window.id := by
  rw [supersede, List.map_map]
  refine List.map_congr_left fun u _ => ?_
  rw [Function.comp_apply]
  split <;> rfl

/-- One window closes: its result, as it stands in the context, is written, and the window is gone. -/
def closeOne (c : Ctx) (w : Window) : Ctx :=
  let d := match c.wins.find? (fun u => u.id == w.id) with
    | some u => c.writeWin u
    | none => c
  { d with wins := supersede w (d.wins.filter (fun u => u.id != w.id)) }

theorem closeReady_eq_foldl (c : Ctx) :
    c.closeReady = (c.wins.filter (fun w => w.rem == 0 && w.isLanded)).foldl closeOne c := rfl

theorem closeOne_fetched (c : Ctx) (w : Window) : (closeOne c w).fetched = c.fetched := by
  unfold closeOne
  cases c.wins.find? (fun u => u.id == w.id) with
  | none => rfl
  | some u => exact writeWin_fetched c u

theorem closeOne_wins (c : Ctx) (w : Window) : (closeOne c w).wins = supersede w (c.wins.filter (fun u => u.id != w.id)) := by
  unfold closeOne
  cases c.wins.find? (fun u => u.id == w.id) with
  | none => rfl
  | some u => dsimp only; rw [Ctx.writeWin_wins]

/-- A window that closes opens no other. -/
theorem closeOne_winIds (c : Ctx) (w : Window) : (winIds (closeOne c w)).Sublist (winIds c) := by
  rw [winIds, closeOne_wins, supersede_ids]
  exact List.filter_sublist.map _

@[simp] theorem closeReady_fetched (c : Ctx) : c.closeReady.fetched = c.fetched := by
  rw [closeReady_eq_foldl]
  exact List.foldlRecOn (motive := fun d : Ctx => d.fetched = c.fetched) _ _ rfl (fun d h w _ => (closeOne_fetched d w).trans h)

theorem closeReady_winIds (c : Ctx) : (winIds c.closeReady).Sublist (winIds c) := by
  rw [closeReady_eq_foldl]
  exact List.foldlRecOn (motive := fun d : Ctx => (winIds d).Sublist (winIds c)) _ _ (List.Sublist.refl _)
    (fun d h w _ => (closeOne_winIds d w).trans h)

@[simp] theorem countWins_fetched (c : Ctx) (n : Nat) : (c.countWins n).fetched = c.fetched := closeReady_fetched _

/-- A counted instruction opens no window (R51). -/
theorem countWins_winIds (c : Ctx) (n : Nat) : (winIds (c.countWins n)).Sublist (winIds c) := by
  have hk : (c.wins.map (fun w => if w.id < n then { w with rem := w.rem - 1 } else w)).map Window.id = winIds c := by
    rw [List.map_map]
    refine List.map_congr_left fun w _ => ?_
    rw [Function.comp_apply]
    split <;> rfl
  exact hk ▸ closeReady_winIds _

/-! ### The issue of an instruction -/

@[simp] theorem retire_fetched (c : Ctx) (p : Bool) (n : Nat) : (c.retire p n).fetched = c.fetched := by
  cases p <;> exact countWins_fetched c n

theorem retire_winIds (c : Ctx) (p : Bool) (n : Nat) : (winIds (c.retire p n)).Sublist (winIds c) := by
  cases p <;> exact countWins_winIds c n

@[simp] theorem retire_stall (c : Ctx) (p : Bool) (n : Nat) : (c.retire p n).stall = none := rfl

@[simp] theorem retire_wait (c : Ctx) (p : Bool) (n : Nat) : (c.retire p n).wait = .nothing := rfl

/-- The acting tile after an instruction that is followed in sequence. -/
theorem followed_tile (i : Instr) (s t : State) (h : Acts t) :
    (followed i s t).tile =
      (t.tile.modCtx t.actor.ctx Ctx.fallThrough).issues t.actor.ctx (fun c => c.retire (instrShape i).isPfx s.ctx.nextWin) := by
  rw [← State.tile_onCtx t Ctx.fallThrough h]
  exact State.tile_onTile _ _ (fun _ => rfl) (State.acts_onCtx t Ctx.fallThrough h)

theorem followed_l1i (i : Instr) (s t : State) (h : Acts t) : (followed i s t).tile.l1i = t.tile.l1i := by
  rw [followed_tile i s t h]
  rfl

theorem issues_ctxs (t : Tile) (c : Fin 4) (f : Ctx → Ctx) : (t.issues c f).ctxs = (t.modCtx c f).ctxs := rfl

theorem modCtx_ctxs_of_ne (t : Tile) {c d : Fin 4} (f : Ctx → Ctx) (h : d ≠ c) : (t.modCtx c f).ctxs[d] = t.ctxs[d] :=
  Vector.getElem_set_ne c.isLt d.isLt (fun e => h (Fin.ext e.symm))

theorem followed_other_ctx (i : Instr) (s t : State) (h : Acts t) {c : Fin 4} (hc : c ≠ t.actor.ctx) :
    (followed i s t).tile.ctxs[c] = t.tile.ctxs[c] := by
  rw [followed_tile i s t h, issues_ctxs, modCtx_ctxs_of_ne _ _ hc, modCtx_ctxs_of_ne _ _ hc]

theorem onTile_other_tile (t : State) (f : Tile → Tile) (hf : ∀ u, (f u).phys = u.phys) {q : Nat} (hq : q ≠ t.actor.tile) :
    (t.onTile f).tileD q = t.tileD q :=
  State.tileD_modTile_other t t.actor.tile q f hf hq

theorem onCtx_other_tile (t : State) (f : Ctx → Ctx) {q : Nat} (hq : q ≠ t.actor.tile) : (t.onCtx f).tileD q = t.tileD q :=
  onTile_other_tile t (fun u => u.modCtx t.actor.ctx f) (fun _ => rfl) hq

theorem followed_other_tile (i : Instr) (s t : State) {q : Nat} (hq : q ≠ t.actor.tile) :
    (followed i s t).tileD q = t.tileD q := by
  rw [← onCtx_other_tile t Ctx.fallThrough hq]
  exact onTile_other_tile (t.onCtx Ctx.fallThrough) (fun u => u.issues _ _) (fun _ => rfl) hq

/-! ### Who issues next -/

/-- A move that waits for nothing, opens no window and fills no line of L1I is no off-core reference (R28). -/
theorem madeReference_eq_false {t u : Tile} {x y : Ctx} (hs : y.stall = none) (hw : y.wait = .nothing)
    (hn : ∀ n ∈ winIds y, n < x.nextWin) (hl : u.l1i = t.l1i) : madeReference t u x y = false := by
  have hc : y.inCore = true := by rw [Ctx.inCore, hs]
  have ho : y.wins.any (fun w => x.nextWin ≤ w.id && w.away) = false := by
    rw [List.any_eq_false]
    intro w hm
    have hlt : w.id < x.nextWin := hn _ (List.mem_map_of_mem hm)
    simp [hlt]
  simp [madeReference, hw, hc, ho, hl, Wait.open]

/-- A context that has issued and made no off-core reference keeps issue (R28). -/
theorem noteIssue_of_no_reference {t u : Tile} {c : Fin 4} (hs : u.ctxs[c].stall = none)
    (hr : madeReference t u t.ctxs[c] u.ctxs[c] = false) :
    (t.noteIssue u c false).offCore = false ∧ (t.noteIssue u c false).issuing = c := by
  have hd : didIssue t.ctxs[c] u.ctxs[c] = true := by rw [didIssue, hs]; rfl
  simp only [Tile.noteIssue, hr, hd]
  exact ⟨rfl, rfl⟩

end Sys2Proof.Proofs
end

section
/-! PROOFS. fetchb (R124), of the obligations on memory. -/

namespace Sys2Proof.Proofs

open Sys2Proof.Machine Sys2Proof.Safety Sys2Proof.Claims

/-- A context with no word fetched ahead. -/
def discardFetched (c : Ctx) : Ctx := { c with fetched := [] }

/-- The state that a fetchb leaves, issued in s. -/
def afterFetchb (s : State) : State := followed .fetchb s (s.onCtx discardFetched)

theorem gives_fetchb : Gives .fetchb (fun s => s.onCtx discardFetched) := gives_of_effect rfl (fun _ => rfl)

theorem afterFetchb_ctx (s : State) (h : Acts s) : (afterFetchb s).ctx = (discardFetched s.ctx).fallThrough.retire false s.ctx.nextWin := by
  rw [← State.ctx_onCtx s discardFetched h]
  exact followed_ctx .fetchb s _ (State.acts_onCtx s _ h)

theorem afterFetchb_fetched (s : State) (h : Acts s) : (afterFetchb s).ctx.fetched = [] := by
  rw [afterFetchb_ctx s h, retire_fetched, fallThrough_fetched, discardFetched]

theorem afterFetchb_l1i (s : State) (h : Acts s) : (afterFetchb s).tile.l1i = s.tile.l1i := by
  rw [afterFetchb, followed_l1i _ _ _ (State.acts_onCtx s _ h), State.tile_onCtx s _ h, Tile.modCtx_l1i]

theorem afterFetchb_other_ctx (s : State) (h : Acts s) {c : Fin 4} (hc : c ≠ s.actor.ctx) :
    (afterFetchb s).tile.ctxs[c] = s.tile.ctxs[c] := by
  rw [afterFetchb, followed_other_ctx _ _ _ (State.acts_onCtx s _ h) hc, State.tile_onCtx s _ h, modCtx_ctxs_of_ne _ _ hc]

theorem afterFetchb_other_tile (s : State) {q : Nat} (hq : q ≠ s.actor.tile) : (afterFetchb s).tileD q = s.tileD q := by
  rw [← onCtx_other_tile s discardFetched hq]
  exact followed_other_tile .fetchb s _ hq

theorem afterFetchb_winIds (s : State) (h : Acts s) : (winIds (afterFetchb s).ctx).Sublist (winIds s.ctx) := by
  have hw : (discardFetched s.ctx).fallThrough.wins = s.ctx.wins := Ctx.fallThrough_wins _
  rw [afterFetchb_ctx s h, ← winIds_congr hw]
  exact retire_winIds _ _ _

/-- R124: a fetchb is no off-core reference. -/
theorem afterFetchb_no_reference (s : State) (h : Acts s) (hid : ∀ w ∈ s.ctx.wins, w.id < s.ctx.nextWin) :
    madeReference s.tile (afterFetchb s).tile s.ctx (afterFetchb s).ctx = false := by
  have hlt : ∀ n ∈ winIds s.ctx, n < s.ctx.nextWin := List.forall_mem_map.mpr hid
  have hctx := afterFetchb_ctx s h
  exact madeReference_eq_false (by rw [hctx, retire_stall]) (by rw [hctx, retire_wait])
    (fun n hn => hlt n ((afterFetchb_winIds s h).subset hn)) (afterFetchb_l1i s h)

/-- Issue stays with the context of a fetchb (R28, R124). -/
theorem noteIssue_afterFetchb (s : State) (h : Acts s) (hid : ∀ w ∈ s.ctx.wins, w.id < s.ctx.nextWin) :
    (s.tile.noteIssue (afterFetchb s).tile s.actor.ctx false).offCore = false ∧
    (s.tile.noteIssue (afterFetchb s).tile s.actor.ctx false).issuing = s.actor.ctx :=
  have hs : (afterFetchb s).ctx.stall = none := by rw [afterFetchb_ctx s h, retire_stall]
  noteIssue_of_no_reference hs (afterFetchb_no_reference s h hid)

/-- Settles O10: the effect of a fetchb, the fetch that follows it, its frame, and whom issue stays with. -/
theorem fetchbDiscardsFetchedWords : Obligations.FetchbDiscardsFetchedWords := by
  refine ⟨gives_fetchb, fun s hi hid => ⟨afterFetchb s, gives_fetchb s hi, ?_⟩⟩
  obtain ⟨hg, -⟩ := hi
  have h : Acts s := acts_of_go hg
  have hf : (afterFetchb s).ctx.fetched = [] := afterFetchb_fetched s h
  exact ⟨hf, fetch_fresh hf, fun _ hc => afterFetchb_other_ctx s h hc, fun _ hq => afterFetchb_other_tile s hq,
    noteIssue_afterFetchb s h hid⟩

end Sys2Proof.Proofs
end

section
/-! PROOFS. The control words of the switch (R175, R178 to R182, R184) and the words of jmp, bnz and setc (R179 to R181). -/

namespace Sys2Proof.Proofs

open Sys2Proof.Machine Sys2Proof.Safety Sys2Proof.Claims

/-! ### The words of jmp, bnz and setc -/

theorem decodeRoute_jmp {z a : Nat} (hz : z < 2 ^ 17) (ha : a < 2 ^ 11) :
    decodeRoute (4 * 2 ^ 28 + z * 2 ^ 11 + a) = if z = 0 then .ok (.jmp a) else .error .zField := by
  have hw : fld (4 * 2 ^ 28 + z * 2 ^ 11 + a) 28 4 = 4 ∧ fld (4 * 2 ^ 28 + z * 2 ^ 11 + a) 11 17 = z ∧
      fld (4 * 2 ^ 28 + z * 2 ^ 11 + a) 0 11 = a := by
    simp only [fld]; omega
  obtain ⟨eop, ez, ea⟩ := hw
  rw [decodeRoute, eop, ez, ea]; rfl

theorem decodeRoute_bnz {c z a : Nat} (hc : c < 4) (hz : z < 2 ^ 15) (ha : a < 2 ^ 11) :
    decodeRoute (5 * 2 ^ 28 + c * 2 ^ 26 + z * 2 ^ 11 + a) = if z = 0 then .ok (.bnz c a) else .error .zField := by
  have hw : fld (5 * 2 ^ 28 + c * 2 ^ 26 + z * 2 ^ 11 + a) 28 4 = 5 ∧ fld (5 * 2 ^ 28 + c * 2 ^ 26 + z * 2 ^ 11 + a) 26 2 = c ∧
      fld (5 * 2 ^ 28 + c * 2 ^ 26 + z * 2 ^ 11 + a) 11 15 = z ∧ fld (5 * 2 ^ 28 + c * 2 ^ 26 + z * 2 ^ 11 + a) 0 11 = a := by
    simp only [fld]; omega
  obtain ⟨eop, ec, ez, ea⟩ := hw
  rw [decodeRoute, eop, ec, ez, ea]; rfl

theorem decodeRoute_setc {c z v : Nat} (hc : c < 4) (hz : z < 2 ^ 10) (hv : v < 2 ^ 16) :
    decodeRoute (6 * 2 ^ 28 + c * 2 ^ 26 + z * 2 ^ 16 + v) = if z = 0 then .ok (.setc c v) else .error .zField := by
  have hw : fld (6 * 2 ^ 28 + c * 2 ^ 26 + z * 2 ^ 16 + v) 28 4 = 6 ∧ fld (6 * 2 ^ 28 + c * 2 ^ 26 + z * 2 ^ 16 + v) 26 2 = c ∧
      fld (6 * 2 ^ 28 + c * 2 ^ 26 + z * 2 ^ 16 + v) 16 10 = z ∧ fld (6 * 2 ^ 28 + c * 2 ^ 26 + z * 2 ^ 16 + v) 0 16 = v := by
    simp only [fld]; omega
  obtain ⟨eop, ec, ez, ev⟩ := hw
  rw [decodeRoute, eop, ec, ez, ev]; rfl

/-! ### A switch that stands still (R175) -/

theorem swStill_of_fired {s : State} (h : s.tile.swFired = true) : s.swStill s.tile = true := by
  rw [State.swStill, h, Bool.or_true]

theorem plainWord_of_still {s : State} (f : Switch → Switch) (h : s.swStill s.tile = true) : plainWord f s = s :=
  if_pos h

theorem fireWord_of_still {s : State} (ms : List (Nat × SwSrc)) (cs : List Nat) (f : Switch → Switch)
    (h : s.swStill s.tile = true) : fireWord ms cs f s = s :=
  if_pos h

theorem repWord_of_still {s : State} (ms : List (Nat × SwSrc)) (cs : List Nat) (k : Nat) (h : s.swStill s.tile = true) :
    repWord ms cs k s = s :=
  if_pos h

theorem busWord_of_still {s : State} (b sl r k : Nat) (h : s.swStill s.tile = true) : busWord b sl r k s = s :=
  if_pos h

theorem exec_tkwt (b v : Nat) (s : State) :
    exec (.tkwt b v) s = .next (
      if (if b = 0 then (s.die (physDie s.actor.tile)).l else (s.die (physDie s.actor.tile)).p).toNat % 65536 = v then
        plainWord (fun w => { w with spc := w.spc + 1 }) s
      else s) := rfl

theorem exec_route (n e u w c l b q d : Nat) (s : State) :
    exec (.route n e u w c l b q d) s =
      .next (if l = 1 then s else fireWord (swMoves n e u w) (swCins c) Switch.advance s) := rfl

/-- Whatever its word, a switch that stands still does nothing. -/
theorem exec_switchWord_of_still {i : Instr} {s : State} (hi : isRoute i = true) (h : s.swStill s.tile = true) :
    exec i s = .next s := by
  cases i with
  | route n e u w c l b q d => rw [exec_route, fireWord_of_still _ _ _ h, ite_self]
  | rep n e u w c k => exact congrArg Host.Outcome.next (repWord_of_still _ _ k h)
  | bus b q r k => exact congrArg Host.Outcome.next (busWord_of_still b q r k h)
  | tkwt b v => rw [exec_tkwt, plainWord_of_still _ h, ite_self]
  | ring _ _ _ | jmp _ | bnz _ _ | setc _ _ | switchHalt | nop => exact congrArg Host.Outcome.next (plainWord_of_still _ h)
  | _ => contradiction

/-! ### A word that takes its one tick -/

theorem swStill_of_runs {s : State} (h : SwitchRuns s) : s.swStill s.tile = false := by
  obtain ⟨-, hhalted, hstopped, hfired⟩ := h
  rw [State.swStill, hhalted, hstopped, hfired]; rfl

/-- Two changes of the acting tile, the first keeping its number, are one. -/
theorem onTile_onTile (s : State) (f g : Tile → Tile) (hf : ∀ t, (f t).phys = t.phys) :
    (s.onTile f).onTile g = s.onTile (fun t => g (f t)) := by
  simp only [State.onTile, State.modTile, List.map_map]
  congr 1
  refine List.map_congr_left fun t _ => ?_
  by_cases hp : (t.phys == s.actor.tile) = true
  · simp only [Function.comp_apply, if_pos hp, hf]
  · simp only [Function.comp_apply, if_neg hp]

/-- The tile after a word that moves nothing: its switch as the word leaves it, fired in this tick. -/
def tickSwitch (f : Switch → Switch) (t : Tile) : Tile := { t with sw := f t.sw, swFired := true }

theorem plainWord_of_runs {s : State} (f : Switch → Switch) (h : SwitchRuns s) : plainWord f s = s.onTile (tickSwitch f) := by
  rw [plainWord, if_neg (Bool.eq_false_iff.mp (swStill_of_runs h))]
  exact onTile_onTile s _ _ (fun _ => rfl)

/-- A word that takes its one tick gives the switch what it makes of it, and changes nothing else (R175). -/
theorem switchGives_of_plain {i : Instr} {s : State} {f : Switch → Switch} {w : Switch}
    (he : exec i s = .next (plainWord f s)) (hw : f s.tile.sw = w) (h : SwitchRuns s) : SwitchGives i s w := by
  have ht : (s.onTile (tickSwitch f)).tile = tickSwitch f s.tile := State.tile_onTile s _ (fun _ => rfl) h.1
  refine ⟨s.onTile (tickSwitch f), by rw [he, plainWord_of_runs f h], ?_⟩
  beta_reduce
  rw [ht]
  exact ⟨hw, rfl, rfl, rfl, rfl, rfl, rfl, rfl, rfl, rfl, fun q hq => onTile_other_tile s (tickSwitch f) (fun _ => rfl) hq⟩

theorem switchGives_bnz {c a : Nat} {s : State} (h : SwitchRuns s) :
    (vget s.tile.sw.c c 0 ≠ 0 →
      SwitchGives (.bnz c a) s { s.tile.sw with c := vset s.tile.sw.c c (vget s.tile.sw.c c 0 - 1), spc := a }) ∧
    (vget s.tile.sw.c c 0 = 0 → SwitchGives (.bnz c a) s { s.tile.sw with spc := s.tile.sw.spc + 1 }) :=
  ⟨fun hc => switchGives_of_plain rfl (if_pos hc) h, fun hc => switchGives_of_plain rfl (if_neg (not_not.mpr hc)) h⟩

theorem switchGives_tkwt {b v : Nat} {s : State} (h : SwitchRuns s) :
    let d := s.die (physDie s.actor.tile)
    ((if b = 0 then d.l else d.p).toNat % 65536 = v → SwitchGives (.tkwt b v) s { s.tile.sw with spc := s.tile.sw.spc + 1 }) ∧
    ((if b = 0 then d.l else d.p).toNat % 65536 ≠ v → exec (.tkwt b v) s = .next s) :=
  ⟨fun hv => switchGives_of_plain (by rw [exec_tkwt, if_pos hv]) rfl h, fun hv => by rw [exec_tkwt, if_neg hv]⟩

/-! ### The obligation -/

/-- Settles O41: the words of jmp, bnz and setc, a switch that has fired, and what each control word gives a switch that runs. -/
theorem switchControlResults : Obligations.SwitchControlResults := by
  refine ⟨fun c z a hc ha => ⟨?_, ?_, fun h0 hz => ⟨.zField, ?_⟩, fun h0 hz => ⟨.zField, ?_⟩⟩,
    fun c z v hc hv => ⟨?_, fun h0 hz => ⟨.zField, ?_⟩⟩,
    fun s i hf hi => exec_switchWord_of_still ?_ (swStill_of_fired hf), fun s h => ?_⟩
  · simpa using decodeRoute_jmp (z := 0) (by decide) ha
  · simpa using decodeRoute_bnz hc (z := 0) (by decide) ha
  · rw [decodeRoute_jmp hz ha, if_neg h0.ne']
  · rw [decodeRoute_bnz hc hz ha, if_neg h0.ne']
  · simpa using decodeRoute_setc hc (z := 0) (by decide) hv
  · rw [decodeRoute_setc hc hz hv, if_neg h0.ne']
  · obtain ⟨_, _, _, rfl⟩ | ⟨_, rfl⟩ | ⟨_, _, rfl⟩ | ⟨_, _, rfl⟩ | ⟨_, _, rfl⟩ | rfl | rfl | ⟨_, _, _, _, _, _, _, _, _, rfl⟩ |
      ⟨_, _, _, _, _, _, rfl⟩ | ⟨_, _, _, _, rfl⟩ := hi <;> rfl
  · exact ⟨fun _ _ _ => switchGives_of_plain rfl rfl h, fun _ => switchGives_of_plain rfl rfl h,
      fun _ _ => switchGives_bnz h, fun _ _ => switchGives_of_plain rfl rfl h, fun _ _ => switchGives_tkwt h,
      switchGives_of_plain rfl rfl h, switchGives_of_plain rfl rfl h⟩

end Sys2Proof.Proofs
end
